-- ==== Sys2Proof/Word.lean ====
section
/-! DEFINITION. Word types and unit numbers of the module (00 R4, R5, R9; 01 numbering table). -/

namespace Sys2Proof

/-- One byte of memory. -/
abbrev Byte := BitVec 8
/-- A 32-bit word: tallies, FP32 and INT32 values. -/
abbrev W32 := BitVec 32
/-- A 64-bit word: registers, instructions, place addresses (R9, R48, R339). -/
abbrev W64 := BitVec 64
/-- A predicate register: one bit per dressing lane (R332). -/
abbrev Pred := BitVec 128

/-- Global core id, 16 × die + local (R4). -/
abbrev CoreId := Fin 128
/-- C-die number (R5). -/
abbrev DieId := Fin 8
/-- Claim number (R524). -/
abbrev ClaimId := Fin 8
/-- PCIe function number (R517). -/
abbrev FnId := Fin 8
/-- Goham link number (R29). -/
abbrev LinkId := Fin 12
/-- Window descriptor number (R422). -/
abbrev WinId := Fin 256
/-- Rank of a module in its group (R6). -/
abbrev Rank := Fin 64
/-- Sump slot number (R440). -/
abbrev SlotId := Fin 1024
/-- Module haul stream or queue-pair number (R486). -/
abbrev HaulId := Fin 4096
/-- Slot-table number: ports 0 to 27 and the ring-bridge egress points (R451). -/
abbrev TableId := Fin 44

end Sys2Proof
end

