-- ==== Sys2Proof/Syntax.lean ====
section
/-! DEFINITION. The commands of the module: one constructor of `Instr` per row of the opcode table, with the operands the
outside supplies (a unit number, an address, a value, what a sensor reads, what a peer sends). An instruction of a core
program carries only its core: the sequencer fetches the word from the instruction region itself (R332, R333). -/

namespace Sys2Proof

/-- Bench ports in the order of CORE_BENCH_FAULT (R288). -/
inductive Port where
  | pArray | pDress | pMove | pNet
  deriving DecidableEq, Repr

/-- Engines (R290). -/
inductive Engine where
  | sequencer (core : CoreId)
  | matrix (core : CoreId)
  | dressing (core : CoreId)
  | coreMover (core : CoreId) (m1 : Bool)
  | netPort (core : CoreId)
  | hubMover (n : Fin 16)
  | collMover (n : Fin 16)
  | haul
  | sump
  | firmware
  /-- An engine of another module, through a window. -/
  | remote (rank : Rank) (claim : ClaimId)
  deriving DecidableEq, Repr

/-- What the error-correcting code of a word finds when it is read (R630 to R633): the outside's input. -/
inductive Ecc where
  | clean | corrected | uncorrectable
  deriving DecidableEq, Repr

/-- The mark of a bench access: the tag operations of R293. -/
inductive TagMark where
  /-- Untagged read or write. -/
  | plain
  /-- Holding read, or tagged write without the fill mark. -/
  | hold
  /-- Consuming read (release mark), or tagged write with the fill mark. -/
  | pass
  deriving DecidableEq, Repr

/-- A bench access of one line (R252). -/
inductive BenchOp where
  | read (len : Nat)
  | write (data : List Byte)
  deriving DecidableEq, Repr

/-- Accumulate kinds, in the order of acc_kind (R385). -/
inductive AccKind where
  | fadd | fmax | fmin | iadd | imax | imin
  deriving DecidableEq, Repr

/-- The turn of an accumulate request: counter, contributor index and end bit (R269). -/
structure TurnRef where
  counter : Fin 512
  contributor : Nat
  last : Bool
  deriving DecidableEq, Repr

/-- An accumulate request as it reaches a gallery slice (R267, R269). -/
structure AccReq where
  engine : Engine
  offset : Nat
  kind : AccKind
  data : List Byte
  turn : Option TurnRef
  deriving DecidableEq, Repr

/-- What a fault of the hardware adds to an adder's exact sum, in units of the sum's lowest bit: the element that it strikes
and, where parts are combined, the part that is added (R446, R474, R645). -/
structure AdderErr where
  part : Nat
  elem : Nat
  err : Int
  deriving DecidableEq, Repr

/-- An error that the hardware's own fault makes in one column of an array while a row passes: the exact sum of a scale
block is off by `mant × 2^expo` (column 64 is the check column), or the fold and rounding, or the accumulator update, gives
the word shown (R125, R644). -/
inductive ArrayErr where
  | sum (column : Fin 65) (mant expo : Int)
  | fold (column : Fin 64) (word : BitVec 32)
  | update (column : Fin 64) (word : BitVec 32)
  deriving DecidableEq, Repr

/-- Where such an error strikes: the array, the chunk of a packed pass, and the scale block of the chunk. -/
structure ArrayFault where
  array : Fin 4
  half : Bool
  block : Fin 2
  err : ArrayErr
  deriving DecidableEq, Repr

/-- An array error in the S or the PV MMAs of an attention call: the step's number, the column block, and the row (R239). -/
structure AttError where
  step : Nat
  block : Fin 4
  row : Fin 64
  error : ArrayFault
  deriving DecidableEq, Repr

/-- Kinds of object a synchronisation operation waits on (R331). -/
inductive SyncKind where
  | tag | tally | conveyor | other
  deriving DecidableEq, Repr

/-- Movers: core movers M0 and M1, and hub movers (R373). -/
inductive MoverId where
  | core (c : CoreId) (m1 : Bool)
  | hub (n : Fin 16)
  deriving DecidableEq, Repr

/-- A memory unit whose power-up zero-fill can end (R282). -/
inductive MemUnit where
  | benchBank (c : CoreId) (b : Fin 16)
  | galleryBank (n : Fin 512)
  | dramRegion (r : Fin 225)
  deriving DecidableEq, Repr

/-- A memory word, for scrubbing (R634): an 8 B word of a bench or the gallery, a 64 B unit of DRAM. -/
inductive MemWord where
  | bench (c : CoreId) (word : Nat)
  | gallery (word : Nat)
  | dram (unit : Nat)
  deriving DecidableEq, Repr

/-- What a packet between modules asks for (R426, R423). -/
inductive RemoteOp where
  | read (len : Nat)
  /-- A write; one of a post carries the CRC-32C of its bytes (R640; DESIGN CHOICE, log entry 141: each write its own). -/
  | write (data : List Byte) (mark : TagMark) (crc : Option W32)
  /-- A write of the low bits of one byte, whose others belong to a gated column (R170). -/
  | part (value : Byte) (bits : Fin 8) (mark : TagMark)
  | accumulate (kind : AccKind) (data : List Byte) (turn : Option TurnRef)
  | tallyAdd (tally : Nat) (delta : W32)
  | convPush (conveyor : Nat) (place : W64) (info : W64)
  deriving DecidableEq, Repr

/-- An access to a window of some module (R424, R426). -/
structure RemoteAccess where
  fromRank : Rank
  fromClaim : ClaimId
  window : WinId
  offset : Nat
  op : RemoteOp
  /-- The link on which it arrived. -/
  link : LinkId
  deriving DecidableEq, Repr

/-- A flit as it arrives: its 60 B body, its CRC-32C, and its virtual channel (R405, R410). The sequence number is not sent. -/
structure Flit where
  body : List Byte
  crc : W32
  vc : Fin 4
  deriving DecidableEq, Repr

/-- What a request goes to: a core's bench, a gallery bank, DRAM, a host port, another module, the home of a tally or of a
conveyor, the sump, the haul engine, the control cores (R26, R29, R31, R40). -/
inductive JctDest where
  | bench (c : CoreId)
  | gallery (bank : Fin 512)
  | dram (offset : Nat)
  | host (port : Fin 2)
  | module (rank : Rank) (offset : Nat)
  | tally (n : Fin 131072)
  | conveyor (n : Fin 512)
  | sump (slot : SlotId)
  | haul
  | control
  deriving DecidableEq, Repr

/-- A port with a pending queue (R436): that of a slot table (R432), or a port of a gallery slice (R263): 0 to 15 its
routers, 16 and 17 the ring bridges to the next and the previous die, 18 the hub bridge. -/
inductive PortRef where
  | table (t : TableId)
  | slice (d : DieId) (p : Fin 19)
  deriving DecidableEq, Repr

/-- A grant event: the port, and the other ports or inputs whose requests reach the same bank or sump slot in that beat (R432,
R438). -/
structure GrantEvent where
  port : PortRef
  rivals : List Nat
  deriving DecidableEq, Repr

/-- Block `n` of those that a mover has begun and not delivered, oldest first (R394). -/
structure MoverBlock where
  mover : MoverId
  n : Nat
  deriving DecidableEq, Repr

/-- A mover's start of a block, and whether the host answers the next read of its space with an unsupported request or a
completer abort (R395). -/
structure BlockStart where
  mover : MoverId
  hostError : Bool
  deriving DecidableEq, Repr

/-- A link and one of its virtual channels (R410). -/
structure LinkChannel where
  link : LinkId
  vc : Fin 4
  deriving DecidableEq, Repr

/-- Reduction operations of the sump and the collectives: operation and element type (R443, R457). -/
inductive RedOp where
  | add | max | min
  deriving DecidableEq, Repr

/-- Element types of the sump and the collectives (R457). -/
inductive RedType where
  | fp32 | bf16 | int32
  deriving DecidableEq, Repr

/-- What a sump configure sets (R442). -/
inductive SumpMode where
  | free
  | atomic
  | barrier (target : Nat)
  | reduction (parts : Nat) (ty : RedType) (op : RedOp)
  deriving DecidableEq, Repr

/-- What the hub reads in one interval of 2 µs: for each die its 48 activity counts (R552) and its eight process monitors, in
units of 25 M beats/s (R61), and the figures of the other classes in units of 0.125 W, before their calibration (R553). -/
structure Estimates where
  activity : List (List Nat)
  monitors : List (List Nat)
  memory : Nat
  links : Nat
  fixed : Nat
  deriving DecidableEq, Repr

/-- The inputs of one run of the governor loop that the spec leaves to firmware's own prediction: the intrinsic floors in W
(R563); for each die its predicted power at each pace code from 10, at the voltage of that code, in units of 0.125 W (R566,
R570); and the predicted module estimate (R572). -/
structure Forecast where
  linksFloor : Nat
  memFloor : Nat
  compFloor : Nat
  dies : List (List Nat)
  predicted : Nat
  /-- The ceilings that firmware derives from the memory and links budgets: grants in 64, and GB/s (R565 gives their ranges
  only). -/
  dramCeiling : Nat
  haulCeiling : Nat
  /-- The predicted module estimate with the unshed candidate at code 10. -/
  predictedUnshed : Nat
  deriving DecidableEq, Repr

/-- One member's answer to a group plan (R613). -/
structure GroupAnswer where
  rank : Rank
  major : Nat
  /-- Ready, not in a group, and without a live task (R611). -/
  ready : Bool
  /-- The far ends of its links and its straps fit the plan (R612, R415). -/
  compatible : Bool
  deriving DecidableEq, Repr

/-- What the group host port module forwards, or receives, over the fabric (R545, R547, R548). -/
inductive Forwarded where
  /-- The task record, and the image when it is not resident (R548). -/
  | task (claim : ClaimId) (ring : Fin 16) (entry : List W64) (image : List Byte)
  | hold (claim : ClaimId)
  | holdLift (claim : ClaimId)
  | cancel (claim : ClaimId)
  /-- A creation request, with the ranges that the host port module chose: the bases of the tallies, conveyors, turn counters,
  windows, streams and queue pairs; and a member's answer (R527). -/
  | claimCreate (ctrl quads mem sync power : W64) (bases : List Nat)
  | claimAnswer (claim : ClaimId) (rank : Rank) (granted : Bool)
  /-- Whether the claim is held on the sending member (R545). -/
  | claimHeld (claim : ClaimId) (rank : Rank) (held : Bool)
  | claimDestroy (claim : ClaimId)
  /-- A member's completion record, for the host port module to write at record + 64 × rank. -/
  | record (claim : ClaimId) (rank : Rank) (words : List W64)
  | hostWrite (claim : ClaimId) (iova : Nat) (data : List Byte)
  | hostRead (claim : ClaimId) (iova len : Nat)
  /-- The claim's task has aborted on the sending member (R397). -/
  | abort (claim : ClaimId) (rank : Rank)
  /-- The group is dissolved (R619), or its host port is another member's function (R549). -/
  | dissolve
  | control (rank : Rank) (fn : FnId)
  deriving DecidableEq, Repr

/-- NAK kinds (R502). -/
inductive NakKind where
  | sequence | remoteAccess | remoteOperation
  deriving DecidableEq, Repr

/-- What a firmware image holds, as far as R606 checks it. -/
structure FwImage where
  version : Nat
  security : Nat
  /-- The magic, sizes, digest and signature all check. -/
  genuine : Bool
  deriving DecidableEq, Repr

/-- One host write made before a doorbell: an IO virtual address and bytes (R315). -/
structure HostWrite where
  iova : Nat
  data : List Byte
  deriving DecidableEq, Repr

/-- The commands: one constructor per row of spec/opcode_table.json. -/
inductive Instr where
  /-- DROOP_DETECT (R71): the detector of a die sees the rail more than 37.5 mV low. -/
  | droopDetect (d : DieId)
  /-- DROOP_CLAMP_RELEASE (R73). -/
  | droopClampRelease (d : DieId)
  /-- VOLTAGE_STEP_SETTLE (R566). -/
  | voltageStepSettle (d : DieId)
  /-- ALU (R341). -/
  | alu (c : CoreId)
  /-- ALUI (R341). -/
  | alui (c : CoreId)
  /-- LI (R341). -/
  | li (c : CoreId)
  /-- LDST_LOAD (R342). -/
  | ldstLoad (c : CoreId)
  /-- LDST_STORE (R342). -/
  | ldstStore (c : CoreId)
  /-- BR (R343). -/
  | br (c : CoreId)
  /-- LOOP (R344). -/
  | loop (c : CoreId)
  /-- JMP (R343). -/
  | jmp (c : CoreId)
  /-- NOP (R344). -/
  | nop (c : CoreId)
  /-- END (R362). -/
  | endProgram (c : CoreId)
  /-- PCMP (R344). -/
  | pcmp (c : CoreId)
  /-- PLOGIC (R344). -/
  | plogic (c : CoreId)
  /-- CSRR (R344). -/
  | csrr (c : CoreId)
  /-- RDLOOP (R344). -/
  | rdloop (c : CoreId)
  /-- MMA (R346). -/
  | mma (c : CoreId)
  /-- MMA_R (R346). -/
  | mmaR (c : CoreId)
  /-- SLOAD (R348). -/
  | sload (c : CoreId)
  /-- SWAP (R349). -/
  | swap (c : CoreId)
  /-- DRAIN (R350). -/
  | drain (c : CoreId)
  /-- CATT (R347). -/
  | catt (c : CoreId)
  /-- FILL (R351). -/
  | fill (c : CoreId)
  /-- ATTEND (R353). -/
  | attend (c : CoreId)
  /-- PASS (R354). -/
  | pass (c : CoreId)
  /-- DOT (R202). -/
  | dot (c : CoreId)
  /-- CONV (R354). -/
  | conv (c : CoreId)
  /-- WLD (R354). -/
  | wld (c : CoreId)
  /-- WST (R354). -/
  | wst (c : CoreId)
  /-- LANE (R355). -/
  | lane (c : CoreId)
  /-- MOVE (R356). -/
  | move (c : CoreId)
  /-- MOVEH (R356). -/
  | moveh (c : CoreId)
  /-- TAG_FILL (R357). -/
  | tagFill (c : CoreId)
  /-- TAG_DRAIN (R357). -/
  | tagDrain (c : CoreId)
  /-- TALLY_ADD (R299). -/
  | tallyAdd (c : CoreId)
  /-- TALLY_ADD_FETCH (R299). -/
  | tallyAddFetch (c : CoreId)
  /-- TALLY_SET (R299). -/
  | tallySet (c : CoreId)
  /-- TALLY_READ (R299). -/
  | tallyRead (c : CoreId)
  /-- TWAIT (R300). -/
  | twait (c : CoreId)
  /-- CONVEYOR_PUSH (R304). -/
  | conveyorPush (c : CoreId)
  /-- CONVEYOR_POP (R304). -/
  | conveyorPop (c : CoreId)
  /-- CONVEYOR_RESET (R304). -/
  | conveyorReset (c : CoreId)
  /-- FENCE (R313). -/
  | fence (c : CoreId)
  /-- POST (R359). -/
  | post (c : CoreId)
  /-- RTALLY (R359). -/
  | rtally (c : CoreId)
  /-- RPUSH (R359). -/
  | rpush (c : CoreId)
  /-- WFENCE (R314). -/
  | wfence (c : CoreId)
  /-- CSTEP (R454). -/
  | cstep (c : CoreId)
  /-- PHASE (R360). -/
  | phase (c : CoreId)
  /-- BREAK (R361). -/
  | breakPoint (c : CoreId)
  /-- MMA_START (R91). -/
  | mmaStart (c : CoreId)
  /-- STATIONARY_LOAD_START (R94). -/
  | stationaryLoadStart (c : CoreId)
  /-- STATIONARY_LOAD_DONE (R95). -/
  | stationaryLoadDone (c : CoreId)
  /-- FILL_START (R351). -/
  | fillStart (c : CoreId)
  /-- ARRAY_SLICE_ENTER (R100). -/
  | arraySliceEnter (c : CoreId)
  /-- ARRAY_ROW_COMPLETE (R101), with the failed comparisons the hardware sees, if any. -/
  | arrayRowComplete (c : CoreId) (faults : List ArrayFault)
  /-- ARRAY_IDLE (R108). -/
  | arrayIdle (c : CoreId)
  /-- DRESSING_ITEM_START (R171). -/
  | dressingItemStart (c : CoreId)
  /-- CLOSING_PASS_START (R196). -/
  | closingPassStart (c : CoreId)
  /-- ATTENTION_CALL_START (R208), with what a fault of the hardware does in the call's S MMAs and in its PV MMAs. -/
  | attentionCallStart (c : CoreId) (scoreErrors valueErrors : List AttError)
  /-- ATTENTION_CLOSING (R218). -/
  | attentionClosing (c : CoreId)
  /-- HAUL_HAND (R492): the next handed piece of the core; `flips` is what changes on the way to the gallery bank, as (byte of
  the piece, bits), which the bank's CRC check sees (R641). -/
  | haulHand (c : CoreId) (flips : List (Nat × Byte))
  /-- BENCH_ACCESS (R255): a port issues one access; `others` are the ports that reach a bank in the same beat. -/
  | benchAccess (c : CoreId) (eng : Engine) (port : Port) (offset : Nat) (op : BenchOp) (mark : TagMark)
      (others : List (Port × Nat)) (ecc : Ecc)
  /-- HELD_ACCESS_ISSUE (R297): the held access `i` of the core's wait registers. -/
  | heldAccessIssue (c : CoreId) (n : Nat)
  /-- GALLERY_READ (R264). -/
  | galleryRead (eng : Engine) (offset len : Nat) (ecc : Ecc)
  /-- GALLERY_WRITE (R264). -/
  | galleryWrite (eng : Engine) (offset : Nat) (data : List Byte)
  /-- TRANSPOSING_READ (R265): `elem` is 0 for 1 B, 1 for 2 B, 2 for 4 B, 3 for pairs of 4 bits. -/
  | transposingRead (eng : Engine) (offset : Nat) (rowStride : Int) (elem : Fin 4)
  /-- STRIDED_READ (R265): up to four dimensions (size, stride), innermost first. -/
  | stridedRead (eng : Engine) (offset : Nat) (elem : Fin 4) (dims : List (Nat × Int))
  /-- GATHER (R266). -/
  | gather (eng : Engine) (list count base : Nat) (rowStride : Int) (rowSize : Nat)
  /-- ACCUMULATE_IN_PLACE (R269), with what a fault of the adder does, which its residue check may see (R645). -/
  | accumulateInPlace (req : AccReq) (upset : Option AdderErr)
  /-- QUANTISE_ON_WRITE (R272): one row of FP32 or BF16 values into the format `target`. -/
  | quantiseOnWrite (eng : Engine) (fromBf16 : Bool) (row : List Byte) (target : Nat) (dst scaleDst : Nat) (sat : Bool)
  /-- ZERO_FILL (R273). -/
  | zeroFill (eng : Engine) (offset len : Nat)
  /-- ROW_REDUCTION (R274). -/
  | rowReduction (eng : Engine) (offset n : Nat) (isMax : Bool) (dst : W64)
  /-- TURN_SET (R268). -/
  | turnSet (eng : Engine) (t : Fin 512) (count tally : Nat) (tallyEn : Bool)
  /-- TURN_HOLD_PRESENT (R270). -/
  | turnHoldPresent (t : Fin 512)
  /-- BACKOFF_RETRY (R437): the request `i` of the backoff list. -/
  | backoffRetry (n : Nat)
  /-- JUNCTION_REQUEST (R436): a request of an engine reaches port `stage` of its path; one from another module names the link
  on which it arrived, and with another module as its destination it is transit. -/
  | junctionRequest (eng : Engine) (dest : JctDest) (stage bytes : Nat) (inbound : Option LinkId)
  /-- PORT_GRANT (R432). -/
  | portGrant (g : GrantEvent)
  /-- DRAM_ACCESS (R277): a read of `len` bytes when `data` is empty, else a write. -/
  | dramAccess (eng : Engine) (offset len : Nat) (data : List Byte) (ecc : Ecc)
  /-- BENCH_BANK_POWER (R280). -/
  | benchBankPower (f : FnId) (c : CoreId) (off : BitVec 16)
  /-- PWR_GAL_OFF_WRITE (R281). -/
  | pwrGalOffWrite (f : FnId) (d : DieId) (off : W64)
  /-- PWR_DRAM_OFF_WRITE (R281). -/
  | pwrDramOffWrite (f : FnId) (w : Fin 4) (off : W64)
  /-- POWER_UP_ZERO_FILL_DONE (R282). -/
  | powerUpZeroFillDone (u : MemUnit)
  /-- DRAM_REGION_ZEROED (R286). -/
  | dramRegionZeroed (r : Fin 225)
  /-- WATCHDOG_STALL (R327). -/
  | watchdogStall (k : ClaimId)
  /-- DEADLINE_MISS (R329). -/
  | deadlineMiss (c : CoreId) (engine : Fin 6) (kind : SyncKind) (object : Nat) (cls : Fin 16)
  /-- BLOCK_DEADLINE_MISS (R394). -/
  | blockDeadlineMiss (b : MoverBlock)
  /-- HOLD_TAKES_EFFECT (R363). -/
  | holdTakesEffect (k : ClaimId)
  /-- TASK_END (R316): `elapsed` is doorbell to completion in µs. -/
  | taskEnd (k : ClaimId) (elapsed : Nat)
  /-- MOVER_BLOCK_START (R391). -/
  | moverBlockStart (b : BlockStart)
  /-- COMPLETION_ACTION (R379). -/
  | completionAction (m : MoverId)
  /-- TASK_ABORT (R397). -/
  | taskAbort (k : ClaimId) (elapsed : Nat)
  /-- PEER_ABORT (R397). -/
  | peerAbort (k : ClaimId) (rank : Rank)
  /-- ATS_INVALIDATION (R522): the range of pages, and whether the host still translates it. -/
  | atsInvalidation (f : FnId) (page pages : Nat) (mapped : Bool)
  /-- FLIT_RECEIVE (R408): the flits of a codeword in order, the acknowledged sequence number, the credits returned. -/
  | flitReceive (l : LinkId) (flits : List Flit) (corrected marked : Bool) (acked : Option Nat)
      (credits : List (Fin 4 × Nat))
  /-- REPLAY_REQUEST (R408). -/
  | replayRequest (l : LinkId) (seq : Nat)
  /-- LINK_RETRAIN_DONE (R409). -/
  | linkRetrainDone (l : LinkId) (ok : Bool)
  /-- LANE_FAILURE (R411). -/
  | laneFailure (l : LinkId) (lane : Fin 8)
  /-- LINK_DOWN (R412). -/
  | linkDown (l : LinkId)
  /-- INBOUND_WINDOW_ACCESS (R426). -/
  | inboundWindowAccess (a : RemoteAccess)
  /-- WIN_REFUSED (R426): the requester's engine, the window, rank and refusal code. -/
  | winRefused (eng : Engine) (w : WinId) (rank : Rank) (code : Fin 9)
  /-- TRANSIT_PACKET (R419), with the link and the virtual channel on which it arrived (R416). -/
  | transitPacket (inbound : LinkChannel) (dest : Rank) (bytes : Nat)
  /-- WINDOW_OPEN_EXPORT (R425). -/
  | windowOpenExport (f : FnId) (w : WinId) (word0 : W64)
  /-- WINDOW_OPEN_IMPORT (R425). -/
  | windowOpenImport (f : FnId) (w : WinId) (word0 : W64)
  /-- WINDOW_CLOSE (R425). -/
  | windowClose (f : FnId) (w : WinId)
  /-- SUMP_ACQUIRE (R442). -/
  | sumpAcquire (k : ClaimId)
  /-- SUMP_RELEASE (R442). -/
  | sumpRelease (k : ClaimId) (n : SlotId)
  /-- SUMP_CONFIGURE (R442). -/
  | sumpConfigure (k : ClaimId) (n : SlotId) (mode : SumpMode)
  /-- SUMP_ARRIVE (R442): generation `g`, the arriving agent's own number. -/
  | sumpArrive (k : ClaimId) (n : SlotId) (g who : Nat)
  /-- SUMP_CONTRIBUTE (R443). -/
  | sumpContribute (k : ClaimId) (n : SlotId) (part : Nat) (data : List Byte) (upset : Option AdderErr)
  /-- SUMP_RESULT (R443). -/
  | sumpResult (k : ClaimId) (n : SlotId) (who : Nat)
  /-- SUMP_ATOMIC (R442). -/
  | sumpAtomic (k : ClaimId) (n : SlotId) (op : RedOp) (ty : RedType) (data : List Byte) (upset : Option AdderErr)
  /-- COLLECTIVE_CHUNK (R464): call `n` of those that core `c` issued, the stream, the sending member, the parameters it
  announced (words 0 and 1 of its descriptor and its group descriptor), the data, the CRC-32C that came with it (R637), and what
  a fault of the combine unit does, which its residue check may see (R474). -/
  | collectiveChunk (c : CoreId) (n stream peer : Nat) (params : List W64) (data : List Byte) (crc : W32)
      (upset : Option AdderErr)
  /-- COLLECTIVE_COMPLETE (R455): call `n` of those that core `c` issued. -/
  | collectiveComplete (c : CoreId) (n : Nat)
  /-- FRAME_SEND (R501): stream, receiver. -/
  | frameSend (n : HaulId) (r : Fin 8)
  /-- ACKNOWLEDGE (R502): acknowledged PSN. -/
  | acknowledge (q : HaulId) (psn : BitVec 24)
  /-- NAK (R502). -/
  | nak (q : HaulId) (kind : NakKind)
  /-- RNR_NAK (R502). -/
  | rnrNak (q : HaulId)
  /-- RNR_WAIT_EXPIRY (R502). -/
  | rnrWaitExpiry (q : HaulId)
  /-- ACK_TIMEOUT (R502). -/
  | ackTimeout (q : HaulId)
  /-- CNP (R503): microseconds since the last cut. -/
  | cnp (q : HaulId) (sinceCut : Nat)
  /-- RATE_INCREASE (R503). -/
  | rateIncrease (q : HaulId)
  /-- INBOUND_PACKET_DROP (R499). -/
  | inboundPacketDrop (e : Fin 2)
  /-- PFC_PAUSE (R499): a pause frame for a priority; `pause` false resumes. -/
  | pfcPause (e : Fin 2) (prio : Fin 8) (pause : Bool)
  /-- SLOW_RECEIVER_DEADLINE (R505). -/
  | slowReceiverDeadline (n : HaulId) (r : Fin 8)
  /-- ETHERNET_PORT_DOWN (R502). -/
  | ethernetPortDown (e : Fin 2)
  /-- STREAM_OPEN (R514). -/
  | streamOpen (f : FnId) (n : HaulId) (word0 : W64)
  /-- STREAM_CLOSE (R514). -/
  | streamClose (f : FnId) (n : HaulId)
  /-- QP_READY (R500). -/
  | qpReady (f : FnId) (q : HaulId) (word0 : W64)
  /-- QP_RESET (R500). -/
  | qpReset (f : FnId) (q : HaulId)
  /-- CLAIM_CREATE (R526): the value written to CLM_REQ_CTRL with op 1. -/
  | claimCreate (f : FnId) (ctrl : W64)
  /-- CLAIM_DESTROY (R529): the value written to CLM_REQ_CTRL with op 2. -/
  | claimDestroy (f : FnId) (ctrl : W64)
  /-- DOORBELL (R534): the tail written, and the host writes that PCIe ordering places before it (R315). -/
  | doorbell (f : FnId) (k : ClaimId) (ring : Fin 16) (tail : Nat) (writes : List HostWrite)
  /-- TASK_START (R535). -/
  | taskStart (k : ClaimId)
  /-- HOLD_REQUEST (R542). -/
  | holdRequest (f : FnId) (k : ClaimId)
  /-- HOLD_LIFT (R542). -/
  | holdLift (f : FnId) (k : ClaimId)
  /-- CANCEL (R544). -/
  | cancel (f : FnId) (k : ClaimId)
  /-- FUNCTION_LEVEL_RESET (R544). -/
  | functionLevelReset (f : FnId)
  /-- CORE_L0_REQUEST (R594). -/
  | coreL0Request (f : FnId) (c : CoreId)
  /-- CORE_L1_REQUEST (R594). -/
  | coreL1Request (f : FnId) (c : CoreId)
  /-- CORE_L2_REQUEST (R594). -/
  | coreL2Request (f : FnId) (c : CoreId)
  /-- DIE_L3_REQUEST (R595). -/
  | dieL3Request (f : FnId) (d : DieId)
  /-- DIE_L0_REQUEST (R595). -/
  | dieL0Request (f : FnId) (d : DieId)
  /-- MODULE_L4_REQUEST (R596). -/
  | moduleL4Request (f : FnId)
  /-- MODULE_L0_REQUEST (R596). -/
  | moduleL0Request (f : FnId)
  /-- HOST_LIMIT_WRITE (R557). -/
  | hostLimitWrite (f : FnId) (watts : Nat)
  /-- BAR0_INVALID_ACCESS (R49). -/
  | bar0InvalidAccess (f : FnId) (offset : Nat) (isWrite : Bool)
  /-- POWERED_OFF_ACCESS (R50). -/
  | poweredOffAccess (f : FnId) (offset : Nat) (isWrite : Bool)
  /-- REGISTER_WRITE (R17): offset in BAR0, size in bytes (4 or 8), value. -/
  | registerWrite (f : FnId) (offset size : Nat) (value : W64)
  /-- POWER_ESTIMATE_TICK (R552). -/
  | powerEstimateTick (e : Estimates)
  /-- FAST_LIMITER_TICK (R571). -/
  | fastLimiterTick
  /-- GOVERNOR_LOOP (R572). -/
  | governorLoop (p : Forecast)
  /-- EXCURSION_REPORT (R562). -/
  | excursionReport
  /-- CALIBRATION_TICK (R555): measured power over the millisecond, in units of 0.125 W, of the eight C-die rails, then of the
  memory, links and fixed classes. -/
  | calibrationTick (rails : List Nat)
  /-- RATE_CORRECTION_TICK (R566), with what the eight monitors of each die read then (R61). -/
  | rateCorrectionTick (monitors : List (List Nat))
  /-- ACHIEVABLE_CODE_REPORT (R577). -/
  | achievableCodeReport
  /-- MATCH_REPORT_RECEIVE (R578). -/
  | matchReportReceive (rank : Rank) (code : Nat)
  /-- GRP_SYNC_DRIVE (R682). -/
  | grpSyncDrive
  /-- GRP_SYNC_PULSE (R578): the length of the low level in units of 0.1 µs. -/
  | grpSyncPulse (low : Nat)
  /-- GRP_SYNC_TIMEOUT (R578). -/
  | grpSyncTimeout
  /-- THERMAL_SAMPLE (R581): the 24 sensors of a die, in units of 0.125 °C. -/
  | thermalSample (d : DieId) (sensors : List Int)
  /-- DRAM_THERMAL_TICK (R583): the temperature of each stack, in units of 0.125 °C. -/
  | dramThermalTick (s0 s1 : Int)
  /-- HUB_THERMAL_TICK (R584). -/
  | hubThermalTick (t : Int)
  /-- DIE_THERMAL_TRIP (R585). -/
  | dieThermalTrip (d : DieId)
  /-- HUB_THERMAL_TRIP (R585). -/
  | hubThermalTrip
  /-- VR_ALERT_N_ASSERT (R586). -/
  | vrAlertAssert
  /-- PWR_BRAKE_N_ASSERT (R586). -/
  | pwrBrakeAssert
  /-- FORCE_RELEASE (R586). -/
  | forceRelease
  /-- INPUT_POWER_SAMPLE (R587): input voltage (10 mV), current (10 mA), power (W), 1 ms mean (W). -/
  | inputPowerSample (volt amp watts mean : Nat)
  /-- FAILSAFE_TIMEOUT (R559). -/
  | failsafeTimeout
  /-- SET_CAP (R592). -/
  | setCap (cap : Nat) (store : Bool)
  /-- GET_CAP (R591). -/
  | getCap
  /-- GET_POWER (R591). -/
  | getPower
  /-- GET_REASONS (R591). -/
  | getReasons
  /-- SET_HOST_AUTH (R592). -/
  | setHostAuth (enable : Bool)
  /-- SET_FAILSAFE (R559). -/
  | setFailsafe (cap timeout : Nat)
  /-- SET_STATE (R596). -/
  | setState (state : Nat)
  /-- CLEAR_EXCURSION (R591). -/
  | clearExcursion
  /-- OEM_UNKNOWN_COMMAND (R591). -/
  | oemUnknownCommand (code : Byte)
  /-- PLDM_GET_SENSOR (R590). -/
  | pldmGetSensor (sensor : Nat)
  /-- PLDM_SET_RACK_CAP (R592). -/
  | pldmSetRackCap (cap : Nat)
  /-- QUERY_DEVICE_IDENTIFIERS (R624). -/
  | queryDeviceIdentifiers
  /-- GET_FIRMWARE_PARAMETERS (R624). -/
  | getFirmwareParameters
  /-- REQUEST_UPDATE (R624). -/
  | requestUpdate
  /-- PASS_COMPONENT_TABLE (R624). -/
  | passComponentTable (components ident : Nat)
  /-- UPDATE_COMPONENT (R624). -/
  | updateComponent (ident security : Nat)
  /-- REQUEST_FIRMWARE_DATA (R624). -/
  | requestFirmwareData (vdm : Bool) (data : List Byte)
  /-- TRANSFER_COMPLETE (R624). -/
  | transferComplete
  /-- VERIFY_COMPLETE (R622): what the management island finds in the written image. -/
  | verifyComplete (img : FwImage)
  /-- APPLY_COMPLETE (R624). -/
  | applyComplete
  /-- ACTIVATE_FIRMWARE (R623). -/
  | activateFirmware (selfContained : Bool)
  /-- GET_STATUS (R624). -/
  | getStatus
  /-- CANCEL_UPDATE_COMPONENT (R624). -/
  | cancelUpdateComponent
  /-- CANCEL_UPDATE (R624). -/
  | cancelUpdate
  /-- FW_STAGE (R622): the image that the mailbox command's buffer holds, as R606 finds it; whether flash writes hold. -/
  | fwStage (f : FnId) (seq : BitVec 16) (img : FwImage) (size : Nat) (flashOk : Bool)
  /-- FW_ACTIVATE (R623). -/
  | fwActivate (f : FnId) (seq : BitVec 16) (resetNow : Bool)
  /-- MODULE_RESET (R626). -/
  | moduleReset (f : FnId) (seq : BitVec 16) (force : Bool)
  /-- PORT_CONFIG (R619). -/
  | portConfig (f : FnId) (seq : BitVec 16) (pfs vfs : List Nat)
  /-- HAUL_CONFIG (R619). -/
  | haulConfig (f : FnId) (seq : BitVec 16) (e : Fin 2) (mac : BitVec 48) (ip : BitVec 128) (pfc : Fin 8) (cc : W64)
  /-- GROUP_FORM (R613). -/
  | groupForm (f : FnId) (seq : BitVec 16) (data0 : W64)
  /-- GROUP_PLAN_RECEIVE (R613). -/
  | groupPlanReceive (plan : W64) (sender : Rank) (linksOk : Bool)
  /-- GROUP_COMMIT_RECEIVE (R613). -/
  | groupCommitReceive
  /-- GROUP_DISSOLVE (R619). -/
  | groupDissolve (f : FnId) (seq : BitVec 16)
  /-- GROUP_TAKE_CONTROL (R549): `lowerToo` is whether a member of lower rank issues it together. -/
  | groupTakeControl (f : FnId) (seq : BitVec 16) (lowerToo : Bool)
  /-- LINK_RETRAIN (R411). -/
  | linkRetrain (f : FnId) (seq : BitVec 16) (mask : BitVec 12)
  /-- DIE_RESTART (R585). -/
  | dieRestart (f : FnId) (seq : BitVec 16) (d : DieId)
  /-- WATCHDOG (R326). -/
  | watchdog (f : FnId) (seq : BitVec 16) (k : ClaimId) (disable : Bool)
  /-- TELEMETRY (R621). -/
  | telemetry (f : FnId) (seq : BitVec 16) (ring : W64) (entries period : Nat)
  /-- TELEMETRY_REFRESH (R620): the hub timebase in ns. -/
  | telemetryRefresh (now : Nat)
  /-- LIVENESS_PROBE_SEND (R614). -/
  | livenessProbeSend
  /-- LIVENESS_PROBE_RECEIVE (R614). -/
  | livenessProbeReceive (rank : Rank) (isAnswer : Bool)
  /-- MEMBER_DECLARED_FAILED (R614). -/
  | memberDeclaredFailed (rank : Rank)
  /-- DECLARATION_RECEIVE (R615). -/
  | declarationReceive (rank : Rank)
  /-- REFORM_COMMIT (R615): the ranks that the commit removes. -/
  | reformCommit (failed : List Rank)
  /-- CONTROL_CORE_WATCHDOG (R604): hub cores 0 to 3, C-die cores 4 to 11; ms since the last hub expiry. -/
  | controlCoreWatchdog (n : Fin 12) (sinceLast : Nat)
  /-- CONTROL_CORE_RESTARTED (R604). -/
  | controlCoreRestarted (n : Fin 4)
  /-- SCRUB_ACCESS (R634). -/
  | scrubAccess (w : MemWord) (ecc : Ecc)
  /-- DIE_FAIL (R653). -/
  | dieFail (d : DieId)
  /-- STACK_FAIL (R654). -/
  | stackFail (n : Fin 2)
  /-- MODULE_FAULT (R655). -/
  | moduleFault
  /-- LOG_PERSIST (R660). -/
  | logPersist
  /-- AUX_GOOD (R671). -/
  | auxGood
  /-- STRAP_SAMPLE (R674). -/
  | strapSample (sbSel h0Bif h1Bif : Bool) (modId : BitVec 6)
  /-- INPUT_CONNECT (R672). -/
  | inputConnect
  /-- MAIN_GOOD (R671). -/
  | mainGood
  /-- BOOT_RAILS (R608). -/
  | bootRails
  /-- BOOT_FIRMWARE_LOAD (R608): the die control cores that start. -/
  | bootFirmwareLoad (started : BitVec 8)
  /-- BOOT_ZERO_AND_CHARACTERISE (R608): each die's natural rate at each 12.5 mV step from 0.55 V, the arrays that fail
  the self-test, and the dies that fail the step. -/
  | bootZeroAndCharacterise (rates : List (List Nat)) (badArrays : List (Fin 512)) (badDies : BitVec 8)
  /-- BOOT_TRAINING (R608): the stacks and Goham links that train. -/
  | bootTraining (stackSet : BitVec 2) (links : BitVec 12)
  /-- BOOT_PCIE_RELEASE (R608): which of H0 and H1 trains now. -/
  | bootPcieRelease (h0 h1 : Bool)
  /-- MAIN_LOST (R675). -/
  | mainLost
  /-- AUX_LOST (R676). -/
  | auxLost
  /-- PERST_ASSERT (R625). -/
  | perstAssert (h1 : Bool)
  /-- PERST_DEASSERT (R609). -/
  | perstDeassert (h1 : Bool)
  /-- PCIE_LINK_DOWN (R546): link 0, 1 of H0, link 2, 3 of H1 (the second only when bifurcated). -/
  | pcieLinkDown (l : Fin 4)
  /-- SETDASA (R679). -/
  | setdasa (addr : BitVec 7)
  /-- ENTDAA (R679). -/
  | entdaa (addr : BitVec 7)
  /-- DROOP_HOLD_START (R73). -/
  | droopHoldStart (d : DieId)
  /-- VR_ALERT_N_DEASSERT (R586). -/
  | vrAlertDeassert
  /-- PWR_BRAKE_N_DEASSERT (R586). -/
  | pwrBrakeDeassert
  /-- SPILL_COPY_DONE (R505). -/
  | spillCopyDone (n : HaulId) (r : Fin 8)
  /-- ETHERNET_PORT_UP (R515). -/
  | ethernetPortUp (e : Fin 2)
  /-- PCIE_LINK_UP (R609). -/
  | pcieLinkUp (l : Fin 4)
  /-- CONFIGURATION_REQUEST (R609). -/
  | configurationRequest (l : Fin 4)
  /-- GROUP_ANSWER_RECEIVE (R613). -/
  | groupAnswerReceive (a : GroupAnswer)
  /-- GROUP_FORMATION_TIMEOUT (R613). -/
  | groupFormationTimeout
  /-- REFORM_ACKNOWLEDGE (R615). -/
  | reformAcknowledge (rank : Rank)
  /-- GROUP_FORWARD_RECEIVE (R547). -/
  | groupForwardReceive (x : Forwarded)
  deriving DecidableEq, Repr

end Sys2Proof
end

