-- ==== Sys2Proof/Decode.lean ====
section
/-! DEFINITION. The command that a word spells by the table's bits. No row of spec/opcode_table.json gives bits (its
commands are accesses, events and frames of the block's interfaces), so no word spells one. Instruction words of a core
program are state of the block: the sequencer reads them in `Machine.rowOf`. -/

namespace Sys2Proof

/-- The command of a table word: none for every word. -/
def decodeTableWord (_nbits _w : Nat) : Option Instr := none

end Sys2Proof
end

