-- ==== Sys2Proof/Config.lean ====
section
/-! DEFINITION. Values the spec leaves open: constants without a body, so that no proof can use a particular value.
Each is named in the assumption log (entries 20 to 29). -/

namespace Sys2Proof.Config

/-- Free value: exp2 of the fraction `num / 2 ^ shift`, in lowest terms, between 0 and 1, for results that are normal (R172
gives a bound of 2 ulp only; R222 makes the integer part of the argument an exact power of two). -/
opaque exp2Frac (num shift : Nat) : W32
/-- Free value: exp2 of an argument whose result is subnormal and no exact case (R172). -/
opaque exp2Low : W32 → W32
/-- Free value: log2 of an argument that is no power of two (R172). -/
opaque log2Raw : W32 → W32
/-- Free value: reciprocal of an argument that is no power of two (R172). -/
opaque recipRaw : W32 → W32
/-- Free value: rsqrt of an argument that is no even power of two (R172). -/
opaque rsqrtRaw : W32 → W32
/-- Free value: tanh outside its exact cases (R172). Its user keeps each of these within the bound of R172. -/
opaque tanhRaw : W32 → W32
/-- Free value: a byte that the spec calls undefined or lost (R133, R284, R399), by draw number. -/
opaque freeByte : Nat → Byte
/-- Free value: a 32-bit value that the spec calls undefined (R133, R205, R227), by draw number. -/
opaque freeWord : Nat → W32
/-- Free value: a 128-bit predicate that the spec calls undefined (R205), by draw number. -/
opaque freePred : Nat → Pred
/-- Free value: the bits of the ARITH fields of an aborted task's record (R540 calls them undefined), by draw number. -/
opaque freeArith : Nat → W64

/-- Free value: the syndrome or the CRC as read that a log entry records (R660), by draw number. -/
opaque freeDetail : Nat → W64

/-- Free value: the calibrated energy k_i of activity counter `i` of a die at 0.70 V and at factory scale, in pJ (R552). -/
opaque activityEnergy (die i : Nat) : Nat
/-- Free value: the leakage of a die at a voltage, in 0.5 mV, and a temperature, in 0.125 °C; in units of 0.125 W (R552). -/
opaque leakPower (die volt : Nat) (temp : Int) : Nat

/-- Free value: the PCI vendor and device identifiers that the update descriptors carry (R624 names them only). -/
opaque pciIdentifiers : W64

end Sys2Proof.Config
end

