-- ==== Sys2Proof/Machine/Bits.lean ====
section
/-! DEFINITION. Bit fields, signed readings, counters and byte order (R11, R138, R333). -/

namespace Sys2Proof.Machine

/-- A list of `n` copies of `x`. -/
def copies {α : Type} : Nat → α → List α
  | 0, _ => []
  | n + 1, x => x :: copies n x

/-- The numbers `a, a + 1, …, a + n - 1`. -/
def upFrom : Nat → Nat → List Nat
  | _, 0 => []
  | a, n + 1 => a :: upFrom (a + 1) n

/-- Bits `[hi:lo]` of a 64-bit word, as a number (R11: both ends included). -/
def fieldOf (w : W64) (hi lo : Nat) : Nat := (w.toNat >>> lo) % 2 ^ (hi + 1 - lo)

/-- Bit `i` of a 64-bit word. -/
def bitOf (w : W64) (i : Nat) : Bool := fieldOf w i i == 1

/-- A number placed at bit `lo` of a 64-bit word. -/
def placed (v lo : Nat) : W64 := BitVec.ofNat 64 (v * 2 ^ lo)

/-- A flag placed at bit `lo` of a 64-bit word. -/
def flagAt (b : Bool) (lo : Nat) : W64 := if b then placed 1 lo else 0

/-- A flag as the number 0 or 1. -/
def b2n (b : Bool) : Nat := if b then 1 else 0

/-- The low `n` bits of a number read as two's complement. -/
def signedOf (n v : Nat) : Int :=
  if v % 2 ^ n < 2 ^ (n - 1) then Int.ofNat (v % 2 ^ n) else Int.ofNat (v % 2 ^ n) - Int.ofNat (2 ^ n)

/-- An integer as an `n`-bit two's-complement number. -/
def wrapNat (n : Nat) (v : Int) : Nat := (v % Int.ofNat (2 ^ n)).toNat

/-- A 64-bit word from an integer. -/
def w64 (v : Int) : W64 := BitVec.ofInt 64 v

/-- A count that stays at `top` (saturating counters of the register maps). -/
def satAdd (top a b : Nat) : Nat := min top (a + b)

/-- A count that wraps at `2 ^ n`. -/
def wrapAdd (n a b : Nat) : Nat := (a + b) % 2 ^ n

/-- The number spelt by bytes, least significant first (R138, R333). -/
def leNat : List Byte → Nat
  | [] => 0
  | b :: bs => b.toNat + 256 * leNat bs

/-- `n` bytes of a number, least significant first. -/
def leBytes : Nat → Nat → List Byte
  | 0, _ => []
  | n + 1, v => BitVec.ofNat 8 v :: leBytes n (v / 256)

/-- The 64-bit words of a list of bytes. -/
def wordsOf : Nat → List Byte → List W64
  | 0, _ => []
  | n + 1, bs => BitVec.ofNat 64 (leNat (bs.take 8)) :: wordsOf n (bs.drop 8)

/-- The bytes of a list of 64-bit words. -/
def bytesOf : List W64 → List Byte
  | [] => []
  | w :: ws => leBytes 8 w.toNat ++ bytesOf ws

/-- Word `i` of a list of words; a word the list does not hold reads as zero. -/
def wordAt (ws : List W64) (i : Nat) : W64 := ws.getD i 0

/-- Bit `i` of a number used as a set of units. -/
def inSet (set i : Nat) : Bool := set.testBit i

/-- The set with unit `i` in it. -/
def setWith (set i : Nat) : Nat := if set.testBit i then set else set + 2 ^ i

/-- The set with unit `i` taken out. -/
def setWithout (set i : Nat) : Nat := if set.testBit i then set - 2 ^ i else set

/-- The set with the units of a second set taken out (writes of 1 to W1C bits, R17). -/
def setMinus (set gone : Nat) : Nat := set ^^^ (set &&& gone)

/-- How many of the units 0 to `n` - 1 are in a set. -/
def setCount : Nat → Nat → Nat
  | 0, _ => 0
  | n + 1, set => setCount n set + b2n (set.testBit n)

/-- Fold over a list with an early stop: the first `some` answer of `f`. -/
def firstSome {α β : Type} (f : α → Option β) : List α → Option β
  | [] => none
  | x :: xs => match f x with
    | some y => some y
    | none => firstSome f xs

/-- A counted loop: `f` applied for `a, a + 1, …`, `n` times. -/
def loopFrom {σ : Type} (f : Nat → σ → σ) : Nat → Nat → σ → σ
  | 0, _, x => x
  | n + 1, a, x => loopFrom f n (a + 1) (f a x)

/-- Element `i` of a list replaced. -/
def setAt {α : Type} : List α → Nat → α → List α
  | [], _, _ => []
  | _ :: xs, 0, y => y :: xs
  | x :: xs, i + 1, y => x :: setAt xs i y

/-- Element `i` of a list taken out. -/
def dropAt {α : Type} : List α → Nat → List α
  | [], _ => []
  | _ :: xs, 0 => xs
  | x :: xs, i + 1 => x :: dropAt xs i

/-- A byte whose low `k` bits are those of `new` and whose others are those of `old`. -/
def mixBits (k : Nat) (old new : Byte) : Byte :=
  BitVec.ofNat 8 (old.toNat / 2 ^ k * 2 ^ k + new.toNat % 2 ^ k)

end Sys2Proof.Machine
end

