-- ==== Sys2Proof/Machine/Arith.lean ====
section
/-! DEFINITION. Number formats, exact sums and rounding (04), and the function units of the dressing unit (05 R172).
A finite number is kept as sign, magnitude and power of two, so that every sum is exact until it is rounded. -/

namespace Sys2Proof.Machine

/-- A number: NaN, an infinity, or `(-1)^neg × mag × 2^ex`, where a zero keeps its sign. -/
inductive Num where
  | nan
  | inf (neg : Bool)
  | fin (neg : Bool) (mag : Nat) (ex : Int)
  deriving DecidableEq, Repr

/-- An exact signed number `m × 2^e`. -/
structure Dyadic where
  m : Int
  e : Int
  deriving DecidableEq, Repr

/-- How a floating-point format is laid out (R140, R141): mantissa bits, exponent bits, bias, the largest finite
magnitude code, the code of infinity (none where the format has none), and the canonical NaN code (R144). -/
structure FloatFmt where
  mant : Nat
  expo : Nat
  bias : Nat
  top : Nat
  infCode : Option Nat
  nanCode : Option Nat
  deriving DecidableEq, Repr

def fp32 : FloatFmt := ⟨23, 8, 127, 0x7F7FFFFF, some 0x7F800000, some 0x7FC00000⟩
def bf16 : FloatFmt := ⟨7, 8, 127, 0x7F7F, some 0x7F80, some 0x7FC0⟩
def fp16 : FloatFmt := ⟨10, 5, 15, 0x7BFF, some 0x7C00, some 0x7E00⟩
def e4m3 : FloatFmt := ⟨3, 4, 7, 0x7E, none, some 0x7F⟩
def e5m2 : FloatFmt := ⟨2, 5, 15, 0x7B, some 0x7C, some 0x7F⟩
def e3m2 : FloatFmt := ⟨2, 3, 3, 0x1F, none, none⟩
def e2m3 : FloatFmt := ⟨3, 2, 1, 0x1F, none, none⟩
def e2m1 : FloatFmt := ⟨1, 2, 1, 7, none, none⟩
/-- The KF4 scale format, without a sign (R141). -/
def ue5m3 : FloatFmt := ⟨3, 5, 15, 0xFE, none, some 0xFF⟩

/-- The exponent of a format's smallest normal number. -/
def minExp (f : FloatFmt) : Int := 1 - Int.ofNat f.bias

/-- `a × 2^k` for a power that may be negative, rounded down. -/
def shiftInt (a : Nat) (k : Int) : Nat := if 0 ≤ k then a * 2 ^ k.toNat else a / 2 ^ (-k).toNat

/-- The floor of log2 of `num / den`, both positive. -/
def floorLog (num den : Nat) : Int :=
  let l : Int := Int.ofNat (Nat.log2 num) - Int.ofNat (Nat.log2 den)
  if 0 ≤ l then (if den * 2 ^ l.toNat ≤ num then l else l - 1)
  else (if den ≤ num * 2 ^ (-l).toNat then l else l - 1)

/-- `num / den` rounded to the nearest integer, ties to even (R157). -/
def rneDiv (num den : Nat) : Nat :=
  let q := num / den
  let r := num % den
  if den < 2 * r then q + 1 else if 2 * r = den then q + q % 2 else q

/-- The magnitude code of `num / den × 2^ex` in a format, rounded to nearest even and not limited to the format's range:
codes rise with the value, so a code above `top` is an overflow (R157). -/
def roundMag (f : FloatFmt) (num den : Nat) (ex : Int) : Nat :=
  if num = 0 then 0 else
    let e := floorLog num den + ex
    let ee := if minExp f ≤ e then e else minExp f
    let k := ex - (ee - Int.ofNat f.mant)
    let n := if 0 ≤ k then rneDiv (num * 2 ^ k.toNat) den else rneDiv num (den * 2 ^ (-k).toNat)
    (ee - minExp f).toNat * 2 ^ f.mant + n

/-- The number that a sign and a magnitude code of a format stand for, where the code is finite. -/
def finiteOf (f : FloatFmt) (neg : Bool) (code : Nat) : Num :=
  let e := code / 2 ^ f.mant
  let m := code % 2 ^ f.mant
  if e = 0 then .fin neg m (minExp f - Int.ofNat f.mant)
  else .fin neg (2 ^ f.mant + m) (Int.ofNat e - Int.ofNat f.bias - Int.ofNat f.mant)

/-- Decode a code of a signed format (R140): special codes lie above `top`. -/
def decodeFloat (f : FloatFmt) (code : Nat) : Num :=
  let mag := code % 2 ^ (f.expo + f.mant)
  let neg := (code / 2 ^ (f.expo + f.mant)) % 2 == 1
  if mag ≤ f.top then finiteOf f neg mag
  else if f.infCode = some mag then .inf neg
  else match f.nanCode with
    | some _ => .nan
    | none => finiteOf f neg mag

/-- Decode a KF4 scale (R141). -/
def decodeUe5m3 (code : Nat) : Num := if code % 256 = 255 then .nan else finiteOf ue5m3 false (code % 256)

/-- Decode an E8M0 scale (R141). -/
def decodeE8m0 (code : Nat) : Num := if code % 256 = 255 then .nan else .fin false 1 (Int.ofNat (code % 256) - 127)

/-- The FP32 number of a word. -/
def num32 (w : W32) : Num := decodeFloat fp32 w.toNat

/-- The canonical NaN, infinities and zeros of FP32 (R144). -/
def nan32 : W32 := 0x7FC00000
def inf32 (neg : Bool) : W32 := if neg then 0xFF800000 else 0x7F800000
def zero32 (neg : Bool) : W32 := if neg then 0x80000000 else 0

/-- An FP32 word from a sign and a magnitude code, overflow giving infinity (R163). -/
def pack32 (neg : Bool) (mag : Nat) : W32 :=
  if 0x7F7FFFFF < mag then inf32 neg else BitVec.ofNat 32 (mag + (if neg then 2 ^ 31 else 0))

/-- A number rounded to FP32, to nearest even, overflow giving infinity. -/
def round32 : Num → W32
  | .nan => nan32
  | .inf n => inf32 n
  | .fin n m e => pack32 n (roundMag fp32 m 1 e)

/-- An exact number rounded to FP32; an exact zero is +0.0 (R145). -/
def roundDyadic (d : Dyadic) : W32 := pack32 (decide (d.m < 0)) (roundMag fp32 d.m.natAbs 1 d.e)

/-- The exact sum of two exact numbers. -/
def addDyadic (a b : Dyadic) : Dyadic :=
  if a.e ≤ b.e then ⟨a.m + b.m * Int.ofNat (2 ^ (b.e - a.e).toNat), a.e⟩
  else ⟨a.m * Int.ofNat (2 ^ (a.e - b.e).toNat) + b.m, b.e⟩

/-- The mod-3 residue of an integer or of a significand (R446, R644). -/
def residue3 (z : Int) : Nat := (z % 3).toNat

/-- An adder's sum of two significands on one scale, with what a fault of the hardware adds to it, and whether its residue
agrees with those of the operands (R446). -/
def adderSum (x y err : Int) : Int × Bool := (x + y + err, residue3 (x + y + err) = (residue3 x + residue3 y) % 3)

/-- The sum of two exact numbers by such an adder; the error counts in units of the sum's lowest bit. -/
def adderDyadic (a b : Dyadic) (err : Int) : Dyadic × Bool :=
  let e := min a.e b.e
  let r := adderSum (a.m * Int.ofNat (2 ^ (a.e - e).toNat)) (b.m * Int.ofNat (2 ^ (b.e - e).toNat)) err
  (⟨r.1, e⟩, r.2)

/-- The exact product of two exact numbers. -/
def mulDyadic (a b : Dyadic) : Dyadic := ⟨a.m * b.m, a.e + b.e⟩

/-- The signed exact value of a finite number. -/
def dyadicOf (neg : Bool) (mag : Nat) (ex : Int) : Dyadic := ⟨if neg then -Int.ofNat mag else Int.ofNat mag, ex⟩

/-- The exact product of two numbers with the special cases of R145. -/
def mulNum : Num → Num → Num
  | .nan, _ => .nan
  | _, .nan => .nan
  | .inf a, .inf b => .inf (a != b)
  | .inf a, .fin b m _ => if m = 0 then .nan else .inf (a != b)
  | .fin a m _, .inf b => if m = 0 then .nan else .inf (a != b)
  | .fin a m e, .fin b k g => .fin (a != b) (m * k) (e + g)

/-- FP32 sum of two numbers under R163: one rounding; a zero sum of unlike signs is +0.0. -/
def addNum : Num → Num → W32
  | .nan, _ => nan32
  | _, .nan => nan32
  | .inf a, .inf b => if a = b then inf32 a else nan32
  | .inf a, .fin _ _ _ => inf32 a
  | .fin _ _ _, .inf b => inf32 b
  | .fin a m e, .fin b k g =>
    let d := addDyadic (dyadicOf a m e) (dyadicOf b k g)
    if d.m = 0 then zero32 (a && b) else roundDyadic d

/-- The FP32 sum of an adder that a fault strikes, and whether its residue check holds (R446, R645). -/
def addUpset32 (a b : W32) (err : Int) : W32 × Bool :=
  match num32 a, num32 b with
  | .fin x m e, .fin y k g =>
    let d := adderDyadic (dyadicOf x m e) (dyadicOf y k g) err
    (if d.1.m = 0 then zero32 (x && y) else roundDyadic d.1, d.2)
  | x, y => (addNum x y, true)

/-- FP32 add, subtract, multiply and fused multiply-add (R163). -/
def add32 (a b : W32) : W32 := addNum (num32 a) (num32 b)
/-- The FP32 word with its sign inverted; a NaN stays NaN. -/
def neg32 (a : W32) : W32 := a ^^^ 0x80000000
def sub32 (a b : W32) : W32 := add32 a (neg32 b)
def mul32 (a b : W32) : W32 := round32 (mulNum (num32 a) (num32 b))
def fma32 (a b c : W32) : W32 := addNum (mulNum (num32 a) (num32 b)) (num32 c)
/-- The FP32 absolute value. -/
def abs32 (a : W32) : W32 := a &&& 0x7FFFFFFF

/-- Whether an FP32 word is NaN, infinite, or zero of either sign. -/
def isNan32 (a : W32) : Bool := decide (0x7F800000 < (abs32 a).toNat)
def isInf32 (a : W32) : Bool := (abs32 a).toNat == 0x7F800000
def isZero32 (a : W32) : Bool := (abs32 a).toNat == 0

/-- A key that orders the non-NaN FP32 words, −0.0 below +0.0 (R164). -/
def order32 (a : W32) : Int :=
  if a.toNat < 2 ^ 31 then Int.ofNat a.toNat else -Int.ofNat (a.toNat - 2 ^ 31) - 1

/-- FP32 max and min (R164). -/
def max32 (a b : W32) : W32 :=
  if isNan32 a || isNan32 b then nan32 else if order32 a < order32 b then b else a
def min32 (a b : W32) : W32 :=
  if isNan32 a || isNan32 b then nan32 else if order32 b < order32 a then b else a

/-- FP32 comparisons; a NaN operand gives false (R355), and the zeros are equal. -/
def lt32 (a b : W32) : Bool :=
  !(isNan32 a || isNan32 b) && !(isZero32 a && isZero32 b) && decide (order32 a < order32 b)
def eq32 (a b : W32) : Bool :=
  !(isNan32 a || isNan32 b) && ((isZero32 a && isZero32 b) || a == b)

/-- The FP32 quotient of an exact ratio, one rounding. -/
def ratio32 (neg : Bool) (num den : Nat) (ex : Int) : W32 := pack32 neg (roundMag fp32 num den ex)

/-- Widen a BF16 code to FP32, exactly; a NaN becomes the canonical NaN (R144, R162). -/
def widenBf16 (code : Nat) : W32 := round32 (decodeFloat bf16 code)

/-! ### Element formats by code (R179) -/

/-- Whether a format code is a block format, with 32-element blocks and one-byte scales (R137). -/
def isBlock (code : Nat) : Bool := 7 ≤ code && code ≤ 13

/-- Bits per element of a format code (R137, R179). -/
def fmtBits (code : Nat) : Nat :=
  if code = 0 || code = 6 then 32 else if code = 1 || code = 2 then 16
  else if code = 9 || code = 10 then 6 else if code = 11 || code = 13 then 4 else 8

/-- Whether the code is one of the 16-bit float formats. -/
def isHalf (code : Nat) : Bool := code = 1 || code = 2

/-- Whether the code is a 4-bit block format. -/
def isFour (code : Nat) : Bool := code = 11 || code = 13

/-- The number an element code stands for, before any block scale (R140). INT8 and INT32 are integers. -/
def decodeElem (fmt code : Nat) : Num :=
  match fmt with
  | 0 => decodeFloat fp32 code
  | 1 => decodeFloat bf16 code
  | 2 => decodeFloat fp16 code
  | 3 => decodeFloat e4m3 code
  | 4 => decodeFloat e5m2 code
  | 5 => let v := signedOf 8 code; .fin (decide (v < 0)) v.natAbs 0
  | 6 => let v := signedOf 32 code; .fin (decide (v < 0)) v.natAbs 0
  | 7 => decodeFloat e4m3 code
  | 8 => decodeFloat e5m2 code
  | 9 => decodeFloat e3m2 code
  | 10 => decodeFloat e2m3 code
  | 12 => let v := signedOf 8 code; .fin (decide (v < 0)) v.natAbs (-6)
  | _ => decodeFloat e2m1 code

/-- The number a block scale stands for: UE5M3 for KF4, E8M0 for the others (R141). -/
def decodeScale (fmt code : Nat) : Num := if fmt = 13 then decodeUe5m3 code else decodeE8m0 code

/-- Element `i` of packed data of a format (R138). -/
def elemCode (fmt : Nat) (bs : List Byte) (i : Nat) : Nat :=
  match fmtBits fmt with
  | 32 => leNat ((bs.drop (4 * i)).take 4)
  | 16 => leNat ((bs.drop (2 * i)).take 2)
  | 6 => (leNat ((bs.drop (3 * (i / 4))).take 3) / 2 ^ (6 * (i % 4))) % 64
  | 4 => ((bs.getD (i / 2) 0).toNat / 2 ^ (4 * (i % 2))) % 16
  | _ => (bs.getD i 0).toNat

/-- Bytes that `n` elements of a format take (R138). -/
def fmtBytes (fmt n : Nat) : Nat := (fmtBits fmt * n + 7) / 8

/-- Pack 4-bit codes, two in a byte (R138). -/
def packFour : List Nat → List Byte
  | [] => []
  | [a] => [BitVec.ofNat 8 a]
  | a :: b :: r => BitVec.ofNat 8 (a + 16 * b) :: packFour r

/-- Pack 6-bit codes, four in three bytes (R138). -/
def packSix : List Nat → List Byte
  | a :: b :: c :: d :: r => leBytes 3 (a + 64 * b + 4096 * c + 262144 * d) ++ packSix r
  | [] => []
  | [a] => leBytes 3 a
  | [a, b] => leBytes 3 (a + 64 * b)
  | [a, b, c] => leBytes 3 (a + 64 * b + 4096 * c)

/-- Pack element codes of a format into bytes (R138). -/
def packElems (fmt : Nat) (codes : List Nat) : List Byte :=
  match fmtBits fmt with
  | 32 => codes.flatMap (leBytes 4)
  | 16 => codes.flatMap (leBytes 2)
  | 6 => packSix codes
  | 4 => packFour codes
  | _ => codes.map (BitVec.ofNat 8)

/-! ### Array sums (R145 to R152) -/

/-- How the products of a chunk combine: a NaN, infinities of either sign (R145). -/
structure Specials where
  nan : Bool := false
  pos : Bool := false
  neg : Bool := false
  deriving DecidableEq, Repr

/-- The special products of a list. -/
def specialsOf : List Num → Specials
  | [] => {}
  | p :: ps =>
    let r := specialsOf ps
    match p with
    | .nan => { r with nan := true }
    | .inf false => { r with pos := true }
    | .inf true => { r with neg := true }
    | .fin _ _ _ => r

/-- The exact sum of the finite numbers of a list. -/
def sumExact : List Num → Dyadic
  | [] => ⟨0, 0⟩
  | .fin n m e :: ps => if m = 0 then sumExact ps else addDyadic (dyadicOf n m e) (sumExact ps)
  | _ :: ps => sumExact ps

/-- The answer that special products force on a chunk sum (R145), if any. -/
def specialSum (ps : List Num) : Option W32 :=
  let x := specialsOf ps
  if x.nan || (x.pos && x.neg) then some nan32
  else if x.pos then some (inf32 false) else if x.neg then some (inf32 true) else none

/-- The chunk sum of R148: products with their block scales folded in, summed exactly and rounded once. -/
def chunkSum (ps : List Num) : W32 :=
  match specialSum ps with
  | some w => w
  | none => roundDyadic (sumExact ps)

/-- The weight of the leading bit of a nonzero finite number; none for others. -/
def leadExp : Num → Option Int
  | .fin _ m e => if m = 0 then none else some (Int.ofNat (Nat.log2 m) + e)
  | _ => none

/-- The greatest leading-bit weight of a list of numbers (R152, R643). -/
def maxLead : List Num → Option Int
  | [] => none
  | p :: ps => match leadExp p, maxLead ps with
    | some a, some b => some (max a b)
    | some a, none => some a
    | none, r => r

/-- A number truncated toward zero to a multiple of 2^q: the truncated value in units of 2^q, and whether it lost bits. -/
def truncTo (q : Int) : Num → Int × Bool
  | .fin n m e =>
    if q ≤ e then ((if n then -Int.ofNat (m * 2 ^ (e - q).toNat) else Int.ofNat (m * 2 ^ (e - q).toNat)), false)
    else
      let d := 2 ^ (q - e).toNat
      ((if n then -Int.ofNat (m / d) else Int.ofNat (m / d)), m % d != 0)
  | _ => (0, false)

/-- The sum of truncated products, and whether any lost bits (R152). -/
def windowSum (q : Int) : List Num → Int × Bool
  | [] => (0, false)
  | p :: ps =>
    let t := truncTo q p
    let r := windowSum q ps
    (t.1 + r.1, t.2 || r.2)

/-- The window sum of R152 rounded to odd at 26 significant bits, then to FP32. -/
def roundWindow (w : Int) (sticky : Bool) (q : Int) : W32 :=
  let a := w.natAbs
  let l := Nat.log2 a
  let cut := if l < 26 then 0 else l - 25
  let r := a / 2 ^ cut
  let inexact := a % 2 ^ cut != 0 || sticky
  let odd := if inexact && r % 2 == 0 then r + 1 else r
  -- a sum of fewer than 26 bits keeps its lowest kept bit at weight 2^(l-25)
  let lift := if l < 25 then 25 - l else 0
  let r' := if l < 25 then (let x := a * 2 ^ lift; if inexact && x % 2 == 0 then x + 1 else x) else odd
  pack32 (decide (w < 0)) (roundMag fp32 r' 1 (q + Int.ofNat cut - Int.ofNat lift))

/-- The chunk sum of the 16-bit pairs (R152). -/
def chunkSum16 (ps : List Num) : W32 :=
  match specialSum ps with
  | some w => w
  | none => match maxLead ps with
    | none => zero32 false
    | some e =>
      let q := e - 57
      let r := windowSum q ps
      if r.1 = 0 then zero32 false else roundWindow r.1 r.2 q

/-- The integer chunk sum of the INT8 pair (R150). -/
def chunkSumInt (ps : List Num) : Int :=
  let d := sumExact ps
  d.m * Int.ofNat (2 ^ d.e.toNat)

/-! ### Conversions (R157 to R161, R697) -/

/-- What a conversion records (R697). -/
structure ConvFlags where
  sat : Nat := 0
  ovf : Nat := 0
  nanScale : Bool := false
  deriving DecidableEq, Repr

def addConv (a b : ConvFlags) : ConvFlags := ⟨a.sat + b.sat, a.ovf + b.ovf, a.nanScale || b.nanScale⟩

/-- A sign bit above a magnitude code. -/
def signCode (f : FloatFmt) (neg : Bool) (mag : Nat) : Nat := mag + (if neg then 2 ^ (f.expo + f.mant) else 0)

/-- A number to INT8 or INT32: rounded to nearest even and saturated; NaN gives 0 (R157). A finite input that rounds to
the least value of the format exactly, −128 or −2^31, is no saturation although its magnitude is above the listed largest
finite value (DESIGN CHOICE, log entry 112: R157 and R697 do not say). -/
def toIntSat (bits : Nat) (x : Num) : Nat × ConvFlags :=
  let hi : Int := Int.ofNat (2 ^ (bits - 1)) - 1
  let lo : Int := -Int.ofNat (2 ^ (bits - 1))
  match x with
  | .nan => (0, {})
  | .inf n => (wrapNat bits (if n then lo else hi), { sat := 1 })
  | .fin n m e =>
    let a := if 0 ≤ e then m * 2 ^ e.toNat else rneDiv m (2 ^ (-e).toNat)
    let v : Int := if n then -Int.ofNat a else Int.ofNat a
    if v < lo then (wrapNat bits lo, { sat := 1 })
    else if hi < v then (wrapNat bits hi, { sat := 1 }) else (wrapNat bits v, {})

/-- A number to a plain float format (R157): `sat` matters for the FP8 formats only (R158). -/
def toFloat (fmt : Nat) (f : FloatFmt) (sat : Bool) (x : Num) : Nat × ConvFlags :=
  match x with
  | .nan => (f.nanCode.getD 0, {})
  | .inf n =>
    if fmt = 3 then (if sat then (signCode f n f.top, { sat := 1 }) else (0x7F, { ovf := 1 }))
    else (signCode f n (f.infCode.getD f.top), {})
  | .fin n m e =>
    let c := roundMag f m 1 e
    if c ≤ f.top then (signCode f n c, {})
    else if fmt = 3 then (if sat then (signCode f n f.top, { sat := 1 }) else (0x7F, { ovf := 1 }))
    else if fmt = 4 && sat then (signCode f n f.top, { sat := 1 })
    else (signCode f n (f.infCode.getD f.top), { ovf := 1 })

/-- The float layout of a plain or element format code. -/
def layoutOf (fmt : Nat) : FloatFmt :=
  match fmt with
  | 0 => fp32 | 1 => bf16 | 2 => fp16 | 3 => e4m3 | 4 => e5m2 | 7 => e4m3 | 8 => e5m2 | 9 => e3m2 | 10 => e2m3
  | _ => e2m1

/-- A number to an unscaled format (R157). -/
def convertPlain (fmt : Nat) (sat : Bool) (x : Num) : Nat × ConvFlags :=
  if fmt = 5 then toIntSat 8 x else if fmt = 6 then toIntSat 32 x else toFloat fmt (layoutOf fmt) sat x

/-- One element of a block: the exact quotient of the value by the scale, rounded once, saturating (R157, R160, R161). -/
def convertElem (fmt : Nat) (scale : Dyadic) (x : Num) : Nat × ConvFlags :=
  match x with
  | .fin n m e =>
    if fmt = 12 then
      toIntSat 8 (.fin n m (e + 6 - scale.e))
    else
      let f := layoutOf fmt
      let c := roundMag f m scale.m.natAbs (e - scale.e)
      if c ≤ f.top then (signCode f n c, {}) else (signCode f n f.top, { sat := 1 })
  | _ => (0, {})

/-- Whether a number is finite. -/
def isFin : Num → Bool
  | .fin _ _ _ => true
  | _ => false

/-- The largest magnitude of a list of finite numbers, as an exact number. -/
def maxMag : List Num → Dyadic
  | [] => ⟨0, 0⟩
  | .fin _ m e :: ps =>
    let r := maxMag ps
    if (addDyadic ⟨Int.ofNat m, e⟩ ⟨-r.m, r.e⟩).m ≤ 0 then r else ⟨Int.ofNat m, e⟩
  | _ :: ps => maxMag ps

/-- The emax of R160. -/
def emaxOf (fmt : Nat) : Int :=
  match fmt with
  | 7 => 8 | 8 => 15 | 9 => 4 | 12 => 0 | _ => 2

/-- The E8M0 exponent x of R160. -/
def mxExp (fmt : Nat) (a : Dyadic) : Int :=
  if a.m = 0 then -127 else
    let x := Int.ofNat (Nat.log2 a.m.natAbs) + a.e - emaxOf fmt
    if x < -127 then -127 else if 127 < x then 127 else x

/-- The smallest positive UE5M3 code whose value is at least a sixth of `a`, or 0xFE (R161). -/
def kf4Scale (a : Dyadic) : Nat :=
  let ok (c : Nat) : Bool := match finiteOf ue5m3 false c with
    | .fin _ m e => decide (0 ≤ (addDyadic ⟨Int.ofNat (6 * m), e⟩ ⟨-a.m, a.e⟩).m)
    | _ => false
  (firstSome (fun c => if ok c then some c else none) (upFrom 1 0xFD)).getD 0xFE

/-- Convert one block of numbers to a block format: its scale code, element codes and what it records (R160, R161). -/
def convertBlock (fmt : Nat) (vs : List Num) : Nat × List Nat × ConvFlags :=
  if vs.all isFin then
    let a := maxMag vs
    let sc : Nat := if fmt = 13 then (if a.m = 0 then 0 else kf4Scale a) else (mxExp fmt a + 127).toNat
    if fmt = 13 && a.m == 0 then (0, vs.map (fun _ => 0), {})
    else
      let d : Dyadic := match decodeScale fmt sc with
        | .fin _ m e => ⟨Int.ofNat m, e⟩
        | _ => ⟨1, 0⟩
      let rs := vs.map (convertElem fmt d)
      (sc, rs.map Prod.fst, rs.foldl (fun acc r => addConv acc r.2) {})
  else (0xFF, vs.map (fun _ => 0), { nanScale := true })

/-- Cut a list into pieces of `n`, the last one shorter. -/
def pieces {α : Type} (n : Nat) : Nat → List α → List (List α)
  | 0, _ => []
  | k + 1, xs => if xs.isEmpty then [] else xs.take n :: pieces n k (xs.drop n)

/-- A row of numbers in a format: element codes, scale codes, and what the conversion records (R157, R160 to R162). -/
def convertRow (fmt : Nat) (sat : Bool) (vs : List Num) : List Nat × List Nat × ConvFlags :=
  if isBlock fmt then
    let rs := (pieces 32 vs.length vs).map (convertBlock fmt)
    (rs.flatMap (fun r => r.2.1), rs.map (fun r => r.1), rs.foldl (fun acc r => addConv acc r.2.2) {})
  else
    let rs := vs.map (convertPlain fmt sat)
    (rs.map Prod.fst, [], rs.foldl (fun acc r => addConv acc r.2) {})

/-- Elements `first` to `first + n - 1` of stored data as numbers, each multiplied by its block's scale (R142). -/
def readNums (fmt : Nat) (data scales : List Byte) (first n : Nat) : List Num :=
  (upFrom first n).map fun i =>
    let x := decodeElem fmt (elemCode fmt data i)
    if isBlock fmt then mulNum x (decodeScale fmt (scales.getD (i / 32) 0).toNat) else x

/-! ### Function units (R172). The free values of `Config` stand where the spec gives an error bound only, and are kept
within that bound (log entry 22). A unit in the last place is the FP32 spacing at the exact result. -/

/-- Whether an exact value is an integer. -/
def isInteger (m : Nat) (e : Int) : Bool := 0 ≤ e || m % 2 ^ (-e).toNat == 0

/-- The floor of a signed exact value. -/
def floorOf (n : Bool) (m : Nat) (e : Int) : Int :=
  if 0 ≤ e then (if n then -Int.ofNat (m * 2 ^ e.toNat) else Int.ofNat (m * 2 ^ e.toNat))
  else
    let d := 2 ^ (-e).toNat
    if n then -Int.ofNat ((m + d - 1) / d) else Int.ofNat (m / d)

/-- Take out the common powers of two of a fraction `num / 2^shift`. -/
def lowest : Nat → Nat → Nat → Nat × Nat
  | 0, num, shift => (num, shift)
  | k + 1, num, shift => if shift = 0 || num % 2 = 1 then (num, shift) else lowest k (num / 2) (shift - 1)

/-- Whether a magnitude is a power of two. -/
def isPow2 (m : Nat) : Bool := m != 0 && m == 2 ^ Nat.log2 m

/-- Whether one exact number is below another. -/
def ltDyadic (a b : Dyadic) : Bool := decide ((addDyadic b ⟨-a.m, a.e⟩).m > 0)

/-- Whether a word is a positive number, or +0.0, within `k` units in the last place of an exact result that lies strictly
between `lo` and `hi`, in units of 2^e. -/
def withinUlps (k lo hi : Nat) (e : Int) (raw : W32) : Bool :=
  match num32 raw with
  | .fin false m x =>
    let l := Int.ofNat (Nat.log2 lo) + e
    let u : Dyadic := ⟨Int.ofNat k, (if l < -126 then -126 else l) - 23⟩
    let r : Dyadic := ⟨Int.ofNat m, x⟩
    ltDyadic (addDyadic r ⟨-u.m, u.e⟩) ⟨Int.ofNat hi, e⟩ && ltDyadic ⟨Int.ofNat lo, e⟩ (addDyadic r u)
  | _ => false

/-- A free value kept where the bound allows it, else the result rounded to nearest. -/
def bounded (k lo hi : Nat) (e : Int) (raw : W32) : W32 :=
  if withinUlps k lo hi e raw then raw else pack32 false (roundMag fp32 lo 1 e)

/-- A positive word with a sign. -/
def signed32 (neg : Bool) (w : W32) : W32 := if neg then neg32 w else w

/-- The fixed point of the bounds: 96 binary places, and ln 2 in it, rounded down. -/
def fixOne : Nat := 2 ^ 96
def ln2Fix : Nat := 54916777467707473351141471128

/-- `k` terms of the series of e^y from term `i`, whose value is `t`, each rounded down. -/
def expTerms (y : Nat) : Nat → Nat → Nat → Nat
  | 0, _, _ => 0
  | k + 1, i, t => t + expTerms y k (i + 1) (t * y / ((i + 1) * fixOne))

/-- e^y for y below 1 in fixed point: at most the exact value, and less than 2^-80 below it. -/
def expFix (y : Nat) : Nat := expTerms y 32 0 fixOne

/-- The exact 2^f of a fraction f = num / 2^shift lies strictly between this and this plus 2^16, in units of 2^-96. -/
def exp2Fix (num shift : Nat) : Nat := expFix (num * ln2Fix / 2 ^ shift)

/-- A word times a power of two, rounded. -/
def scale32 (w : W32) (k : Int) : W32 :=
  match num32 w with
  | .fin n m e => round32 (.fin n m (e + k))
  | x => round32 x

/-- exp2 (R172): exact on the integers from -149 to 127; elsewhere a free value within 2 ulp. A normal result's mantissa
depends on the fraction of the argument alone, and the integer part is an exact power of two (R222). A result is never
negative (DEDUCED: weights lie in [0, 1], R239). -/
def exp2Of (a : W32) : W32 :=
  match num32 a with
  | .nan => nan32
  | .inf n => if n then 0 else inf32 false
  | .fin n m e =>
    if m = 0 then 0x3F800000
    else
      let k := floorOf n m e
      let sh := (-e).toNat
      let fr := if isInteger m e then 0 else if n then 2 ^ sh - m % 2 ^ sh else m % 2 ^ sh
      let lo := exp2Fix fr sh
      if 128 ≤ k then inf32 false
      else if k < -150 then 0
      else if isInteger m e && -149 ≤ k then round32 (.fin false 1 k)
      else if k < -126 then bounded 2 lo (lo + 2 ^ 16) (k - 96) (Config.exp2Low a)
      else
        let p := lowest sh fr sh
        scale32 (bounded 2 lo (min (lo + 2 ^ 16) (2 * fixOne)) (-96) (Config.exp2Frac p.1 p.2)) k

/-- `k` binary places of log2 of y, a number from 1 to 2 in units of 2^-160, after the places `acc`. -/
def logBits : Nat → Nat → Nat → Nat
  | 0, _, acc => acc
  | k + 1, y, acc =>
    let z := y * y / 2 ^ 160
    if 2 ^ 161 ≤ z then logBits k (z / 2) (2 * acc + 1) else logBits k z (2 * acc)

/-- log2 (R172): a free value within 2 ulp, which from 0.5 to 2 is also within 2^-22. -/
def log2Of (a : W32) : W32 :=
  match num32 a with
  | .nan => nan32
  | .inf n => if n then nan32 else inf32 false
  | .fin n m e =>
    if m = 0 then inf32 true
    else if n then nan32
    else
      let l := Nat.log2 m
      let v := Int.ofNat l + e
      if isPow2 m then round32 (.fin (decide (v < 0)) v.natAbs 0)
      else
        -- the exact result lies strictly between x and x + 2, in units of 2^-64
        let x := v * 2 ^ 64 + Int.ofNat (logBits 64 (m * 2 ^ (160 - l)) 0)
        if 0 ≤ x then bounded 2 x.toNat (x.toNat + 2) (-64) (abs32 (Config.log2Raw a))
        else signed32 true (bounded 2 ((-x).toNat - 2) (-x).toNat (-64) (abs32 (Config.log2Raw a)))

/-- reciprocal (R172): a free value within 1 ulp of the exact quotient. -/
def recipOf (a : W32) : W32 :=
  match num32 a with
  | .nan => nan32
  | .inf n => zero32 n
  | .fin n m e =>
    if m = 0 then inf32 n
    else if isPow2 m then ratio32 n 1 m (-e)
    else signed32 n (bounded 1 (2 ^ 160 / m) (2 ^ 160 / m + 1) (-160 - e) (abs32 (Config.recipRaw a)))

/-- The integer square root, by bisection on the bits. -/
def sqrtBits (a : Nat) : Nat → Nat → Nat
  | 0, r => r
  | k + 1, r => let t := r + 2 ^ k; if t * t ≤ a then sqrtBits a k t else sqrtBits a k r

/-- rsqrt (R172): a free value within 1 ulp. -/
def rsqrtOf (a : W32) : W32 :=
  match num32 a with
  | .nan => nan32
  | .inf n => if n then nan32 else 0
  | .fin n m e =>
    if m = 0 then inf32 n
    else if n then nan32
    else
      let v := Int.ofNat (Nat.log2 m) + e
      if isPow2 m && v % 2 = 0 then round32 (.fin false 1 (-(v / 2)))
      else
        let odd := e % 2 = 1
        let h : Int := if odd then (e - 1) / 2 else e / 2
        let r := sqrtBits (2 ^ 160 / (if odd then 2 * m else m)) 81 0
        bounded 1 r (r + 1) (-80 - h) (Config.rsqrtRaw a)

/-- A fixed-point number squared `k` times. -/
def squareFix : Nat → Nat → Nat
  | 0, v => v
  | k + 1, v => squareFix k (v * v / fixOne)

/-- tanh (R172): a free value within 2 ulp outside the exact cases, from (e^2x − 1) / (e^2x + 1). -/
def tanhOf (a : W32) : W32 :=
  match num32 a with
  | .nan => nan32
  | .inf n => if n then 0xBF800000 else 0x3F800000
  | .fin n m e =>
    if (abs32 a).toNat < 0x39800000 then a
    else if 0x41120000 ≤ (abs32 a).toNat then (if n then 0xBF800000 else 0x3F800000)
    else
      let v := squareFix 6 (expFix (shiftInt m (e + 91)))
      let v' := v + v / 2 ^ 70 + 2 ^ 20
      let q (x : Nat) : Nat := (x - fixOne) * fixOne / (x + fixOne)
      signed32 n (bounded 2 (q v) (q v' + 1) (-96) (abs32 (Config.tanhRaw a)))

end Sys2Proof.Machine
end

