-- ==== Sys2Proof/Machine/Store.lean ====
section
/-! DEFINITION. Sparse tables: a list of (key, value) pairs in one canonical form, keys strictly rising and no entry
equal to what an unlisted key reads as. Memories (keyed by byte address) and every numbered family of units use it. -/

namespace Sys2Proof.Machine

/-- A sparse table; at `Byte` it is a list of `Host.Cell`. -/
abbrev Table (α : Type) := List (Nat × α)

/-- The value at key `k`: the listed one, else the default `d`. -/
def tget {α : Type} (d : α) : Table α → Nat → α
  | [], _ => d
  | (a, x) :: m, k => if a = k then x else tget d m k

/-- The table without key `k`. -/
def tdrop {α : Type} : Table α → Nat → Table α
  | [], _ => []
  | (a, x) :: m, k => if a = k then tdrop m k else (a, x) :: tdrop m k

/-- An entry put before the first greater key. -/
def tinsert {α : Type} (k : Nat) (y : α) : Table α → Table α
  | [] => [(k, y)]
  | (a, x) :: m => if k < a then (k, y) :: (a, x) :: m else (a, x) :: tinsert k y m

/-- The table with `y` at key `k`: storing the default removes the entry. -/
def tput {α : Type} [DecidableEq α] (d : α) (m : Table α) (k : Nat) (y : α) : Table α :=
  if y = d then tdrop m k else tinsert k y (tdrop m k)

/-- The value at key `k` changed by `f`. -/
def tmod {α : Type} [DecidableEq α] (d : α) (m : Table α) (k : Nat) (f : α → α) : Table α :=
  tput d m k (f (tget d m k))

/-- Every key from `a` to `a + n - 1` set to `y`. -/
def tfill {α : Type} [DecidableEq α] (d : α) (m : Table α) (a n : Nat) (y : α) : Table α :=
  let kept := m.filter fun e => e.1 < a || a + n ≤ e.1
  if y = d then kept else
    (kept.filter fun e => e.1 < a) ++ (upFrom a n).map (fun k => (k, y)) ++ (kept.filter fun e => a + n ≤ e.1)

/-- The canonical form: keys strictly rising from `lo`, and no entry equal to the default. -/
def twfFrom {α : Type} [DecidableEq α] (d : α) : Nat → Table α → Bool
  | _, [] => true
  | lo, (a, x) :: m => decide (lo ≤ a) && decide (x ≠ d) && twfFrom d (a + 1) m

/-- The canonical form of a table. -/
def twf {α : Type} [DecidableEq α] (d : α) (m : Table α) : Bool := twfFrom d 0 m

/-- `n` consecutive values from key `a`. -/
def tgetN {α : Type} (d : α) (m : Table α) : Nat → Nat → List α
  | _, 0 => []
  | a, n + 1 => tget d m a :: tgetN d m (a + 1) n

/-- Consecutive values put from key `a`. -/
def tputN {α : Type} [DecidableEq α] (d : α) (m : Table α) : Nat → List α → Table α
  | _, [] => m
  | a, y :: ys => tputN d (tput d m a y) (a + 1) ys

end Sys2Proof.Machine
end

