-- ==== Sys2Proof/Machine/Faults.lean ====
section
/-! DEFINITION. Fault names and codes of the completion record (R540), and what a fault carries (R397, R398). -/

namespace Sys2Proof.Machine

/-- The faults that abort a task, in the order of the fault codes 1 to 39 (R540). -/
inductive FaultName where
  | benchClash | benchOff | galOff | dramOff | galOp | mmaFormat | mmaRange | arrNoTile | arrFenced | checkMismatch
  | feedDesc | chainDesc | chainHold | attDesc | seqIllegal | seqPc | seqRange | seqAlign | syncRange | deadlineMiss
  | watchdogStall | addrFault | movDesc | hostXlate | winRefused | postDesc | tileCrc | memUe | sumpOp | sumpResidue
  | collDesc | collMismatch | collResidue | haulDesc | haulQpErr | ringMemberLost | peerAbort | dieTrip | hostCancel
  deriving DecidableEq, Repr

/-- The fault code of the completion record (R540). -/
def faultCode : FaultName → Nat
  | .benchClash => 1 | .benchOff => 2 | .galOff => 3 | .dramOff => 4 | .galOp => 5 | .mmaFormat => 6 | .mmaRange => 7
  | .arrNoTile => 8 | .arrFenced => 9 | .checkMismatch => 10 | .feedDesc => 11 | .chainDesc => 12 | .chainHold => 13
  | .attDesc => 14 | .seqIllegal => 15 | .seqPc => 16 | .seqRange => 17 | .seqAlign => 18 | .syncRange => 19
  | .deadlineMiss => 20 | .watchdogStall => 21 | .addrFault => 22 | .movDesc => 23 | .hostXlate => 24
  | .winRefused => 25 | .postDesc => 26 | .tileCrc => 27 | .memUe => 28 | .sumpOp => 29 | .sumpResidue => 30
  | .collDesc => 31 | .collMismatch => 32 | .collResidue => 33 | .haulDesc => 34 | .haulQpErr => 35
  | .ringMemberLost => 36 | .peerAbort => 37 | .dieTrip => 38 | .hostCancel => 39

/-- What an engine reports with a fault: the fault, its reason field and the place address concerned (R395, R540). -/
structure FaultInfo where
  name : FaultName
  reason : Nat := 0
  address : W64 := 0
  deriving DecidableEq, Repr

/-- The first fault of a task as firmware recorded it (R398, R540). -/
structure TaskFault where
  info : FaultInfo
  engine : Nat := 0
  core : Nat := 0
  unit : Nat := 0
  rank : Nat := 0
  second : Bool := false
  deriving DecidableEq, Repr

/-- The engine code of the completion record (R540). -/
def engineCode : Engine → Nat
  | .sequencer _ => 0
  | .matrix _ => 1
  | .dressing _ => 2
  | .coreMover _ m1 => if m1 then 4 else 3
  | .netPort _ => 5
  | .hubMover _ => 6
  | .collMover _ => 7
  | .haul => 8
  | .sump => 9
  | .firmware => 10
  | .remote _ _ => 5

/-- The core of a core engine; 0 for the others (R540). -/
def engineCore : Engine → Nat
  | .sequencer c | .matrix c | .dressing c | .coreMover c _ | .netPort c => c.val
  | _ => 0

/-- The unit number of a hub or collective mover; 0 for the others (R540). -/
def engineUnit : Engine → Nat
  | .hubMover n | .collMover n => n.val
  | _ => 0

end Sys2Proof.Machine
end

