-- ==== Sys2Proof/Machine/StateFabric.lean ====
section
/-! DEFINITION. Goham links, windows, junction tables and the sump (11). -/

namespace Sys2Proof.Machine

/-! ### Links (R404 to R419, R449) -/

/-- The state of a link, in the order of GLK_STATUS.state (R449). -/
inductive LinkMode where
  | off | training | up8 | up7 | retraining | down
  deriving DecidableEq, Repr

/-- A flit that is sent and not acknowledged (R408): sequence number, channel, packet, and how often it was replayed. -/
structure SentFlit where
  seq : Nat
  vc : Nat
  packet : Nat
  replays : Nat := 0
  deriving DecidableEq, Repr

/-- A flit that the receiver holds: its channel and body. -/
structure RxFlit where
  vc : Nat
  body : List Byte
  deriving DecidableEq, Repr

/-- The link control word of this module's codewords (R405): the acknowledged sequence number, the replay request, and the
credits returned for each channel. -/
structure LinkControl where
  acked : Option Nat := none
  replay : Option Nat := none
  credits : List Nat := [0, 0, 0, 0]
  deriving DecidableEq, Repr

/-- One Goham link: GLK_STATUS, GLK_ERRORS and GLK_REPLAY; the sender's replay buffer, boundary FIFO and stalled port; the
receiver's buffers, boundary FIFO and link control word (R405, R408, R410, R413). -/
structure LinkState where
  mode : LinkMode := .off
  /-- Lanes that failed. -/
  lanes : List Nat := []
  peerRank : Nat := 0x3F
  peerLink : Nat := 0
  wiringError : Bool := false
  corrected : Nat := 0
  uncorrected : Nat := 0
  replays : Nat := 0
  retrains : Nat := 0
  /-- The next sequence number to send, and the oldest not acknowledged first. -/
  txSeq : Nat := 0
  sent : List SentFlit := []
  /-- The outbound boundary FIFO, and behind it the flits for which the junction's port stalls: (channel, packet). -/
  outFifo : List (Nat × Nat) := []
  stalled : List (Nat × Nat) := []
  credits : List Nat := [512, 512, 512, 512]
  /-- The next sequence number to deliver, and the flits delivered so far. -/
  rxSeq : Nat := 0
  delivered : Nat := 0
  /-- The replay request that the next codeword carries, if any. -/
  askReplay : Option Nat := none
  /-- The receive buffers of the four channels, in order of arrival, and the inbound boundary FIFO. -/
  rxBuf : List RxFlit := []
  inFifo : List RxFlit := []
  /-- Credits to return, and the control word of the last codeword sent. -/
  owed : List Nat := [0, 0, 0, 0]
  control : LinkControl := {}
  deriving DecidableEq, Repr

/-- A packet that this module has put on a link: its number, the destination rank, and the engine whose access it
carries; none for transit. -/
structure Packet where
  no : Nat
  dest : Nat
  link : Nat
  eng : Option Engine
  window : Nat := 0
  deriving DecidableEq, Repr

/-- A detour table entry (R417, R449). -/
structure Detour where
  inUse : Bool := false
  unreachable : Bool := false
  order : Nat := 0
  minus : Nat := 0
  deriving DecidableEq, Repr

/-- An access that has left for another module: the rank, the window and offset there, and what it asks (R426). -/
structure Outgoing where
  eng : Engine
  claim : Nat
  rank : Nat
  window : Nat
  offset : Nat
  op : RemoteOp
  deriving DecidableEq, Repr

/-! ### Windows (R422 to R428, R450) -/

/-- A window descriptor: its kind, its words as written (RO fields of word 0 are not kept in them), and the accesses and
writes it refused. -/
structure Window where
  kind : Nat := 0
  w0 : W64 := 0
  w1 : W64 := 0
  w2 : W64 := 0
  w3 : W64 := 0
  w4 : W64 := 0
  w5 : W64 := 0
  refused : Nat := 0
  /-- Fenced by the failure of the die whose slice it opens (R653). -/
  cut : Bool := false
  deriving DecidableEq, Repr

/-- WIN_REFUSE_FIRST (R450). -/
structure RefuseFirst where
  refused : Bool := false
  window : Nat := 0
  rank : Nat := 0
  claim : Nat := 0
  reason : Nat := 0
  deriving DecidableEq, Repr

/-! ### The junction (R432 to R439, R451) -/

/-- Who a slot of a slot table names (R432). -/
inductive Owner where
  | openSlot
  | claim (k : Nat)
  | transit
  | firmware
  deriving DecidableEq, Repr

/-- A request that waits at a port: its owner, engine, input port, bytes, and the pending-queue entry it holds; the gallery
bank or sump slot that it goes to; and, once it lost there, its backoff (R438). -/
structure PortReq where
  owner : Owner
  eng : Engine
  input : Nat
  bytes : Nat
  entry : Nat
  unit : Nat := 0
  lost : Bool := false
  delay : Nat := 1
  deriving DecidableEq, Repr

/-- The slot table after reset: slots 0 and 32 firmware, all others open (R435). -/
def resetSlots : List Owner := (upFrom 0 64).map fun k => if k % 32 = 0 then .firmware else .openSlot

/-- A slot table with its port's pending queue, oldest request first (R432, R436). -/
structure SlotTable where
  slots : List Owner := resetSlots
  next : Nat := 0
  ranking : Nat := 0
  pending : List PortReq := []
  refused : Nat := 0
  /-- Where the round robins of R432 and R433 go on: the next input port of each owner, and the next owner or input port of
  the background ranking. -/
  nextInput : List (Owner × Nat) := []
  /-- Grant opportunities of a DRAM port, modulo 64 (R565). -/
  chance : Nat := 0
  nextOwner : Nat := 0
  nextPort : Nat := 0
  deriving DecidableEq, Repr

/-- A port of a gallery slice: its pending queue, oldest request first (R263, R436). -/
structure SlicePort where
  pending : List PortReq := []
  refused : Nat := 0
  deriving DecidableEq, Repr

/-! ### The sump (R440 to R447, R452) -/

/-- A sump slot: mode and parameters, and the round it is in. -/
structure SumpSlot where
  mode : SumpMode := .free
  acquired : Option Nat := none
  count : Nat := 0
  gen : Nat := 0
  /-- Arrivals, or result operations, that wait. -/
  waiting : List Nat := []
  /-- Parts written this round, and the combined value once there is one. -/
  written : Nat := 0
  combined : Option (List Byte) := none
  results : Nat := 0
  /-- The slot's 4 KiB. -/
  bytes : List Host.Cell := []
  deriving DecidableEq, Repr

/-- SMP_FAULT (R452). -/
structure SumpFault where
  fault : Bool := false
  code : Nat := 0
  reason : Nat := 0
  claim : Nat := 0
  slot : Nat := 0
  deriving DecidableEq, Repr

/-- A sump operation that completed: the slot, who waited, and the value for a result. -/
structure SumpDone where
  slot : Nat
  who : Nat
  value : List Byte
  /-- It completed with the error status of a re-formation (R447). -/
  lost : Bool := false
  deriving DecidableEq, Repr

/-- Links, windows, junction and sump of the module. -/
structure FabricState where
  links : Table LinkState := []
  packets : List Packet := []
  packetNo : Nat := 0
  detours : Table Detour := []
  /-- Accesses that have left for other modules, latest first. -/
  outgoing : List Outgoing := []
  /-- Responses to send: the rank, and the bytes of data (R410). -/
  replies : List (Nat × Nat) := []
  windows : Table Window := []
  refuseFirst : RefuseFirst := {}
  tables : Table SlotTable := []
  /-- Slice ports, port `p` of die `d` at 19 × d + p. -/
  slices : Table SlicePort := []
  /-- The port that each gallery bank, and the input that each sump slot, takes first at its next conflict (R438). -/
  bankTurn : Table Nat := []
  sumpTurn : Table Nat := []
  sump : Table SumpSlot := []
  sumpFault : SumpFault := {}
  /-- Sump operations that completed, latest first. -/
  sumpDone : List SumpDone := []
  deriving DecidableEq, Repr

end Sys2Proof.Machine
end

