-- ==== Sys2Proof/Machine/StateFirm.lean ====
section
/-! DEFINITION. Firmware, flash, boot, mailbox, updates, telemetry and the electrical inputs (16, 18). -/

namespace Sys2Proof.Machine

/-- What names the module: ID_PART, ID_SERIAL and the fuses (R51, R606, R691). -/
structure Identity where
  part : Nat := 0x0750
  step : Nat := 0
  serial : W64 := 0
  secFloor : Nat := 0
  deriving DecidableEq, Repr

/-- One copy of the boot record (R605, R607): whether its CRC-32C is good, its sequence number, which image is active, whether
that image is on trial, and its trial count. -/
structure BootRecord where
  good : Bool := true
  seq : Nat := 0
  activeB : Bool := false
  trial : Bool := false
  trialCount : Nat := 0
  deriving DecidableEq, Repr

/-- The two copies of the boot record, the two images and the configuration record (R605 to R607); an image slot that holds
nothing whole is none. -/
structure FlashState where
  imageA : Option FwImage := none
  imageB : Option FwImage := none
  copyA : BootRecord := {}
  copyB : BootRecord := { good := false }
  bootCap : Nat := 750
  /-- Physical functions, and TotalVFs, of H0, H0 second half, H1, H1 second half (R517, R619). -/
  pfs : List Nat := [1, 1, 1, 1]
  vfs : List Nat := [0, 0, 0, 0]
  deriving DecidableEq, Repr

/-- The running firmware, as MBX_FW_STATUS and ID_FW show it (R51, R628). -/
structure FirmState where
  version : Nat := 0
  imageB : Bool := false
  trial : Bool := false
  fallback : Nat := 0
  abandoned : Nat := 0
  /-- An image has been staged and verified since boot (R623). -/
  staged : Bool := false
  deriving DecidableEq, Repr

/-- What FAULT_LED shows (R684). -/
inductive LedShow where
  | off | on | slow | fast
  deriving DecidableEq, Repr

/-- The states of a PLDM firmware device (R624). -/
inductive PldmState where
  | idle | learn | ready | download | verify | apply
  deriving DecidableEq, Repr

/-- The PLDM update in progress: its state, the bytes transferred, and the image verified. -/
structure PldmUpdate where
  state : PldmState := .idle
  received : Nat := 0
  verified : Bool := false
  /-- The security version that the component announced. -/
  security : Nat := 0
  deriving DecidableEq, Repr

/-- A mailbox page (R628). -/
structure MbxPage where
  cmd : Nat := 0
  reqSeq : Nat := 0
  data : Table W64 := []
  result : Nat := 0
  seq : Nat := 0
  busy : Bool := false
  done : Bool := false
  deriving DecidableEq, Repr

/-- A telemetry ring (R621). -/
structure TeleRing where
  fn : Nat
  base : Nat
  entries : Nat
  period : Nat
  /-- Refreshes since the last record, and the index of the next record. -/
  ticks : Nat := 0
  index : Nat := 0
  /-- Totals at the last record: reason time, tasks, aborts, corrected and uncorrectable errors. -/
  time : Nat := 0
  tasks : Nat := 0
  aborts : Nat := 0
  corrected : Nat := 0
  uncorrected : Nat := 0
  deriving DecidableEq, Repr

/-- One PCIe link (R609, R663): 0 and 1 of H0, 2 and 3 of H1. -/
structure PcieLink where
  up : Bool := false
  /-- The platform holds the port's PERST asserted; undriven, the module's pull-down asserts it (R662). -/
  reset : Bool := true
  deriving DecidableEq, Repr

/-- The electrical inputs and the boot (R608, R671 to R676). -/
structure BootState where
  aux : Bool := false
  /-- The input is connected and its capacitance charges; main good. -/
  connected : Bool := false
  main : Bool := false
  /-- Boot steps finished, 0 to 6: at 6 the module is ready. -/
  stage : Nat := 0
  recovery : Bool := false
  /-- In L5 by SET_STATE, or off after a hub trip, until main is cycled (R596, R655). -/
  standby : Bool := false
  hubOff : Bool := false
  /-- A module fault, until the end of the boot that follows (R684). -/
  faulted : Bool := false
  sampled : Bool := false
  sbSel : Bool := true
  h0Bif : Bool := true
  h1Bif : Bool := true
  modId : Nat := 0
  /-- Dynamic address on I3C (R679). -/
  dynamic : Option Nat := none
  /-- Hub control cores that are stopped (R604). -/
  stopped : Nat := 0
  deriving DecidableEq, Repr

/-- Firmware, flash, mailbox, updates, telemetry, boot. -/
structure ModuleState where
  ident : Identity := {}
  flash : FlashState := {}
  firm : FirmState := {}
  boot : BootState := {}
  pldm : PldmUpdate := {}
  pages : Table MbxPage := []
  /-- Telemetry rings of the claims, and of the module at 8. -/
  rings : Table (Option TeleRing) := []
  /-- Sensor values as of the last refresh (R590, R620). -/
  sensors : List Int := []
  links : Table PcieLink := []
  deriving DecidableEq, Repr

end Sys2Proof.Machine
end

