-- ==== Sys2Proof/Machine/StateGroup.lean ====
section
/-! DEFINITION. The group as this module knows it (16 R611 to R617, R629). -/

namespace Sys2Proof.Machine

/-- One entry of MBX_RANK_MAP (R629). -/
structure RankEntry where
  valid : Bool := false
  oldRank : Nat := 0
  x : Nat := 0
  y : Nat := 0
  z : Nat := 0
  deriving DecidableEq, Repr

/-- The state of group formation, in the order of MBX_GROUP_STATUS.state (R629). -/
inductive GroupStage where
  | none | forming | formed | reforming
  deriving DecidableEq, Repr

/-- What this module's firmware sends to other members over the fabric (R577, R613 to R615). -/
inductive GroupMsg where
  | plan (w : W64)
  | answer (a : GroupAnswer)
  | commit
  | probe
  | probeAnswer
  | declare (rank : Nat)
  | ack
  | reform (failed : List Nat)
  | code (n : Nat)
  deriving DecidableEq, Repr

/-- MBX_GROUP_PLAN, MBX_GROUP_STATUS, MBX_GROUP_LOST, MBX_RANK_MAP and what formation and liveness keep. -/
structure GroupState where
  stage : GroupStage := .none
  size : Nat := 0
  liveness : Nat := 30
  hostRank : Nat := 0
  hostFn : Nat := 0
  standbyEn : Bool := false
  standbyRank : Nat := 0
  standbyFn : Nat := 0
  members : Nat := 0
  generation : Nat := 0
  coordinator : Nat := 0
  lost : Nat := 0
  rankMap : Table RankEntry := []
  /-- This module's rank: ID_POSITION.rank (R51). -/
  rank : Nat := 0x3F
  /-- Formation: members that have answered, and whether this module coordinates. -/
  answered : List Nat := []
  forming : Bool := false
  /-- Formation: ranks whose answer does not fit, and whether some member was not ready (R611, R613). -/
  bad : List Nat := []
  notReady : Bool := false
  /-- The plan received and kept until its commit. -/
  plan : Option W64 := none
  /-- The mailbox page and sequence number of the GROUP_FORM command in progress. -/
  formPage : Nat := 0
  formSeq : Nat := 0
  /-- Re-formation: ranks declared failed, ranks that have acknowledged, whether this module coordinates. -/
  failed : List Nat := []
  acked : List Nat := []
  coordinating : Bool := false
  /-- Neighbours whose probe has been answered since it was sent (R614). -/
  probed : List Nat := []
  /-- Names or ranks whose control was lost, R549: running tasks complete and their records are held. -/
  hostLost : Bool := false
  heldRecords : List (Nat × Nat × List W64) := []
  /-- What firmware has sent to other members over the fabric, as (rank, what), latest first (R547, R548). -/
  forwards : List (Nat × Forwarded) := []
  /-- Messages of group firmware, as (rank, message); a message to a link neighbour before formation carries the link as
  its number + 64; latest first. -/
  sent : List (Nat × GroupMsg) := []
  /-- The plan of a formation as received, for MBX_GROUP_PLAN once committed. -/
  planWord : W64 := 0
  /-- Pulses of GRP_SYNC that this module has driven (R682). -/
  pulses : Nat := 0
  deriving DecidableEq, Repr

end Sys2Proof.Machine
end

