-- ==== Sys2Proof/Machine/StateHaul.lean ====
section
/-! DEFINITION. The haul engine: streams, frame buffers, receivers, queue pairs and Ethernet ports (13). -/

namespace Sys2Proof.Machine

/-- A frame buffer that is bound to frame (layer, page) (R489): the pieces handed, whether the frame is complete, and the
receivers that have it, had it spilled, or are shed. -/
structure FrameBuf where
  layer : Nat
  page : Nat
  pieces : Nat := 0
  complete : Bool := false
  released : Nat := 0
  deriving DecidableEq, Repr

/-- A frame in a receiver's spill region (R505). -/
structure Spilled where
  layer : Nat
  page : Nat
  slot : Nat
  deriving DecidableEq, Repr

/-- A packet of an RDMA WRITE message (R499, R501): opcode, PSN, the receiver address and key that its message's first packet
carries, the data, and the immediate of a last packet. -/
structure HaulPkt where
  psn : Nat := 0
  opcode : Nat
  va : W64
  rkey : Nat
  data : List Byte
  imm : Option W32
  deriving DecidableEq, Repr

/-- A packet that is sent and not acknowledged: the frame it carries, whether that was read from the spill region, and
whether it ends the frame; an immediate of kind 1 to 3 carries no frame. -/
structure SentPkt where
  pkt : HaulPkt
  layer : Nat := 0
  page : Nat := 0
  fromSpill : Bool := false
  lastOfFrame : Bool := false
  deriving DecidableEq, Repr

/-- One receiver of an open stream (R504 to R508). -/
structure HaulRecv where
  qp : Nat := 0
  rkey : Nat := 0
  pageTable : W64 := 0
  layerStride : Nat := 0
  scaleOffset : Nat := 0
  scaleStride : Nat := 0
  pageFirst : Nat := 0
  pageCount : Nat := 0
  /-- Buffers with complete frames not sent to this receiver yet, in order of completion. -/
  queue : List Nat := []
  /-- Buffers whose frames wait for their spill copy, in order. -/
  toSpill : List Nat := []
  spill : List Spilled := []
  /-- Spilled frames, from the oldest, that have gone out whole and are not acknowledged. -/
  spillSent : Nat := 0
  /-- Packets of the frame at the head that have gone out. -/
  progress : Nat := 0
  acked : List (Nat × Nat) := []
  shed : Bool := false
  shedCause : Nat := 0
  shedPage : Nat := 0
  qpError : Bool := false
  spilledCount : Nat := 0
  spillPeak : Nat := 0
  /-- The stream is done for this receiver and its record is written. -/
  finished : Bool := false
  deriving DecidableEq, Repr

/-- A haul stream: its state, its descriptor's words as written (R514), and what runs while it is open. -/
structure HaulStream where
  state : Nat := 0
  w0 : W64 := 0x0400000000000000
  w1 : W64 := 0
  w2 : W64 := 0
  w3 : W64 := 0
  w4 : W64 := 0
  w5 : W64 := 0
  w6 : W64 := 0x000007D0000003E8
  w7 : W64 := 0
  /-- The task that made the first hand, by its number within the claim (R488). -/
  task : Option Nat := none
  buffers : Table (Option FrameBuf) := []
  /-- Frames that became complete. -/
  completed : Nat := 0
  recvs : List HaulRecv := []
  deriving DecidableEq, Repr

/-- A queue-pair context (R500): its state, its words as written, and what runs. -/
structure QueuePair where
  state : Nat := 0
  w0 : W64 := 0
  w1 : W64 := 0
  w2 : W64 := 0
  w3 : W64 := 0
  w4 : W64 := 0x000027E000000000
  w5 : W64 := 0x0040000000000000
  psn : Nat := 0
  retransmits : Nat := 0
  cnps : Nat := 0
  /-- Packets not acknowledged, oldest first. -/
  sent : List SentPkt := []
  /-- Packets that wait for the port or for an RNR time, and a resend that does (R499, R502, R513). -/
  waiting : List SentPkt := []
  resendDue : Bool := false
  tries : Nat := 0
  rnrTries : Nat := 0
  rnrWait : Bool := false
  /-- The rate limiter of R503, rates in units of 10 Mb/s. -/
  rate : Dyadic := ⟨40000, 0⟩
  target : Dyadic := ⟨40000, 0⟩
  alpha : Dyadic := ⟨1, 0⟩
  n : Nat := 0
  deriving DecidableEq, Repr

/-- An Ethernet port: HAUL_PORT_STATUS, HAUL_PORT_BYTES and HAUL_PORT_EVENTS (R515), and the source addresses that
firmware sets (R619). -/
structure EthPort where
  up : Bool := false
  pfc : Nat := 3
  paused : Bool := false
  bytes : Nat := 0
  dropped : Nat := 0
  naks : Nat := 0
  mac : BitVec 48 := 0
  ip : BitVec 128 := 0
  deriving DecidableEq, Repr

/-- HAUL_FAULT (R515). -/
structure HaulFault where
  fault : Bool := false
  code : Nat := 0
  reason : Nat := 0
  claim : Nat := 0
  stream : Nat := 0
  qp : Nat := 0
  deriving DecidableEq, Repr

/-- A copy to a spill region that a haul mover has outstanding: stream, receiver and buffer (R373, R505). -/
structure SpillCopy where
  stream : Nat
  recv : Nat
  buffer : Nat
  deriving DecidableEq, Repr

/-- The haul engine. -/
structure HaulState where
  streams : Table HaulStream := []
  qps : Table QueuePair := []
  ports : Table EthPort := []
  /-- HAUL_CC: g, ai_step, cut_gap, inc_period. -/
  gain : Nat := 1
  aiStep : Nat := 40
  cutGap : Nat := 50
  incPeriod : Nat := 55
  fault : HaulFault := {}
  /-- The outstanding blocks of the eight haul movers, at most 16 each (R373). -/
  movers : Table (List SpillCopy) := []
  /-- Packets that queue pairs have put on their ports, as (queue pair, packet), latest first. -/
  wire : List (Nat × HaulPkt) := []
  deriving DecidableEq, Repr

end Sys2Proof.Machine
end

