-- ==== Sys2Proof/Machine/StatePower.lean ====
section
/-! DEFINITION. Pace, power and temperature (02 R68 to R77, 15 R598 to R602). Rates are in units of 25 M beats/s. -/

namespace Sys2Proof.Machine

/-- CORE_PWR_STATE (R601). -/
structure CorePower where
  state : Nat := 0
  /-- The request field, as last written (R17), and the level that the core was last asked into by it or by the governor. -/
  request : Nat := 0
  want : Nat := 0
  refused : Bool := false
  govHeld : Bool := false
  deriving DecidableEq, Repr

/-- The power state of a C-die's rail: running, at the retention voltage of L2, in L3, off (R593, R599). -/
inductive DieMode where
  | run | retain | keep | off
  deriving DecidableEq, Repr

/-- One C-die. Voltages are in units of 0.5 mV, so that a step of 12.5 mV is 25. -/
structure DieState where
  /-- Powered and not fenced (R51). -/
  present : Bool := false
  /-- Off after a thermal trip (R585). -/
  tripped : Bool := false
  /-- The die's control core runs (R39, R608). -/
  control : Bool := false
  mode : DieMode := .off
  request : Nat := 0
  refused : Bool := false
  offAccess : Bool := false
  natural : Nat := 0
  droopClamp : Nat := 0
  thermalClamp : Nat := 0
  matchTarget : Nat := 0
  /-- The rail has been back within its band, so the clamp's hold time runs (R73). -/
  droopHold : Bool := false
  droopCount : Nat := 0
  droopSeen : Bool := false
  floorCode : Nat := 10
  fwTarget : Nat := 10
  assistCut : Nat := 0
  /-- The rail's set point, the voltage it steps to, and the one it had before L2 (R566, R594). -/
  vSet : Nat := 0
  vGoal : Nat := 0
  vKept : Nat := 0
  /-- A voltage request held under R74. -/
  deferred : Option Nat := none
  /-- The pace code that the loop writes once the voltage has settled (R566). -/
  raiseTo : Option Nat := none
  forced : Bool := false
  estimate : Nat := 0
  current : Nat := 0
  calib : Nat := 4096
  /-- The activity counts and the process monitors as last read, and the sum of the estimates since the last calibration (R61,
  R552, R555). -/
  activity : List Nat := []
  monitors : List Nat := []
  estSum : Nat := 0
  /-- Characterised natural rates, one for each 12.5 mV step from 0.55 V (R608), and the factor of R566. -/
  rates : List Nat := []
  scaleNum : Nat := 1
  scaleDen : Nat := 1
  tMax : Int := 0
  tMean : Int := 0
  hotSensor : Nat := 0
  deriving DecidableEq, Repr

/-- Governor, caps, estimates and thermal limits of the module. -/
structure PowerState where
  rackCap : Nat := 750
  hostLimit : Nat := 750
  effCap : Nat := 750
  hostAuth : Bool := false
  failsafe : Bool := false
  failsafeCap : Nat := 0
  failsafeTimeout : Nat := 0
  estimate : Nat := 0
  demand : Nat := 0
  excursion : Nat := 0
  capUnmet : Bool := false
  belowFloor : Bool := false
  excursionRpt : Bool := false
  unmetReason : Nat := 0
  first : Nat := 0
  second : Nat := 1
  third : Nat := 2
  linksFloor : Nat := 0
  memFloor : Nat := 0
  compFloor : Nat := 0
  budgetCompute : Nat := 0
  budgetMemory : Nat := 0
  budgetLinks : Nat := 0
  dramM : Nat := 64
  haulGbs : Nat := 100
  groupMin : Nat := 0
  own : Nat := 0
  periods : Nat := 0
  missed : Nat := 0
  matchActive : Bool := false
  ownPulse : Bool := false
  /-- Codes reported by the members for the current period, by rank (R578). -/
  reports : Table Nat := []
  estCompute : Nat := 0
  estMemory : Nat := 0
  estLinks : Nat := 0
  estFixed : Nat := 0
  /-- Coefficient scales of the memory, links and fixed classes, the sums of their estimates since the last calibration, and
  how many estimates those are (R555). -/
  calibClass : List Nat := [4096, 4096, 4096]
  sumClass : List Nat := [0, 0, 0]
  estTicks : Nat := 0
  seq : Nat := 0
  inVoltage : Nat := 0
  inCurrent : Nat := 0
  inPower : Nat := 0
  inPeak : Nat := 0
  /-- Microseconds of each throttle reason (R589, R599). -/
  reasons : Table Nat := []
  /-- The pins as they stand, and the force that each source keeps in place (R586, R587). -/
  vrPin : Bool := false
  brakePin : Bool := false
  inputLow : Bool := true
  vrAlert : Bool := false
  pwrBrake : Bool := false
  inputLimit : Bool := false
  /-- The loop holds some die or claim below its preferred point (R589). -/
  below : Bool := false
  iccDies : Nat := 0
  /-- PWR_MEM_REFUSED (R289). -/
  memRefused : Nat := 0
  galRefused : Bool := false
  dramRefused : Bool := false
  /-- PWR_MODULE_STATE (R599). -/
  state : Nat := 0
  request : Nat := 0
  refused : Bool := false
  deriving DecidableEq, Repr

/-- One DRAM stack's temperature (R600). -/
structure StackTherm where
  tMax : Int := 0
  ceiling : Nat := 64
  refresh2x : Bool := false
  deriving DecidableEq, Repr

/-- Thermal registers of the module (R600). -/
structure ThermState where
  hubMax : Int := 0
  hubThrottle : Bool := false
  /-- Ceilings of R584, grants in 64 and GB/s. -/
  hubDram : Nat := 64
  hubHaul : Nat := 100
  stackSet : Table StackTherm := []
  onset : Nat := 760
  tripSeen : Nat := 0
  trips : Nat := 0
  /-- THERM_TRIP_N is asserted by a C-die, or by the hub (R585, R683). -/
  tripPin : Bool := false
  hubTrip : Bool := false
  deriving DecidableEq, Repr

end Sys2Proof.Machine
end

