-- ==== Sys2Proof/Machine/StateRas.lean ====
section
/-! DEFINITION. Errors and RAS (17 R659, R660). -/

namespace Sys2Proof.Machine

/-- A log entry (R660). -/
structure LogEntry where
  time : Nat := 0
  kind : Nat
  fault : Nat := 0
  reason : Nat := 0
  cls : Nat := 0
  core : Nat := 0
  array : Nat := 0
  claim : Option Nat := none
  die : Nat := 0
  unit : Nat := 0
  address : W64 := 0
  boot : Nat := 0
  detail : W64 := 0
  deriving DecidableEq, Repr

/-- ERR_CE_COUNT of one memory class (R659). -/
structure CeCount where
  corrected : Nat := 0
  hard : Nat := 0
  ue : Nat := 0
  deriving DecidableEq, Repr

/-- ERR_BAR_ACCESS (R659). -/
structure BarAccess where
  count : Nat := 0
  fn : Nat := 0
  write : Bool := false
  seen : Bool := false
  offset : Nat := 0
  deriving DecidableEq, Repr

/-- Errors and RAS. Sets of units are numbers whose bit i stands for unit i. -/
structure RasState where
  diesFailed : Nat := 0
  stacksFailed : Nat := 0
  sumpFenced : Nat := 0
  /-- Collective movers whose combine unit is fenced (R647). -/
  collFenced : Nat := 0
  /-- The W1C bits of ERR_SUMMARY. -/
  withdrawn : Bool := false
  fence : Bool := false
  die : Bool := false
  crc : Bool := false
  ue : Bool := false
  ce : Bool := false
  bar : BarAccess := {}
  counts : Table CeCount := []
  quadsWithdrawn : Nat := 0
  galWithdrawn : Nat := 0
  dramWithdrawn : Nat := 0
  /-- Regions withdrawn until the next module reset after a stack failure (R654). -/
  dramLost : Nat := 0
  /-- Hard words of each core's bench (1024 + core), gallery bank (32 + b) and DRAM region (544 + r) (R636). -/
  hardWords : Table Nat := []
  log : List LogEntry := []
  logTotal : Nat := 0
  /-- Persistent entries that firmware has not copied to flash yet, oldest first (R660). -/
  unsaved : List LogEntry := []
  plog : List LogEntry := []
  plogTotal : Nat := 0
  /-- ERR_PERSIST writes: discard withdrawals, or counted fences, at the next boot. -/
  dropWithdrawals : Bool := false
  dropFences : Bool := false
  /-- The persistent log holds withdrawals, or fences that R650 counts (ERR_PERSIST). -/
  withdrawnRec : Bool := false
  fenceRec : Bool := false
  boots : Nat := 0
  deriving DecidableEq, Repr

end Sys2Proof.Machine
end

