-- ==== Sys2Proof/Machine/StateClaim.lean ====
section
/-! DEFINITION. Claims, rings, tasks and the host side (14). -/

namespace Sys2Proof.Machine

/-- Ring registers (R551). -/
structure Ring where
  base : W64 := 0
  enable : Bool := false
  prio : Nat := 0
  sizeLog : Nat := 4
  tail : Nat := 0
  done : Nat := 0
  head : Nat := 0
  deriving DecidableEq, Repr

/-- What firmware keeps of a resident image (R366, R369, R537): the core table as (entry index, runs). -/
structure Resident where
  imageId : W64
  place : W64
  size : Nat
  argSize : Nat
  group : Bool
  cores : List (Nat × Bool)
  deriving DecidableEq, Repr

/-- The task of a claim (R535, R536, R540). -/
structure Task where
  ring : Nat
  msix : Bool
  user : Nat
  imageId : W64
  record : W64
  /-- The first fault recorded, and how many further ones (R398). -/
  fault : Option TaskFault := none
  others : Nat := 0
  /-- The engines whose faults coincided with the first, as (engine, core, unit) (R365, R398). -/
  coincided : List (Nat × Nat × Nat) := []
  /-- Set when the task ends as cancelled (R544). -/
  cancelled : Bool := false
  /-- The task spans the group (R547). -/
  group : Bool := false
  /-- Members whose completion records have not been written yet (R547). -/
  awaiting : List Nat := []
  /-- The task was forwarded to this member by the group host port module (R548). -/
  forwarded : Bool := false
  /-- The standby took over while the task ran: its record goes to the takeover place (R546). -/
  overtaken : Bool := false
  deriving DecidableEq, Repr

/-- A claim (R524 to R530, R551). Sets of units are numbers whose bit i stands for unit i. -/
structure Claim where
  created : Bool := false
  destroying : Bool := false
  fn : Nat := 0
  standby : Option Nat := none
  takenOver : Bool := false
  /-- The claim's function was lost and no standby holds it (R546, R549). -/
  unbound : Bool := false
  group : Bool := false
  quads : Nat := 0
  galBanks : Nat := 0
  dram : Nat := 0
  tallyBase : Nat := 0
  tallyUnits : Nat := 0
  convBase : Nat := 0
  convUnits : Nat := 0
  turnBase : Nat := 0
  turnCount : Nat := 0
  winBase : Nat := 0
  winCount : Nat := 0
  hubMovers : Nat := 0
  collMovers : Nat := 0
  sump : Nat := 0
  streamBase : Nat := 0
  streamCount : Nat := 0
  qpBase : Nat := 0
  qpCount : Nat := 0
  share : Nat := 0
  watchdog : Nat := 100
  rtMode : Bool := false
  wdOff : Bool := false
  /-- Whether the watchdog is off for the task that runs (R619: from its next task). -/
  wdSkip : Bool := false
  /-- The watchdog limit in force since the task started (R326, R551). -/
  wdLimit : Nat := 100
  holdReq : Bool := false
  /-- The host's hold is in effect (R542): of a group claim, on every member (R545). -/
  held : Bool := false
  /-- Every core of the claim on this module is held or has reached END under a hold of the host or the governor (R363, R573),
  and the other members that have said so (R545). -/
  heldHere : Bool := false
  heldBy : List Nat := []
  takeover : W64 := 0
  completed : Nat := 0
  aborted : Nat := 0
  loads : Nat := 0
  rings : Table Ring := []
  lastRing : Nat := 15
  image : Option Resident := none
  task : Option Task := none
  /-- A group task that has ended here, while other members' records are still to come (R547). -/
  closing : Option Task := none
  /-- Tasks that the claim has begun (the model's own): the number of the current task. -/
  begun : Nat := 0
  /-- Exports refuse inbound writes until the next task starts (R397, R428). -/
  fenced : Bool := false
  /-- The fault that impaired the claim (R652). -/
  impaired : Option FaultName := none
  noSpare : Bool := false
  /-- The claim's part of the address translation cache: pages of 4 KiB, latest first (R522). -/
  atc : List Nat := []
  /-- Governor fields of GOV_CLAIM (R598). -/
  prio : Nat := 0
  matchOn : Bool := false
  shed : Bool := false
  parked : Bool := false
  budget : Nat := 0
  pace : Nat := 0
  pref : Nat := 0
  /-- The power that the loop predicts for the claim at its pace, in W (R570, R621). -/
  predicted : Nat := 0
  /-- Preferred codes of the 16 phases, CLM_PHASE (R602). -/
  phases : Table Nat := []
  /-- Calls of collectives completed, run on the core path, and lost, SMP_COLL_CALLS (R485). -/
  collCalls : Nat := 0
  collFallbacks : Nat := 0
  collLost : Nat := 0
  /-- SUMP_FULL statuses returned, SMP_CLAIM.full (R452). -/
  sumpFull : Nat := 0
  deriving DecidableEq, Repr

/-- The claim request registers (R551). -/
structure ClaimReq where
  claim : Nat := 0
  fn : Nat := 0
  standbyEn : Bool := false
  standby : Nat := 0
  group : Bool := false
  quads : Nat := 0
  mem : W64 := 0
  sync : W64 := 0
  share : Nat := 0
  result : Nat := 0
  busy : Bool := false
  /-- The op, 1 or 2, of a request that waits while HC0 restarts (R604); 3 while a destroyed claim's windows are busy (R529); 4
  while members of the group have not answered (R527). -/
  waiting : Nat := 0
  awaiting : List Nat := []
  lastClaim : Nat := 0
  free : Nat := 0
  deriving DecidableEq, Repr

/-- A PCIe function (R517, R518). -/
structure Function where
  /-- The port configuration has a function of this number; and its link is up. -/
  real : Bool := false
  present : Bool := false
  /-- Link 0, 1 of H0 or 2, 3 of H1. -/
  link : Nat := 0
  isPf : Bool := false
  /-- Physical function 0 of its link (R518). -/
  control : Bool := false
  ats : Bool := false
  deriving DecidableEq, Repr

/-- The host side: the functions' IO virtual memories, keyed function × 2^52 + address; ranges that the host does not
translate, as (function, first page, pages); and the MSI-X vectors signalled, as (claim, vector), latest first. -/
structure HostState where
  bytes : List Host.Cell := []
  unmapped : List (Nat × Nat × Nat) := []
  msix : List (Nat × Nat) := []
  deriving DecidableEq, Repr

end Sys2Proof.Machine
end

