-- ==== Sys2Proof/Machine/StateCore.lean ====
section
/-! DEFINITION. The state of one core's sequencer, bench and synchronisation registers (07, 08, 09). Every field's
default is its value at reset. -/

namespace Sys2Proof.Machine

/-- The sequencer's state code, in the order of CORE_SEQ_STATUS.state (R372). -/
inductive SeqRun where
  | idle | running | waiting | stalled | held | ended | faulted
  deriving DecidableEq, Repr

/-- What the sequencer waits on: kind 0 tag, 1 tally, 2 conveyor, 3 fence, and the object (R331). -/
structure SeqWait where
  kind : Nat
  object : Nat
  deriving DecidableEq, Repr

/-- A zero-overhead loop counter (R332, R344). -/
structure LoopCtr where
  start : Nat := 0
  stop : Nat := 0
  remaining : Nat := 0
  deriving DecidableEq, Repr

/-- An attached or named chain: its handle and the deadline class of its tagged accesses (R347). -/
structure ChainRef where
  handle : Nat
  cls : Nat
  deriving DecidableEq, Repr

/-- CORE_SEQ_FAULT and CORE_SEQ_FAULT_WORD (R372). -/
structure SeqFault where
  fault : Bool := false
  code : Nat := 0
  reason : Nat := 0
  pc : Nat := 0
  word : W64 := 0
  deriving DecidableEq, Repr

/-- The sequencer (R332, R347, R360, R361, R372). -/
structure SeqState where
  regs : Table W64 := []
  preds : Table Pred := []
  loops : Table LoopCtr := []
  /-- Active loops, most recently started first (R344). -/
  order : List Nat := []
  pc : Nat := 0
  run : SeqRun := .idle
  wait : Option SeqWait := none
  phase : Nat := 0
  breakId : Nat := 0
  /-- Chains attached to the next MMA (R347): prologue and epilogue. -/
  prologue : Option ChainRef := none
  epilogue : Option ChainRef := none
  /-- Attached chains of any other position, by position (2, 3, or 4 for a handle outside the bench): the MMA's start refuses
  them. -/
  odd : List (Nat × ChainRef) := []
  fault : SeqFault := {}
  retired : Nat := 0
  stalls : Table Nat := []
  imageId : W64 := 0
  /-- The number the next unit item of this core takes; it orders the items of the core's queues (R291, R336). -/
  nextItem : Nat := 0
  deriving DecidableEq, Repr

/-- What a held tagged access does once its slot is ready (R295). -/
inductive HeldOp where
  /-- A bench access of one line. -/
  | access (op : BenchOp)
  /-- A write of the low bits of one byte (R170). -/
  | part (value : Byte) (bits : Nat)
  /-- A tagged scalar load into a register, or a tagged scalar store (R342). -/
  | load (rd len : Nat)
  | store (data : List Byte)
  /-- The head item of a unit or block of a mover, which runs again when it is released. -/
  | item
  deriving DecidableEq, Repr

/-- A tagged access in a wait register (R295). -/
structure HeldAccess where
  eng : Engine
  port : Port
  offset : Nat
  op : HeldOp
  mark : TagMark
  isWrite : Bool
  cls : Nat := 0
  /-- The claim whose window the access came through, and that window's rank and number (R314, R425). -/
  owner : Option Nat := none
  win : Option (Nat × Nat) := none
  deriving DecidableEq, Repr

/-- CORE_BENCH_FAULT (R288). -/
structure BenchFault where
  fault : Bool := false
  code : Nat := 0
  bank : Nat := 0
  portA : Nat := 0
  portB : Nat := 0
  slotA : Nat := 0
  slotB : Nat := 0
  deriving DecidableEq, Repr

/-- The bench of a core (R244, R288, R293, R295, R635, R638). -/
structure BenchState where
  bytes : List Host.Cell := []
  /-- Full slots; an unlisted slot is empty. -/
  tags : Table Bool := []
  /-- Seals of the aligned 4 KiB tiles; none when not valid. -/
  seals : Table (Option W32) := []
  /-- Poisoned 8 B words. -/
  poison : Table Bool := []
  /-- When each 8 B word was last corrected, in ns plus 2; 1 for a word with a hard error (R636). -/
  corrected : Table Nat := []
  held : List HeldAccess := []
  /-- The core mover that P-move served last: true for M1 (R254). -/
  lastMove : Bool := true
  off : Nat := 0
  ready : Nat := 0xFFFF
  refused : Bool := false
  fault : BenchFault := {}
  tagSel : Nat := 0
  portBeats : Table Nat := []
  deriving DecidableEq, Repr

/-- CORE_SYNC_FAULT (R331). -/
structure SyncFault where
  fault : Bool := false
  code : Nat := 0
  engine : Nat := 0
  kind : Nat := 0
  object : Nat := 0
  cls : Nat := 0
  deriving DecidableEq, Repr

/-- Synchronisation registers of a core (R331). -/
structure SyncState where
  fault : SyncFault := {}
  tagWaits : Nat := 0
  otherWaits : Nat := 0
  waitTime : Nat := 0
  deadlines : Table Nat := []
  /-- CORE_SYNC_WAIT as firmware recorded it at a watchdog stall (R327). -/
  recorded : Option SeqWait := none
  deriving DecidableEq, Repr

end Sys2Proof.Machine
end

