-- ==== Sys2Proof/Machine/StateMatrix.lean ====
section
/-! DEFINITION. The state of one core's matrix unit: queue, tiles, chutes, accumulators and registers (03, 04 R165). -/

namespace Sys2Proof.Machine

/-- The operands of an MMA (R112, R346), with its attached chains (R347). -/
structure MmaOp where
  mask : Nat
  m : Nat
  n : Nat
  k : Nat
  base : Nat
  acc : Bool
  swap : Bool
  sfmt : Nat
  wfmt : Nat
  sat : Bool
  source : Nat
  prologue : Option ChainRef := none
  epilogue : Option ChainRef := none
  /-- An attached chain of neither position. -/
  odd : Option ChainRef := none
  deriving DecidableEq, Repr

/-- The operands of a FILL with the registers it read at issue (R335, R351). -/
structure FillOp where
  mode : Nat
  target : Nat
  coff : Nat
  dh : Nat
  m : Nat
  reg : W64
  deriving DecidableEq, Repr

/-- An item of the matrix queue (R337). -/
inductive MatItem where
  | mma (op : MmaOp)
  | sload (woff wfmt soff : Nat) (packed : Bool)
  | fill (op : FillOp)
  | attend (ref : ChainRef)
  deriving DecidableEq, Repr

/-- An item with its place in the core's issue order. -/
structure MatEntry where
  no : Nat
  item : MatItem
  deriving DecidableEq, Repr

/-- A check weight (R123): sign, 24-bit magnitude, the exponent of the magnitude's lowest bit, and the mark of a row that
holds an infinity or a NaN. -/
structure CheckWeight where
  neg : Bool := false
  mag : Nat := 0
  ex : Int := 0
  special : Bool := false
  deriving DecidableEq, Repr

/-- A stationary tile: format, packed or not, its 64 rows, its column scales, the weights of the check column (row r at
place r, or its even and odd sums at places 2r and 2r + 1 when packed), and whether it is a wide tile (R92, R94, R123,
R124). -/
structure Tile where
  fmt : Nat := 0
  packed : Bool := false
  rows : List Byte := []
  scales : List Byte := []
  checks : List CheckWeight := []
  wide : Bool := false
  deriving DecidableEq, Repr

/-- The shadow's state, in the order of CORE_ARR_STATUS.shadow (R95). -/
inductive Shadow where
  | empty | filling | ready
  deriving DecidableEq, Repr

/-- The MMA whose slices are entering, and the next row (R100). -/
structure RunMma where
  no : Nat
  op : MmaOp
  row : Nat
  deriving DecidableEq, Repr

/-- The slice of one array: its bytes and its scales (R93, R695). -/
structure Slice where
  array : Nat
  data : List Byte
  scales : List Byte
  deriving DecidableEq, Repr

/-- A token row in flight, with the tile that was active when its slices entered (R96, R101). -/
structure FlightRow where
  no : Nat
  op : MmaOp
  row : Nat
  slices : List Slice
  tile : Tile
  deriving DecidableEq, Repr

/-- CORE_CHK_STATUS (R136). -/
structure ChkState where
  mismatches : Nat := 0
  array : Nat := 0
  row : Nat := 0
  half : Bool := false
  block : Nat := 0
  wide : Bool := false
  mismatch : Bool := false
  deriving DecidableEq, Repr

/-- CORE_ARITH_FLAGS (R165). -/
structure ArithFlags where
  satCount : Nat := 0
  ovfCount : Nat := 0
  intOvf : Nat := 0
  galEvent : Bool := false
  scaleNan : Bool := false
  convSat : Bool := false
  convOvf : Bool := false
  accInf : Bool := false
  accNan : Bool := false
  deriving DecidableEq, Repr

/-- How far the fill at the head of the queue has read (R294): its descriptor, the reads that are done, and the bytes and
seals that they took. -/
structure FillProg where
  words : List W64
  done : Nat := 0
  bytes : List (Nat × Byte) := []
  seals : List (Nat × Option W32) := []
  deriving DecidableEq, Repr

/-- The matrix unit of a core. -/
structure MatState where
  queue : List MatEntry := []
  /-- The fill that has begun to read, if any. -/
  fill : Option FillProg := none
  run : Option RunMma := none
  flight : List FlightRow := []
  active : Tile := {}
  activeValid : Bool := false
  shadow : Shadow := .empty
  shadowTile : Tile := {}
  /-- Weight chute, by byte (R249). -/
  weight : List Host.Cell := []
  /-- Activation chutes: byte `b` of array a's chute is key `131072 a + b` (R249). -/
  act : List Host.Cell := []
  /-- Accumulators: column n of row r of array a is key `(256 a + r) 64 + n` (R249). -/
  acc : Table W32 := []
  /-- Rows marked INT32, key `256 a + r` (R178). -/
  intRow : Table Bool := []
  idleAfter : Nat := 16
  ramp : Nat := 1
  fenced : Nat := 0
  idle : Bool := true
  quarters : Nat := 0
  validBeats : Nat := 0
  bubbleBeats : Nat := 0
  ramps : Nat := 0
  rampBeats : Nat := 0
  chk : ChkState := {}
  wideTiles : Nat := 0
  specialChunks : Nat := 0
  arith : ArithFlags := {}
  deriving DecidableEq, Repr

end Sys2Proof.Machine
end

