-- ==== Sys2Proof/Machine/StateDressing.lean ====
section
/-! DEFINITION. The state of one core's dressing unit and attention chain (05, 06). -/

namespace Sys2Proof.Machine

/-- The rows a chain of positions 0 drains: arrays, rows m of each array from `base`, width N (R174, R350). -/
structure DrainRows where
  mask : Nat
  m : Nat
  n : Nat
  base : Nat
  deriving DecidableEq, Repr

/-- An item of the dressing queue (R171, R337, R354); register operands as read at issue (R335). -/
inductive DrsItem where
  /-- An epilogue chain or a DRAIN. -/
  | drain (ref : ChainRef) (rows : DrainRows) (sat : Bool) (isDrain : Bool)
  /-- A prologue chain of an MMA. -/
  | prologue (ref : ChainRef) (op : MmaOp)
  | pass (ref : ChainRef) (rows start : Nat) (stride : Nat) (sat : Bool)
  | dot (rows cols k afmt wfmt wd : Nat) (r0 r1 r2 : W64)
  | conv (sfmt dfmt : Nat) (sat : Bool) (count : Nat) (r0 r1 : W64)
  | wld (wd off : Nat)
  | wst (wd off : Nat)
  | lane (funct wd wa wb wc p : Nat) (pen bsc : Bool) (imm : W32)
  | attend (ref : ChainRef)
  /-- The closing pass of a chain: its descriptor and its post descriptor, the row numbers that exist and their count R
  (R177, R192), the widths of the tiles and the saturate mode (R196). -/
  | closing (ref : ChainRef) (words post : List W64) (rows : List Nat) (count : Nat) (widths : List Nat) (sat : Bool)
  deriving DecidableEq, Repr

/-- An item with its place in the core's issue order. -/
structure DrsEntry where
  no : Nat
  item : DrsItem
  deriving DecidableEq, Repr

/-- CORE_DRS_FAULT (R206). -/
structure DrsFault where
  fault : Bool := false
  code : Nat := 0
  reason : Nat := 0
  stage : Nat := 0
  handle : Nat := 0
  deriving DecidableEq, Repr

/-- A piece handed to the haul engine (R490, R492): the claim-relative stream, K or V, layer, token, 64-column block, the
format of its elements, its elements and its scales. -/
structure HandPiece where
  stream : Nat
  isV : Bool
  layer : Nat
  token : Nat
  block : Nat
  format : Nat
  /-- Saturating FP8 output, for a bank-side quantise (R158). -/
  sat : Bool
  data : List Byte
  scales : List Byte
  deriving DecidableEq, Repr

/-- How far the item at the head of the queue has run: the chain and post descriptors read at its start, the tile number of
its chain, and its steps that are through (R170, R171). -/
structure ItemProg where
  words : List W64
  post : List W64
  tile : Nat
  done : Nat
  deriving DecidableEq, Repr

/-- The dressing unit of a core. -/
structure DrsState where
  queue : List DrsEntry := []
  /-- The running item, if any. -/
  prog : Option ItemProg := none
  /-- CORE_DRS_STATUS.position and handle (R206): 0 at reset, 3 once an item has run and none runs. -/
  position : Nat := 0
  handle : Nat := 0
  /-- Wide registers: lane i of register r is key `128 r + i` (R168). -/
  wide : Table W32 := []
  /-- Tiles of the current row set that each chain has taken, by handle (R194). -/
  tiles : Table Nat := []
  /-- Widths N of those tiles, by handle. -/
  widths : Table (List Nat) := []
  /-- Columns gathered for the current row set, by the first register of the statistic (R185). -/
  cols : Table Nat := []
  /-- Bytes of the hold region in use (R195). -/
  holdBytes : Nat := 0
  hands : List HandPiece := []
  fault : DrsFault := {}
  beats : Nat := 0
  portBeats : Nat := 0
  closes : Nat := 0
  closeWaitBeats : Nat := 0
  /-- The closing pass waits on its tally (R196). -/
  closeWait : Bool := false
  deriving DecidableEq, Repr

/-- CORE_ATT_FAULT (R240). -/
structure AttFault where
  fault : Bool := false
  code : Nat := 0
  reason : Nat := 0
  handle : Nat := 0
  deriving DecidableEq, Repr

/-- A running attention call (R208): its descriptor, the steps that have run, and the tiles still to run; with none left its
closing is due (R218). -/
structure AttCall where
  no : Nat
  ref : ChainRef
  words : List W64
  steps : Nat
  tiles : List Nat
  deriving DecidableEq, Repr

/-- The attention chain of a core (R240). -/
structure AttState where
  call : Option AttCall := none
  kvWait : Bool := false
  tile : Nat := 0
  fault : AttFault := {}
  calls : Nat := 0
  skipped : Nat := 0
  deriving DecidableEq, Repr

end Sys2Proof.Machine
end

