-- ==== Sys2Proof/Machine/StateColl.lean ====
section
/-! DEFINITION. Collective calls in progress, collective movers, and what the library sends outside windows
(12 R454 to R485). -/

namespace Sys2Proof.Machine

/-- What a receive does with its chunk: a copy, op(own, received), or op(received, own) (R468). -/
inductive CollMode where
  | copy | ownFirst | ownLast
  deriving DecidableEq, Repr

/-- A chunk that a call expects on one of its streams: the sender's member index, the ranges of the call's vector that it
holds, whether they are final then, and whether it lands in the stockpile (R464). -/
structure CollRecv where
  peer : Nat
  regions : List (Nat × Nat)
  mode : CollMode
  final : Bool
  stock : Bool
  deriving DecidableEq, Repr

/-- A row of the input written as row `target` of the output of member `dest` (R475, R476). -/
structure RowMove where
  src : Nat
  dest : Nat
  target : Nat
  deriving DecidableEq, Repr

/-- An action of a call; `need` is how many chunks of each stream must have arrived before it. -/
inductive CollAct where
  /-- One chunk to a member: its stream there, and the number of the chunk on that stream. -/
  | send (peer stream : Nat) (regions : List (Nat × Nat)) (slot : Nat) (stock : Bool) (need : List (Nat × Nat))
  /-- The core path's combine of the values of an axis line (R472). -/
  | fold (axis n pos : Nat) (final : Bool) (need : List (Nat × Nat))
  /-- Write the own part of an axis step into the slots of the line (R471), and read the combined result. -/
  | contribute (axis n pos : Nat) (line : List Nat)
  | result (axis : Nat) (final : Bool)
  /-- The issuing core arrives at the module slot (R473). -/
  | home
  /-- Arrive at the axis slots of the line (R473), and go on when the own slot has completed. -/
  | arrive (axis n : Nat) (line : List Nat)
  | leave (axis : Nat)
  /-- The second phase of an all-to-all, or the rows of a return (R475, R476), and the rows moved, one at a time. -/
  | rows (need : List (Nat × Nat))
  | moveRows
  deriving DecidableEq, Repr

/-- What the record of an all-to-all reports (R478): rows dropped, received, and the drop table. -/
structure CollDrops where
  own : Nat := 0
  here : Nat := 0
  received : Nat := 0
  padding : Nat := 0
  table : List Nat := []
  deriving DecidableEq, Repr

/-- A collective call in progress on this member (R454, R455). -/
structure CollCall where
  /-- The words of the collective descriptor and of the group descriptor. -/
  words : List W64
  group : List W64
  mover : Nat
  /-- The issuing core, and the number of the first packet sent after its CSTEP: its own earlier writes are performed before
  an operation at group scope (R322, R444). -/
  core : Nat
  fence : Nat := 0
  /-- Ranks of the collective group, by member index, and the own index. -/
  ranks : List Nat
  me : Nat
  algo : Nat
  fallback : Bool := false
  /-- The vector that the call works on. -/
  vec : List Byte := []
  /-- Bytes of the input that have been read. -/
  loaded : Nat := 0
  inRuns : List (W64 × Nat) := []
  outRuns : List (W64 × Nat) := []
  /-- Chunks still expected, and chunks received, of each stream. -/
  recvs : List (List CollRecv) := []
  got : List Nat := []
  /-- Members whose parameters have been compared (R462), and members that have been sent the own ones. -/
  heard : List Nat := []
  told : List Nat := []
  acts : List (List CollAct) := []
  /-- Chunks issued against each credit tally (R464). -/
  issued : Table Nat := []
  finals : List (Nat × Nat) := []
  doneChunks : Nat := 0
  /-- Sump slots of each axis step (R471). -/
  slots : List (List Nat) := []
  /-- First of the barrier slots of the group descriptor, and the generation arrived at (R473). -/
  barrier : Nat := 0
  gen : Nat := 0
  drops : CollDrops := {}
  /-- Rows of the second phase still to be moved. -/
  rows : List RowMove := []
  deriving DecidableEq, Repr

/-- MOV_COLL_FAULT (R484). -/
structure CollMoverFault where
  fault : Bool := false
  code : Nat := 0
  seq : Nat := 0
  deriving DecidableEq, Repr

/-- A collective mover (R484); its byte counts are kept in bytes. -/
structure CollMover where
  claim : Nat := 0
  state : Nat := 0
  seq : Nat := 0
  fault : CollMoverFault := {}
  moved : Nat := 0
  combined : Nat := 0
  /-- Its blocks to other members that are not performed yet: the numbers of the first packet and of the one after the last
  (R373: at most 16). -/
  blocks : List (Nat × Nat) := []
  deriving DecidableEq, Repr

/-- SMP_COLL_FAULT (R485). -/
structure CollFault where
  fault : Bool := false
  code : Nat := 0
  reason : Nat := 0
  claim : Nat := 0
  seq : Nat := 0
  rank : Nat := 0
  deriving DecidableEq, Repr

/-- What the library sends beside window accesses: the parameters that R462 compares, the counts of an all-to-all, the end
of its rows, a part for the sump slots of an axis step, an arrival. -/
inductive CollNote where
  | params (ws : List W64)
  | counts (data : List Byte)
  | rowsEnd
  | part (axis pos : Nat) (data : List Byte)
  | arrive (axis : Nat)
  deriving DecidableEq, Repr

/-- A note sent to a rank for a call of a claim. -/
structure CollSent where
  rank : Nat
  claim : Nat
  seq : Nat
  note : CollNote
  deriving DecidableEq, Repr

/-- Collectives of the module. -/
structure CollState where
  movers : Table CollMover := []
  fault : CollFault := {}
  /-- Notes that the library has sent, latest first. -/
  sent : List CollSent := []
  /-- Group descriptors with barrier slots, of each claim (R473). -/
  barriers : Table (List (List W64)) := []
  deriving DecidableEq, Repr

end Sys2Proof.Machine
end

