-- ==== Sys2Proof/Machine/StateMover.lean ====
section
/-! DEFINITION. Movers (10) and net ports (11 R453). -/

namespace Sys2Proof.Machine

/-- The values of a parameter descriptor (R385). -/
structure MovParams where
  cls : Nat := 0
  creditEn : Bool := false
  creditTally : Nat := 0
  creditBase : W32 := 0
  /-- Credit blocks since the parameter descriptor that named the tally (R391). -/
  creditIdx : Nat := 0
  gatherList : W64 := 0
  ckSrc : W64 := 0
  ckDst : W64 := 0
  scaleDst : W64 := 0
  turn : Nat := 0
  contributor : Nat := 0
  turnEnd : Bool := false
  accKind : Nat := 0
  turnOn : Bool := false
  qFormat : Nat := 0
  sat : Bool := true
  turnCount : Nat := 0
  turnTally : Nat := 0
  turnTallyEn : Bool := false
  deriving DecidableEq, Repr

/-- A posted block list: the posting core, the handle, the number of descriptors, the next descriptor and the next
block's index, and the parameters in force (R376, R377). -/
structure MovList where
  core : Nat
  handle : Nat
  count : Nat
  next : Nat := 0
  block : Nat := 0
  /-- The mover has started the list. -/
  begun : Bool := false
  /-- The credit wait of the next block stands at its tally's home, or is met (R302, R391). -/
  waited : Bool := false
  granted : Bool := false
  params : MovParams := {}
  deriving DecidableEq, Repr

/-- An access of a block, with the walk indices it stands at: a read of its source, of its index list or of a stored
checksum; a write, tagged or not; an accumulate request; a turn set or an empty turn; or a check that fails. -/
inductive Acc where
  | rd (place : W64) (len : Nat) (idx : List Nat)
  | look (place : W64) (len : Nat)
  | ck (place : W64) (tile : Nat) (idx : List Nat)
  | wr (place : W64) (data : List Byte) (tagged : Bool) (idx : List Nat)
  | acc (place : W64) (data : List Byte) (kind : AccKind) (turn : Option TurnRef) (idx : List Nat)
  | turn (counter count tally : Nat) (en : Bool)
  | empty (place : W64) (turn : TurnRef)
  | bad (i : FaultInfo) (idx : List Nat)
  deriving DecidableEq, Repr

/-- The block that a mover reads: its descriptor, the reads to come, and the source stream so far (R378, R392). -/
structure ReadProg where
  words : List W64
  todo : List Acc
  stream : List Byte := []
  deriving DecidableEq, Repr

/-- A block that has read its source: the writes to come, and what its completion action needs (R378, R379). -/
structure OutBlock where
  core : Nat
  handle : Nat
  block : Nat
  op : Nat
  dst : W64
  todo : List Acc
  bytes : Nat
  cmpl : Nat
  arg : Nat
  /-- Bench ranges of this module that the block writes: core, offset, bytes. -/
  ranges : List (Nat × Nat × Nat)
  cls : Nat
  /-- The last block of its list. -/
  last : Bool
  deriving DecidableEq, Repr

/-- The fault registers of a mover (R403). -/
structure MovFault where
  fault : Bool := false
  code : Nat := 0
  reason : Nat := 0
  block : Nat := 0
  listSeq : Nat := 0
  place : W64 := 0
  i1 : Nat := 0
  i2 : Nat := 0
  i3 : Nat := 0
  i4 : Nat := 0
  deriving DecidableEq, Repr

/-- A core mover or a hub mover. -/
structure MoverState where
  lists : List MovList := []
  /-- The block at the head that has begun to read. -/
  prog : Option ReadProg := none
  out : List OutBlock := []
  /-- A conveyor push of the oldest outstanding block waits (R388, R403). -/
  pushing : Bool := false
  stopped : Bool := false
  fault : MovFault := {}
  bytes : Nat := 0
  delivered : Nat := 0
  creditWaits : Nat := 0
  started : Nat := 0
  deriving DecidableEq, Repr

/-- An item of a net queue (R337, R356, R359): a collective step, a list for a hub mover, a post of bench bytes, a remote
tally add, a remote conveyor push, a window fence. `src` to `hi` are register operands as read at issue; `done` is how much
of a post has gone out. -/
inductive NetItem where
  | cstep (handle : Nat)
  | moveh (mover handle count : Nat)
  | post (window rank src len off done : Nat) (tagged fill : Bool)
  | rtally (window rank tally delta : Nat) (fence : Bool)
  | rpush (window rank conveyor : Nat) (lo hi : W64) (fence : Bool)
  | wfence (window rank : Nat)
  deriving DecidableEq, Repr

/-- CORE_NET_FAULT (R453). -/
structure NetFault where
  fault : Bool := false
  code : Nat := 0
  reason : Nat := 0
  window : Nat := 0
  rank : Nat := 0
  deriving DecidableEq, Repr

/-- A core's net port. -/
structure NetState where
  queue : List NetItem := []
  /-- Tally adds of tile posts that wait for the posts' writes (R431), oldest first. -/
  due : List NetItem := []
  fault : NetFault := {}
  /-- Collective calls that this core issued and that are in progress (R454, R455). -/
  calls : List CollCall := []
  deriving DecidableEq, Repr

end Sys2Proof.Machine
end

