-- ==== Sys2Proof/Machine/StateSync.lean ====
section
/-! DEFINITION. Shared memories and synchronisation objects: gallery, DRAM, turn counters, tallies, conveyors, backoff
(07, 08, 11 R436, R437). -/

namespace Sys2Proof.Machine

/-- A request that waits for its turn (R270): a request with the claim whose bank it targets, or the head block of a mover,
which presents its own accesses. -/
inductive TurnReq where
  | request (req : AccReq) (claim : Option Nat)
  | item (eng : Engine) (turn : TurnRef)
  deriving DecidableEq, Repr

/-- A turn counter (R268). -/
structure TurnCounter where
  next : Nat := 0
  count : Nat := 1
  owner : Option Engine := none
  tally : Nat := 0
  tallyEn : Bool := false
  rounds : Nat := 0
  /-- The turn hold of one request (R270). -/
  hold : Option TurnReq := none
  deriving DecidableEq, Repr

/-- The gallery (R246, R635). -/
structure GalleryState where
  bytes : List Host.Cell := []
  poison : Table Bool := []
  corrected : Table Nat := []
  turns : Table TurnCounter := []
  /-- PWR_GAL_OFF and PWR_GAL_READY, by global bank number (R289). -/
  off : Nat := 0
  ready : Nat := 0
  deriving DecidableEq, Repr

/-- DRAM (R247, R248, R635). -/
structure DramState where
  bytes : List Host.Cell := []
  poison : Table Bool := []
  corrected : Table Nat := []
  off : Nat := 0
  ready : Nat := 0
  /-- Regions that a destroyed claim returned and that firmware has not yet zeroed (R286, R529). -/
  zeroing : Nat := 0
  /-- Units at which an uncorrectable error was met within the last second, with the time (R654). -/
  ueUnits : List (Nat × Nat) := []
  deriving DecidableEq, Repr

/-- A buffer handle: its two words (R304). -/
structure Handle where
  place : W64 := 0
  info : W64 := 0
  deriving DecidableEq, Repr

/-- Who waits at a tally or conveyor home (R299, R302). -/
inductive Waiter where
  | seq (c : CoreId)
  | mover (m : MoverId)
  | closing (c : CoreId)
  /-- An engine that reaches the home through a window: a net port, a mover, or an engine of another module. -/
  | net (eng : Engine)
  /-- A collective call, by its mover and sequence number. -/
  | coll (m : Fin 16) (seq : Nat)
  deriving DecidableEq, Repr

/-- A wait entry of a tally home (R302). -/
structure WaitEntry where
  tally : Nat
  target : W32
  who : Waiter
  /-- The deadline class of the wait (R328). -/
  cls : Nat := 0
  deriving DecidableEq, Repr

/-- A waiting push (R306): who pushes, and the handle. -/
structure WaitingPush where
  who : Waiter
  handle : Handle
  cls : Nat := 0
  deriving DecidableEq, Repr

/-- A waiting pop (R306): the core and the first register of the pair, or a mover. -/
structure WaitingPop where
  who : Waiter
  rd : Nat
  cls : Nat := 0
  deriving DecidableEq, Repr

/-- A conveyor (R304, R306). -/
structure Conveyor where
  handles : List Handle := []
  depth : Nat := 32
  push : Option WaitingPush := none
  pop : Option WaitingPop := none
  deriving DecidableEq, Repr

/-- A request at a port of the junction or of a slice: its engine, input port and bytes, the bank or slot that it goes to,
and whether it is transit (R419, R432, R436). -/
structure JctReq where
  eng : Engine
  input : Nat
  bytes : Nat
  unit : Nat
  transit : Bool
  deriving DecidableEq, Repr

/-- A request that was refused and is presented again after a backoff (R270, R296, R302, R306, R437). -/
inductive Refused where
  | tagged (c : CoreId) (a : HeldAccess)
  | wait (w : WaitEntry)
  | push (conveyor : Nat) (p : WaitingPush)
  | pop (conveyor : Nat) (p : WaitingPop)
  | accumulate (r : TurnReq)
  | junction (p : PortRef) (r : JctReq)
  /-- A request that lost at its bank or slot, and stays in its queue: the port and the entry (R438). -/
  | loser (p : PortRef) (entry : Nat)
  deriving DecidableEq, Repr

/-- A backoff: the request and the beats or ns to wait next, doubled at each refusal (R302, R437). -/
structure Backoff where
  req : Refused
  delay : Nat
  deriving DecidableEq, Repr

end Sys2Proof.Machine
end

