-- ==== Sys2Proof/Machine/StateRoot.lean ====
section
/-! DEFINITION. One core's whole state (01 R36, R37). -/

namespace Sys2Proof.Machine

/-- One core (01 *Core contents*). -/
structure CoreState where
  seq : SeqState := {}
  bench : BenchState := {}
  sync : SyncState := {}
  mat : MatState := {}
  drs : DrsState := {}
  att : AttState := {}
  m0 : MoverState := {}
  m1 : MoverState := {}
  net : NetState := {}
  pwr : CorePower := {}
  deriving DecidableEq, Repr

end Sys2Proof.Machine
end

