-- ==== Sys2Proof/Machine/State.lean ====
section
/-! DEFINITION. The state of the module, its reset state, and the outcomes a command may have. -/

namespace Sys2Proof.Machine

/-- Faults of the model. Every fault of the manual aborts a task and is an effect on `State`; a command never stops the
block, so no command raises this. -/
inductive Fault where
  /-- Raised by no command: the manual gives every command of the table an effect. Safe. -/
  | unreachable
  deriving DecidableEq, Repr

/-- Refusals of the model. -/
inductive Refusal where
  /-- Raised by `exec` for a command whose meaning is not modelled, by its mnemonic. Safe: a run stops there. -/
  | notModelled (mnemonic : String)
  deriving DecidableEq, Repr

/-- What the module returned to the sender of the last command that asks for something. -/
inductive Answer where
  | nothing
  | data (bytes : List Byte)
  | words (ws : List W64)
  /-- A sump slot number, or a status code. -/
  | number (n : Nat)
  /-- The request waits, or was turned away and is presented again. -/
  | waits
  | refused (code : Nat)
  | sumpFull
  /-- A tile checksum of a post did not match at the target (R640). -/
  | badChecksum
  /-- The requester raises SYNC_RANGE (R303). -/
  | outOfRange
  deriving DecidableEq, Repr

/-- The module. -/
structure State where
  /-- Commands that wait, first in, first out (the model's own field). -/
  pending : List Instr := []
  /-- Free values drawn so far (the model's own field; entry 20 of the log). -/
  draws : Nat := 0
  cores : Table CoreState := []
  gallery : GalleryState := {}
  dram : DramState := {}
  tallies : Table W32 := []
  waits : List WaitEntry := []
  conveyors : Table Conveyor := []
  backoffs : List Backoff := []
  claims : Table Claim := []
  claimReq : ClaimReq := {}
  functions : Table Function := []
  host : HostState := {}
  hubMovers : Table MoverState := []
  group : GroupState := {}
  dies : Table DieState := []
  power : PowerState := {}
  therm : ThermState := {}
  ras : RasState := {}
  /-- Hub timebase in ns, as the last event that reports it gave it (R660). -/
  now : Nat := 0
  fabric : FabricState := {}
  haul : HaulState := {}
  coll : CollState := {}
  sys : ModuleState := {}
  answer : Answer := .nothing
  deriving DecidableEq, Repr

/-- The module right after reset. -/
def State.reset : State := {}

end Sys2Proof.Machine
end

