-- ==== Sys2Proof/Machine/Ops.lean ====
section
/-! DEFINITION. Named operations over the state: one home for every read and update of a core, a claim and a memory, who
owns what, and the one way a fault stops a task (R397). -/

namespace Sys2Proof.Machine

/-! ### Cores and claims -/

/-- Core `c`. -/
def coreAt (s : State) (c : Nat) : CoreState := tget {} s.cores c

/-- Core `c` replaced. -/
def setCore (s : State) (c : Nat) (k : CoreState) : State := { s with cores := tput {} s.cores c k }

/-- Core `c` changed. -/
def modCore (s : State) (c : Nat) (f : CoreState → CoreState) : State := setCore s c (f (coreAt s c))

def modSeq (s : State) (c : Nat) (f : SeqState → SeqState) : State := modCore s c fun k => { k with seq := f k.seq }
def modBench (s : State) (c : Nat) (f : BenchState → BenchState) : State :=
  modCore s c fun k => { k with bench := f k.bench }
def modSync (s : State) (c : Nat) (f : SyncState → SyncState) : State := modCore s c fun k => { k with sync := f k.sync }
def modMat (s : State) (c : Nat) (f : MatState → MatState) : State := modCore s c fun k => { k with mat := f k.mat }
def modDrs (s : State) (c : Nat) (f : DrsState → DrsState) : State := modCore s c fun k => { k with drs := f k.drs }
def modAtt (s : State) (c : Nat) (f : AttState → AttState) : State := modCore s c fun k => { k with att := f k.att }

/-- Claim `k`. -/
def claimAt (s : State) (k : Nat) : Claim := tget {} s.claims k

/-- Claim `k` changed. -/
def modClaim (s : State) (k : Nat) (f : Claim → Claim) : State :=
  { s with claims := tput {} s.claims k (f (claimAt s k)) }

/-- Whether function `f` acts for claim `k`: the claim's function, or its standby once that has taken over; a claim whose
function was lost answers to none (R546, R549). -/
def actsFor (s : State) (f k : Nat) : Bool :=
  let c := claimAt s k
  c.created && (if c.takenOver then c.standby == some f else c.fn == f && !c.unbound)

/-- The claim numbers (R524). -/
def claimNos : List Nat := upFrom 0 8

/-- The quad of a core (R35). -/
def quadOf (c : Nat) : Nat := c / 4

/-- The C-die of a core (R4). -/
def dieOf (c : Nat) : Nat := c / 16

/-- The first claim that a test holds of, among the claims that exist. -/
def ownerBy (s : State) (f : Claim → Bool) : Option Nat :=
  firstSome (fun k => if (claimAt s k).created && f (claimAt s k) then some k else none) claimNos

/-- The claim that owns quad `q` (R524). -/
def quadOwner (s : State) (q : Nat) : Option Nat := ownerBy s fun k => inSet k.quads q

/-- The claim that owns core `c`. -/
def coreOwner (s : State) (c : Nat) : Option Nat := quadOwner s (quadOf c)

/-- The claim that owns gallery bank `b` (R263). -/
def bankOwner (s : State) (b : Nat) : Option Nat := ownerBy s fun k => inSet k.galBanks b

/-- The claim that owns DRAM region `r` (R248). -/
def regionOwner (s : State) (r : Nat) : Option Nat := ownerBy s fun k => inSet k.dram r

/-- The claim whose accesses an engine makes (R290). -/
def engineClaim (s : State) : Engine → Option Nat
  | .sequencer c | .matrix c | .dressing c | .coreMover c _ | .netPort c => coreOwner s c
  | .hubMover n => ownerBy s fun k => inSet k.hubMovers n
  | .collMover n => ownerBy s fun k => inSet k.collMovers n
  | _ => none

/-- Whether claim `k` owns tally `n` (R524: units of 1,024). -/
def ownsTally (s : State) (k n : Nat) : Bool :=
  let q := claimAt s k
  q.created && 1024 * q.tallyBase ≤ n && n < 1024 * (q.tallyBase + q.tallyUnits)

/-- Whether claim `k` owns conveyor `n` (units of 8). -/
def ownsConveyor (s : State) (k n : Nat) : Bool :=
  let q := claimAt s k
  q.created && 8 * q.convBase ≤ n && n < 8 * (q.convBase + q.convUnits)

/-- Whether claim `k` owns turn counter `t`. -/
def ownsTurn (s : State) (k t : Nat) : Bool :=
  let q := claimAt s k
  q.created && q.turnBase ≤ t && t < q.turnBase + q.turnCount

/-- Whether claim `k` owns window `w`. -/
def ownsWindow (s : State) (k w : Nat) : Bool :=
  let q := claimAt s k
  q.created && q.winBase ≤ w && w < q.winBase + q.winCount

/-- The cores of a set of quads, in ascending global id. -/
def coresOf (quads : Nat) : List Nat := (upFrom 0 128).filter fun c => inSet quads (quadOf c)

/-- The units of a set, in ascending order, among the first `n`. -/
def unitsOf (n set : Nat) : List Nat := (upFrom 0 n).filter fun i => inSet set i

/-- Whether a live task of claim `k` runs: started, and no fault recorded (R397: its engines then issue nothing). -/
def taskLive (s : State) (k : Nat) : Bool :=
  match (claimAt s k).task with
  | some t => t.fault.isNone
  | none => false

/-- Whether a task runs on core `c` (R258, R280): its owner has a task. -/
def taskOn (s : State) (c : Nat) : Bool :=
  match coreOwner s c with
  | some k => (claimAt s k).task.isSome
  | none => false

/-- Whether an engine may issue: its claim's task is live. -/
def engineLive (s : State) (e : Engine) : Bool :=
  match engineClaim s e with
  | some k => taskLive s k
  | none => false

/-! ### Faults (R397, R398) -/

/-- Record a fault with the task of claim `k`: the first is kept, further ones are counted (R398, R540). -/
def taskFaultFull (k : Nat) (f : TaskFault) (s : State) : State :=
  modClaim s k fun c => match c.task with
    | some t => match t.fault with
      | none => { c with task := some { t with fault := some f } }
      | some _ => { c with task := some { t with others := satAdd 255 t.others 1 } }
    | none => c

/-! ### Counting and logging errors (R631, R659, R660) -/

def modRas (s : State) (f : RasState → RasState) : State := { s with ras := f s.ras }

/-- The kinds of log entry that are copied to the persistent log (R660). -/
def persistentKind (k : Nat) : Bool := k != 16

/-- Write one entry to the log ring of 256 entries (R660). -/
def addLog (e : LogEntry) (s : State) : State :=
  let x := { e with time := s.now, boot := s.ras.boots % 65536 }
  modRas s fun r =>
    { r with
      log := (x :: r.log).take 256
      logTotal := wrapAdd 32 r.logTotal 1
      unsaved := if persistentKind x.kind then r.unsaved ++ [x] else r.unsaved }

/-- Count an event of memory class `k` (R659). -/
def countErr (k : Nat) (f : CeCount → CeCount) (s : State) : State :=
  modRas s fun r => { r with counts := tmod {} r.counts k f }

/-- A corrected error of memory class `k` (R631). -/
def noteCe (k : Nat) (s : State) : State :=
  let s1 := countErr k (fun c => { c with corrected := wrapAdd 32 c.corrected 1 }) s
  modRas s1 fun r => { r with ce := true }

/-- The memory class of a MEM_UE reason; a poisoned word counts with the memory its address names (R659). -/
def ueClass (reason : Nat) (address : W64) : Option Nat :=
  match reason with
  | 1 => some 0 | 2 => some 1 | 3 => some 2 | 4 => some 3 | 6 => some 4 | 7 => some 5 | 8 => some 6 | 10 => some 7
  | 9 => some (if fieldOf address 63 60 = 0 then 1 else if fieldOf address 63 60 = 1 then 3 else 6)
  | _ => none

/-- What a fault leaves in the Errors and RAS block, beside the task's record (R637, R659, R660). -/
def noteFault (k : Option Nat) (e : Engine) (i : FaultInfo) (s : State) : State :=
  let entry (kind : Nat) : LogEntry :=
    { kind := kind, fault := faultCode i.name, reason := i.reason, core := engineCore e, claim := k
      unit := engineUnit e, address := i.address, cls := (ueClass i.reason i.address).getD 0
      detail := Config.freeDetail s.draws &&& 0xFFFFFFFFFFFF }
  match i.name with
  | .memUe =>
    let s1 := match ueClass i.reason i.address with
      | some c => countErr c (fun x => { x with ue := satAdd 0xFFFF x.ue 1 }) s
      | none => s
    addLog (entry (if i.reason = 5 then 6 else 2)) { (modRas s1 fun r => { r with ue := true }) with draws := s.draws + 1 }
  | .tileCrc => addLog (entry 4) { (modRas s fun r => { r with crc := true }) with draws := s.draws + 1 }
  | .checkMismatch => addLog { entry (if i.reason = 1 then 5 else 6) with detail := 0 } s
  | .sumpResidue => addLog { entry 6 with detail := 0 } s
  | .collResidue => addLog { entry 6 with detail := 0 } s
  | _ => s

/-- A fault of an engine aborts the task of its claim (R397). -/
def raiseFor (k : Nat) (e : Engine) (i : FaultInfo) (s : State) : State :=
  taskFaultFull k { info := i, engine := engineCode e, core := engineCore e, unit := engineUnit e }
    (noteFault (some k) e i s)

/-- A fault of an engine, recorded with the task of the claim that the engine works for. -/
def raise (e : Engine) (i : FaultInfo) (s : State) : State :=
  match engineClaim s e with
  | some k => raiseFor k e i s
  | none => s

/-! ### Faults that coincide (R365, R398, R402) -/

/-- The task of claim `k` with its recorded fault replaced. -/
def setTaskFault (k : Nat) (f : Option TaskFault) (s : State) : State :=
  modClaim s k fun c => { c with task := c.task.map fun t => { t with fault := f } }

/-- The fault registers of claim `k`'s cores and hub movers as `u` has them. -/
def keepFaults (k : Nat) (u s : State) : State :=
  let cores := (coresOf (claimAt s k).quads).foldl (fun t c =>
    let x := coreAt u c
    modCore t c fun y => { y with
      seq := { y.seq with fault := x.seq.fault }
      mat := { y.mat with chk := x.mat.chk, fenced := x.mat.fenced }
      drs := { y.drs with fault := x.drs.fault }
      att := { y.att with fault := x.att.fault }
      m0 := { y.m0 with fault := x.m0.fault, stopped := x.m0.stopped }
      m1 := { y.m1 with fault := x.m1.fault, stopped := x.m1.stopped }
      net := { y.net with fault := x.net.fault }
      sync := { y.sync with fault := x.sync.fault }
      bench := { y.bench with fault := x.bench.fault } }) s
  (unitsOf 16 (claimAt s k).hubMovers).foldl (fun t n =>
    let x := tget {} u.hubMovers n
    { t with hubMovers := tmod {} t.hubMovers n fun y => { y with fault := x.fault, stopped := x.stopped } }) cores

/-- Which of two coinciding faults the record names: within one core the first in the order sequencer, matrix unit, dressing
unit, M0, M1, net port; else the one that was recorded first (R365, R398). -/
def firstFault (x y : TaskFault) : TaskFault :=
  if x.core = y.core && x.engine < 6 && y.engine < x.engine then y else x

/-- A second engine's fault beside the first: its registers hold it, and the record counts it. -/
def addCoinciding (k : Nat) (t : Task) (x y : TaskFault) (u s : State) : State :=
  if (x.engine = y.engine && x.core = y.core && x.unit = y.unit) || t.coincided.contains (y.engine, y.core, y.unit) then s
  else modClaim (keepFaults k u s) k fun c => { c with task := some { t with
    fault := some (firstFault x y), others := satAdd 255 t.others 1
    coincided := (y.engine, y.core, y.unit) :: t.coincided } }

/-- What an engine of a claim does. Between a fault of the task and its abort an engine goes on with nothing (R397), but a fault
that it would raise coincides with the first and is recorded too (R365, R398, R402; DESIGN CHOICE, log entry 135). -/
def coincide (e : Engine) (f : State → State) (s : State) : State :=
  match engineClaim s e with
  | none => f s
  | some k => match (claimAt s k).task with
    | none => f s
    | some t => match t.fault with
      | none => f s
      | some x =>
        let u := f (setTaskFault k none s)
        match (claimAt u k).task with
        | some v => match v.fault with
          | some y => addCoinciding k t x y u s
          | none => s
        | none => s

/-- The next free value's number, and the state that has drawn it. -/
def draw (s : State) : Nat × State := (s.draws, { s with draws := s.draws + 1 })

/-! ### Benches (R244, R245, R252) -/

def benchSize : Nat := 0x800000
def instrBase : Nat := 0x7E0000
def galSize : Nat := 0x18000000
def sliceSize : Nat := 0x3000000
def galBankSize : Nat := 0xC0000
def dramSize : Nat := 144000000000
def regionSize : Nat := 640000000

/-- The bank of a bench offset (R244). -/
def benchBank (o : Nat) : Nat := o / 0x80000
/-- The slot of a bench offset (R244). -/
def slotOf (o : Nat) : Nat := o / 1024
/-- The global bank of a gallery offset (R246). -/
def galBank (o : Nat) : Nat := o / galBankSize
/-- The slice of a gallery offset (R246). -/
def galSlice (o : Nat) : Nat := o / sliceSize
/-- The region of a DRAM offset (R248). -/
def dramRegion (o : Nat) : Nat := o / regionSize
/-- The stack of a DRAM offset (R247). -/
def dramStack (o : Nat) : Nat := (o / 4096) % 2

/-- The numbers of the units of size `u` that a range of `n` bytes from `o` touches. -/
def unitsIn (u o n : Nat) : List Nat := if n = 0 then [] else upFrom (o / u) ((o + n - 1) / u + 1 - o / u)

/-- The words of size `u` that a range covers whole (R635: a write of a whole word replaces poison). -/
def wholeIn (u o n : Nat) : List Nat := (unitsIn u o n).filter fun w => o ≤ u * w && u * w + u ≤ o + n

/-- The table with every key of a list set to the default. -/
def clearAll {α : Type} (keys : List Nat) (m : Table α) : Table α := m.filter fun e => !(keys.contains e.1)

/-- `n` bytes of core `c`'s bench. -/
def benchBytes (s : State) (c o n : Nat) : List Byte := tgetN 0 (coreAt s c).bench.bytes o n

/-- One byte of core `c`'s bench. -/
def benchByte (s : State) (c o : Nat) : Byte := tget 0 (coreAt s c).bench.bytes o

/-- A bench with bytes written: a write clears the seals of the tiles it touches (R638) and the poison of the words it
covers whole (R635). -/
def writtenBench (b : BenchState) (o : Nat) (data : List Byte) : BenchState :=
  { b with
    bytes := tputN 0 b.bytes o data
    seals := clearAll (unitsIn 4096 o data.length) b.seals
    poison := clearAll (wholeIn 8 o data.length) b.poison }

/-- Bytes written to core `c`'s bench. -/
def writeBench (s : State) (c o : Nat) (data : List Byte) : State := modBench s c fun b => writtenBench b o data

/-- Whether a slot's tag is full (R293). -/
def tagFull (s : State) (c slot : Nat) : Bool := tget false (coreAt s c).bench.tags slot

/-- A slot's tag set. -/
def setTag (s : State) (c slot : Nat) (full : Bool) : State :=
  modBench s c fun b => { b with tags := tput false b.tags slot full }

/-- The tags of several slots set. -/
def setTags (s : State) (c : Nat) (full : Bool) : List Nat → State
  | [] => s
  | x :: xs => setTags (setTag s c x full) c full xs

/-- Whether any word of a range of a table of poisoned words is poisoned (R635). -/
def anyPoison (u : Nat) (m : Table Bool) (o n : Nat) : Bool :=
  m.any fun e => e.2 && o / u ≤ e.1 && u * e.1 < o + n

/-- What stands before an access: it may go, it waits, or it raises a fault. -/
inductive Gate where
  | go
  | wait
  | err (f : FaultInfo)
  deriving DecidableEq, Repr

/-- The first gate that is not open. -/
def Gate.and : Gate → Gate → Gate
  | .go, g => g
  | g, _ => g

/-- The place address of a bench offset (R9). -/
def benchPlace (c o : Nat) : W64 := BitVec.ofNat 64 (c * 2 ^ 52 + o)
/-- The place address of a gallery offset. -/
def galPlace (o : Nat) : W64 := BitVec.ofNat 64 (2 ^ 60 + o)
/-- The place address of a DRAM offset. -/
def dramPlace (o : Nat) : W64 := BitVec.ofNat 64 (2 * 2 ^ 60 + o)

/-- The gate of an access to a bench (R243, R258, R282, R283, R635): within the bench, outside the instruction region
while a task runs, in powered banks; a bank under power-up waits; a read of a poisoned word raises MEM_UE. -/
def benchGate (s : State) (c o n : Nat) (isRead : Bool) : Gate :=
  let b := (coreAt s c).bench
  if benchSize < o + n then .err { name := .addrFault, reason := 2, address := benchPlace c o }
  else if n = 0 then .go
  else if instrBase < o + n && taskOn s c then .err { name := .benchClash, address := benchPlace c o }
  else if (unitsIn 0x80000 o n).any (fun k => inSet b.off k) then
    .err { name := .benchOff, address := benchPlace c o }
  else if (unitsIn 0x80000 o n).any (fun k => !(inSet b.ready k)) then .wait
  else if isRead && anyPoison 8 b.poison o n then
    .err { name := .memUe, reason := 9, address := benchPlace c o }
  else .go

/-- Record a bench fault (R288): the fields hold the first fault until the flag is cleared. -/
def recordBenchFault (c code bank pa pb sa sb : Nat) (s : State) : State :=
  modBench s c fun b =>
    { b with fault := if b.fault.fault then b.fault else ⟨true, code, bank, pa, pb, sa, sb⟩ }

/-- The port number of CORE_BENCH_FAULT (R288). -/
def portNo : Port → Nat
  | .pArray => 0 | .pDress => 1 | .pMove => 2 | .pNet => 3

/-- Errors met when a word is read or scrubbed are counted per memory class k (R659); see `Ras`. -/
def benchFaultCode : FaultName → Nat
  | .benchClash => 2
  | .benchOff => 3
  | _ => 0

/-- A gate's fault, raised by an engine that reaches a bench through a port: bench faults are recorded in
CORE_BENCH_FAULT too. -/
def raiseBench (e : Engine) (p : Port) (c o : Nat) (f : FaultInfo) (s : State) : State :=
  let s1 := if benchFaultCode f.name = 0 then s
    else recordBenchFault c (benchFaultCode f.name) (benchBank o) (portNo p) (portNo p) (slotOf o) (slotOf o) s
  raise e f s1

/-- One access more issued by a port (CORE_BENCH_PORT_BEATS, R288). -/
def countPort (c : Nat) (p : Port) (n : Nat) (s : State) : State :=
  modBench s c fun b => { b with portBeats := tmod 0 b.portBeats (portNo p) (fun v => wrapAdd 64 v n) }

/-- The lines of 512 B that a range touches: one access each (R252). -/
def linesIn (o n : Nat) : Nat := (unitsIn 512 o n).length

/-! ### Gallery, DRAM and host memory -/

def galBytes (s : State) (o n : Nat) : List Byte := tgetN 0 s.gallery.bytes o n
def galByte (s : State) (o : Nat) : Byte := tget 0 s.gallery.bytes o

def writeGal (s : State) (o : Nat) (data : List Byte) : State :=
  { s with gallery := { s.gallery with
      bytes := tputN 0 s.gallery.bytes o data
      poison := clearAll (wholeIn 8 o data.length) s.gallery.poison } }

/-- Gallery bytes zeroed; zero-fill clears poison (R273, R635). -/
def zeroGal (s : State) (o n : Nat) : State :=
  { s with gallery := { s.gallery with
      bytes := tfill 0 s.gallery.bytes o n 0
      poison := s.gallery.poison.filter fun e => !(o ≤ 8 * e.1 && 8 * e.1 < o + n) } }

def dramBytes (s : State) (o n : Nat) : List Byte := tgetN 0 s.dram.bytes o n
def dramByte (s : State) (o : Nat) : Byte := tget 0 s.dram.bytes o

def writeDram (s : State) (o : Nat) (data : List Byte) : State :=
  { s with dram := { s.dram with
      bytes := tputN 0 s.dram.bytes o data
      poison := clearAll (wholeIn 64 o data.length) s.dram.poison } }

def zeroDram (s : State) (o n : Nat) : State :=
  { s with dram := { s.dram with
      bytes := tfill 0 s.dram.bytes o n 0
      poison := s.dram.poison.filter fun e => !(o ≤ 64 * e.1 && 64 * e.1 < o + n) } }

/-- The gate of a gallery access by claim `k` (R243, R263, R282, R283). -/
def galGate (s : State) (k : Option Nat) (o n : Nat) (isRead : Bool) : Gate :=
  let g := s.gallery
  let a := galPlace o
  if galSize < o + n || galSize ≤ o then .err { name := .addrFault, reason := 2, address := a }
  else if (unitsIn galBankSize o n).any (fun b => bankOwner s b != k || k.isNone) then
    .err { name := .addrFault, reason := 4, address := a }
  else if (unitsIn galBankSize o n).any (fun b => inSet g.off b) then .err { name := .galOff, address := a }
  else if (unitsIn galBankSize o n).any (fun b => !(inSet g.ready b)) then .wait
  else if isRead && anyPoison 8 g.poison o n then .err { name := .memUe, reason := 9, address := a }
  else .go

/-- The gate of a DRAM access by claim `k`; a partial write reads its unit first (R277, R632); after a stack
failure no DRAM can be used (R654). -/
def dramGate (s : State) (k : Option Nat) (o n : Nat) (isRead : Bool) : Gate :=
  let d := s.dram
  let a := dramPlace o
  let partly := (unitsIn 64 o n).filter fun u => !((wholeIn 64 o n).contains u)
  if dramSize < o + n || dramSize ≤ o then .err { name := .addrFault, reason := 2, address := a }
  else if (unitsIn regionSize o n).any (fun r => regionOwner s r != k || k.isNone) then
    .err { name := .addrFault, reason := 4, address := a }
  else if s.ras.stacksFailed ≠ 0 then .err { name := .memUe, reason := 8, address := a }
  else if (unitsIn regionSize o n).any (fun r => inSet d.off r) then .err { name := .dramOff, address := a }
  else if (unitsIn regionSize o n).any (fun r => !(inSet d.ready r)) then .wait
  else if isRead && anyPoison 64 d.poison o n then .err { name := .memUe, reason := 9, address := a }
  else if !isRead && partly.any (fun u => tget false d.poison u) then
    .err { name := .memUe, reason := 9, address := a }
  else .go

/-- The key of a host byte: function and IO virtual address (R521). -/
def hostKey (f o : Nat) : Nat := f * 2 ^ 52 + o
def hostBytes (s : State) (f o n : Nat) : List Byte := tgetN 0 s.host.bytes (hostKey f o) n
def hostByte (s : State) (f o : Nat) : Byte := tget 0 s.host.bytes (hostKey f o)
def writeHost (s : State) (f o : Nat) (data : List Byte) : State :=
  { s with host := { s.host with bytes := tputN 0 s.host.bytes (hostKey f o) data } }

/-- Whether the host translates every page of a range for function `f` (R522). -/
def hostMapped (s : State) (f o n : Nat) : Bool :=
  !(s.host.unmapped.any fun r => r.1 == f && (unitsIn 4096 o n).any fun p => r.2.1 ≤ p && p < r.2.1 + r.2.2)

/-- The function a claim's host accesses use (R521, R546): none when it has lost its function. -/
def hostFn (s : State) (k : Nat) : Option Nat :=
  let q := claimAt s k
  if q.takenOver then q.standby else if q.unbound then none else some q.fn

/-- Whether host accesses of a claim travel to the group host port module (R548). -/
def hostIsAway (s : State) (k : Nat) : Bool := (claimAt s k).group && s.group.stage ≠ .none && s.group.hostRank ≠ s.group.rank

/-- Put an MSI-X message of a claim's vector on the link (R541). -/
def signal (s : State) (k vector : Nat) : State :=
  { s with host := { s.host with msix := (k, vector) :: s.host.msix } }

/-! ### Place addresses (R9, R10, R242, R243) -/

/-- The fields of a place address. -/
structure Place where
  space : Nat
  sel : Nat
  off : Nat
  deriving DecidableEq, Repr

def placeOf (w : W64) : Place := ⟨fieldOf w 63 60, fieldOf w 59 52, fieldOf w 51 0⟩

/-- The size of a space (R242); host and window offsets are bounded elsewhere. -/
def spaceSize (sp : Nat) : Nat :=
  match sp with
  | 0 => benchSize | 1 => galSize | 2 => dramSize | 5 => 0x4000000 | 4 => 2 ^ 48 | _ => 2 ^ 52

/-- The ADDR_FAULT reason of an invalid place address, if any: 1 reserved space or nonzero selector, 2 outside the space
(R10, R243, R403). R10, R243 and R403 give no reason to a bench selector of 128 to 255, which names no core; the model gives
reason 1 (DESIGN CHOICE, log entry 120). -/
def placeFault (p : Place) : Option Nat :=
  if 6 ≤ p.space then some 1
  else if p.space = 0 then (if 128 ≤ p.sel then some 1 else if benchSize ≤ p.off then some 2 else none)
  else if p.space = 4 then (if 2 ^ 48 ≤ p.off then some 2 else none)
  else if p.sel ≠ 0 then some 1
  else if spaceSize p.space ≤ p.off then some 2
  else none

end Sys2Proof.Machine
end

