-- ==== Sys2Proof/Machine/SyncOps.lean ====
section
/-! DEFINITION. The sequencer's advance (R343, R344), tags (R293 to R297), tallies (R299 to R303) and conveyors
(R304 to R306) at their homes. -/

namespace Sys2Proof.Machine

/-! ### The sequencer's advance -/

/-- General register `r` of a core. -/
def regAt (s : State) (c r : Nat) : W64 := tget 0 (coreAt s c).seq.regs r

/-- A general register written. -/
def setReg (s : State) (c r : Nat) (v : W64) : State := modSeq s c fun k => { k with regs := tput 0 k.regs r v }

/-- Predicate `p` of a core. -/
def predAt (s : State) (c p : Nat) : Pred := tget 0 (coreAt s c).seq.preds p

def setPred (s : State) (c p : Nat) (v : Pred) : State := modSeq s c fun k => { k with preds := tput 0 k.preds p v }

/-- The instruction word at index `i` (R333). -/
def instrAt (s : State) (c i : Nat) : W64 := BitVec.ofNat 64 (leNat (benchBytes s c (instrBase + 8 * i) 8))

/-- The loop procedure of R344 after the instruction at index `i`: the active loops left, the counters, and where to go
back to, if a loop goes back. -/
def loopEnd (i : Nat) : List Nat → List Nat → Table LoopCtr → List Nat × Table LoopCtr × Option Nat
  | [], kept, ls => (kept.reverse, ls, none)
  | l :: rest, kept, ls =>
    let x := tget {} ls l
    if x.stop = i then
      if 1 < x.remaining then
        (kept.reverse ++ l :: rest, tput {} ls l { x with remaining := x.remaining - 1 }, some x.start)
      else loopEnd i rest kept ls
    else loopEnd i rest (l :: kept) ls

/-- The last instruction index (R332, R343). -/
def lastIndex : Nat := 16383

/-- Whether the instruction at the pc can be followed in sequence (R343): at the last index only a loop can go back. -/
def canFollow (k : SeqState) : Bool := k.pc < lastIndex || (loopEnd k.pc k.order [] k.loops).2.2.isSome

/-- The sequencer after the instruction at the pc retires and is followed in sequence (R344). -/
def followed (k : SeqState) : SeqState :=
  let r := loopEnd k.pc k.order [] k.loops
  { k with order := r.1, loops := r.2.1, pc := r.2.2.getD (k.pc + 1) }

/-- The waiting instruction of a core completes: the sequencer runs on. -/
def completeWait (s : State) (c : Nat) : State := modSeq s c fun k => { followed k with run := .running, wait := none }

/-- Whether the beats of core `c` run: the core in L0, its die up and in L0 (R594, R595). -/
def beatsRun (s : State) (c : Nat) : Bool :=
  (coreAt s c).pwr.state == 0 && (tget {} s.dies (dieOf c)).present && decide ((tget {} s.dies (dieOf c)).mode = .run)

/-- Whether a unit of core `c` may start or go on with an item: its beats run and its task is live. -/
def unitLive (s : State) (c : Nat) : Bool :=
  beatsRun s c && (match coreOwner s c with
    | some k => taskLive s k
    | none => false)

/-- Record a sequencer fault (R364, R372): the first is kept until cleared; the sequencer stops. -/
def seqFault (s : State) (c code reason : Nat) (n : FaultName) : State :=
  let w := instrAt s c (coreAt s c).seq.pc
  let s1 := modSeq s c fun k =>
    { k with run := .faulted, wait := none
             fault := if k.fault.fault then k.fault else ⟨true, code, reason, k.pc, w⟩ }
  raise (.sequencer (Fin.ofNat 128 c)) { name := n, reason := reason } s1

def seqIllegal (s : State) (c reason : Nat) : State := seqFault s c 1 reason .seqIllegal
def seqPcFault (s : State) (c : Nat) : State := seqFault s c 2 0 .seqPc
def seqRange (s : State) (c reason : Nat) : State := seqFault s c 3 reason .seqRange
def seqAlign (s : State) (c : Nat) : State := seqFault s c 4 0 .seqAlign

/-- A fault of another kind that the sequencer raises stops it too. -/
def seqOther (s : State) (c : Nat) (i : FaultInfo) : State :=
  raise (.sequencer (Fin.ofNat 128 c)) i (modSeq s c fun k => { k with run := .faulted, wait := none })

/-- Record SYNC_RANGE, DEADLINE_MISS or WATCHDOG_STALL in CORE_SYNC_FAULT (R331). -/
def recordSync (s : State) (c code engine kind object cls : Nat) : State :=
  modSync s c fun y => { y with fault := if y.fault.fault then y.fault else ⟨true, code, engine, kind, object, cls⟩ }

/-- SYNC_RANGE of the sequencer (R303). -/
def seqSyncRange (s : State) (c kind object : Nat) : State :=
  seqOther (recordSync s c 2 0 kind object 0) c { name := .syncRange }

/-! ### Tallies -/

def tallyAt (s : State) (n : Nat) : W32 := tget 0 s.tallies n

/-- A tally value has reached a target (R300). -/
def reached (v t : W32) : Bool := decide ((v - t).toNat < 2 ^ 31)

/-- The home die of a tally and of a conveyor (R40). -/
def tallyHome (n : Nat) : Nat := n / 16384
def convHome (n : Nat) : Nat := n / 64

/-- The credit wait of a mover's next block is met. -/
def grantCredit (v : MoverState) : MoverState :=
  { v with lists := match v.lists with
      | l :: rest => { l with granted := true } :: rest
      | [] => [] }

/-- An access of an engine of another module has been performed: a response with `n` bytes of data is due (R410, R426). -/
def owesReply (e : Engine) (n : Nat) (s : State) : State :=
  match e with
  | .remote r _ => { s with fabric := { s.fabric with replies := s.fabric.replies ++ [(r.val, n)] } }
  | _ => s

/-- Release a waiter whose wait is met: a sequencer completes its instruction; other engines go on when they present their
item again. -/
def releaseWaiter (w : Waiter) (s : State) : State :=
  match w with
  | .mover (.core c m1) =>
    modCore s c fun k => if m1 then { k with m1 := grantCredit k.m1 } else { k with m0 := grantCredit k.m0 }
  | .mover (.hub n) => { s with hubMovers := tput {} s.hubMovers n.val (grantCredit (tget {} s.hubMovers n.val)) }
  | .seq c => if (coreAt s c).seq.run == .waiting then completeWait s c else s
  | .closing c => modDrs s c fun d => { d with closeWait := false }
  | .net e => owesReply e 0 s
  | .coll _ _ => s

def releaseAll : List WaitEntry → State → State
  | [], s => s
  | w :: ws, s => releaseAll ws (releaseWaiter w.who s)

/-- Write a tally and release every wait that is now met (R301, R302). -/
def tallyWrite (s : State) (n : Nat) (v : W32) : State :=
  let met := s.waits.filter fun w => w.tally == n && reached v w.target
  let left := s.waits.filter fun w => !(w.tally == n && reached v w.target)
  releaseAll met { s with tallies := tput 0 s.tallies n v, waits := left }

/-- Add to a tally (R299). -/
def tallyAdd (s : State) (n : Nat) (d : W32) : State := tallyWrite s n (tallyAt s n + d)

/-- What a request at a home meets. -/
inductive Served where
  | done | waits | refused
  deriving DecidableEq, Repr

/-- The backoff list with a refused request, its first delay 2 beats (R302). -/
def backOff (s : State) (r : Refused) (delay : Nat) : State := { s with backoffs := s.backoffs ++ [⟨r, delay⟩] }

/-- A wait at a tally home: met, entered, or refused when the home's 256 entries are in use (R302). -/
def tallyWait (s : State) (w : WaitEntry) : Served × State :=
  if reached (tallyAt s w.tally) w.target then (.done, s)
  else if (s.waits.filter fun x => tallyHome x.tally == tallyHome w.tally).length < 256 then
    (.waits, { s with waits := s.waits ++ [w] })
  else (.refused, s)

/-! ### Conveyors -/

def conveyorAt (s : State) (n : Nat) : Conveyor := tget {} s.conveyors n
def setConveyor (s : State) (n : Nat) (v : Conveyor) : State := { s with conveyors := tput {} s.conveyors n v }

/-- A popped handle reaches its popper: a sequencer's register pair (R357). -/
def deliverPop (p : WaitingPop) (h : Handle) (s : State) : State :=
  match p.who with
  | .seq c => completeWait (setReg (setReg s c p.rd h.place) c (p.rd + 1) h.info) c
  | _ => s

/-- Serve a conveyor's waiting push and pop while they can be served; a pop is performed before a push (R330). -/
def serveConveyor (n : Nat) : Nat → State → State
  | 0, s => s
  | fuel + 1, s =>
    let v := conveyorAt s n
    match v.pop, v.handles with
    | some p, h :: hs => serveConveyor n fuel (deliverPop p h (setConveyor s n { v with handles := hs, pop := none }))
    | _, _ =>
      match v.push with
      | some p =>
        if v.handles.length < v.depth then
          serveConveyor n fuel
            (releaseWaiter p.who (setConveyor s n { v with handles := v.handles ++ [p.handle], push := none }))
        else s
      | none => s

/-- A push at the home (R304, R306). -/
def conveyorPush (s : State) (n : Nat) (p : WaitingPush) : Served × State :=
  let v := conveyorAt s n
  if v.handles.length < v.depth then
    (.done, serveConveyor n 4 (setConveyor s n { v with handles := v.handles ++ [p.handle] }))
  else if v.push.isNone then (.waits, setConveyor s n { v with push := some p })
  else (.refused, s)

/-- A pop at the home: the handle when there is one (R304, R306). -/
def conveyorPop (s : State) (n : Nat) (p : WaitingPop) : Served × State :=
  let v := conveyorAt s n
  match v.handles with
  | h :: hs => (.done, serveConveyor n 4 (deliverPop p h (setConveyor s n { v with handles := hs })))
  | [] => if v.pop.isNone then (.waits, setConveyor s n { v with pop := some p }) else (.refused, s)

/-- A reset at the home: handles discarded, depth set; a waiting push or pop waits against the new state (R304). -/
def conveyorReset (s : State) (n depth : Nat) : State :=
  serveConveyor n 4 (setConveyor s n { conveyorAt s n with handles := [], depth := depth })

/-! ### Tags (R293 to R297) -/

/-- Whether a tagged access of a mark must wait at a slot: reads wait while it is empty, writes while it is full. -/
def tagBlocks (s : State) (c slot : Nat) (isWrite : Bool) : Bool :=
  if isWrite then tagFull s c slot else !(tagFull s c slot)

/-- Whether any of the slots of a range blocks a tagged access. -/
def rangeBlocks (s : State) (c o n : Nat) (isWrite : Bool) : Option Nat :=
  firstSome (fun x => if tagBlocks s c x isWrite then some x else none) (unitsIn 1024 o n)

/-- The tag after a marked access: the fill mark fills, the release mark empties (R293). -/
def tagAfter (s : State) (c o n : Nat) (mark : TagMark) (isWrite : Bool) : State :=
  match mark with
  | .pass => setTags s c isWrite (unitsIn 1024 o n)
  | _ => s

/-- Bytes of a held access; an item's stands for its slot. -/
def heldLen : HeldOp → Nat
  | .access op => (match op with | .read n => n | .write d => d.length)
  | .part _ _ => 1
  | .load _ n => n
  | .store d => d.length
  | .item => 1

/-- The slots of a held access. -/
def heldSlots (a : HeldAccess) : List Nat := unitsIn 1024 a.offset (heldLen a.op)

/-- Whether an access in a wait register stands before an access to slots in one direction (R297). -/
def sameSide (isWrite : Bool) (slots : List Nat) (a : HeldAccess) : Bool :=
  a.isWrite == isWrite && (heldSlots a).any fun x => slots.contains x

/-- Whether two accesses of one engine keep their order at a port (R295). An access from another module names its rank and
claim and not its engine; it keeps behind a held one of that rank and claim on a common slot only (DESIGN CHOICE, log entry
119). -/
def sameSender (e : Engine) (slots : List Nat) (a : HeldAccess) : Bool :=
  a.eng == e && (match e with
    | .remote _ _ => (heldSlots a).any fun x => slots.contains x
    | _ => true)

/-- Whether an access that is now presented stands behind earlier ones (R291, R295, R297): one of its engine in a wait
register of its port, one of its engine to a common byte that was returned, or, for a tagged access, one of the same
direction on a slot of its own. -/
def accessBehind (s : State) (c : Nat) (e : Engine) (p : Port) (o n : Nat) (isWrite : Bool) (mark : TagMark) : Bool :=
  (coreAt s c).bench.held.any (fun a => (sameSender e (unitsIn 1024 o n) a && a.port == p) ||
    (mark != .plain && sameSide isWrite (unitsIn 1024 o n) a)) ||
  s.backoffs.any fun b => match b.req with
    | .tagged d a => d.val == c && a.eng == e && a.op != .item && a.offset < o + n && o < a.offset + heldLen a.op
    | _ => false

/-- Whether a tagged access to a range must wait: its tag, or an earlier access (R293, R295, R297). -/
def accessWaits (s : State) (c : Nat) (e : Engine) (p : Port) (o n : Nat) (isWrite : Bool) (mark : TagMark) : Bool :=
  accessBehind s c e p o n isWrite mark || (mark != .plain && (rangeBlocks s c o n isWrite).isSome)

/-- Whether an engine's access stands in a wait register of some core, or waits in a backoff. -/
def accessOut (s : State) (e : Engine) : Bool :=
  (s.cores.any fun k => k.2.bench.held.any fun a => a.eng == e) ||
    s.backoffs.any fun b => match b.req with
      | .tagged _ a => a.eng == e
      | _ => false

/-- Whether a conveyor push of a net port, or of another engine behind a window, waits at its home or in a backoff. -/
def pushOut (s : State) (e : Engine) : Bool :=
  (s.conveyors.any fun v => v.2.push.any fun p => p.who == .net e) ||
    s.backoffs.any fun b => match b.req with
      | .push _ p => p.who == .net e
      | _ => false

/-- The engine of a request that waits for its turn. -/
def TurnReq.engine : TurnReq → Engine
  | .request r _ => r.engine
  | .item e _ => e

/-- Whether a request of an engine waits at a port of the junction or of a slice, in a turn hold, or in a backoff. -/
def requestOut (s : State) (e : Engine) : Bool :=
  (s.fabric.tables.any fun t => t.2.pending.any fun r => r.eng == e) ||
    (s.fabric.slices.any fun t => t.2.pending.any fun r => r.eng == e) ||
    (s.gallery.turns.any fun t => t.2.hold.any fun r => r.engine == e) ||
    s.backoffs.any fun b => match b.req with
      | .junction _ r => r.eng == e
      | .accumulate r => r.engine == e
      | _ => false

/-- Whether a request of an engine to another module is not acknowledged yet. -/
def packetOut (s : State) (e : Engine) : Bool := s.fabric.packets.any fun p => p.eng == some e

/-- Whether anything that an engine presented is not performed yet (R309, R316). -/
def engineOut (s : State) (e : Engine) : Bool := accessOut s e || pushOut s e || requestOut s e || packetOut s e

/-- Whether an access of an engine through one window is not performed yet (R314). -/
def windowOut (s : State) (e : Engine) (rank w : Nat) : Bool :=
  let mine (a : HeldAccess) : Bool := a.eng == e && a.win == some (rank, w)
  (s.cores.any fun k => k.2.bench.held.any mine) ||
    (s.backoffs.any fun b => match b.req with
      | .tagged _ a => mine a
      | _ => false) ||
    s.fabric.packets.any fun p => p.eng == some e && p.dest == rank && p.window == w

/-- Whether an access that window `w` of this module accepted is not performed yet (R425). -/
def windowBusy (s : State) (w : Nat) : Bool :=
  let mine (a : HeldAccess) : Bool := a.win.any fun x => x.2 == w
  (s.cores.any fun k => k.2.bench.held.any mine) || s.backoffs.any fun b => match b.req with
    | .tagged _ a => mine a
    | _ => false

/-- The wait registers that a port has, for one engine (R295). -/
def waitRegisters (s : State) (c : Nat) (p : Port) (e : Engine) : Bool :=
  let h := (coreAt s c).bench.held.filter fun a => a.port == p
  match p with
  | .pArray | .pDress => h.isEmpty
  | .pMove => !(h.any fun a => a.eng == e)
  | .pNet => h.length < 8

/-- Whether a port takes a tagged access that must wait: into a wait register, or, on P-net, by returning it to its sender
when all eight are in use (R295, R296). An access that is not taken is not begun; its engine presents it again (DESIGN
CHOICE, log entry 118: R296 names P-net alone). -/
def canHold (s : State) (c : Nat) (p : Port) (e : Engine) : Bool := p == .pNet || waitRegisters s c p e

/-- Hold a tagged access in a wait register of its port; P-net returns it to its sender when all eight are in use
(R295, R296). -/
def holdAccess (s : State) (c : Nat) (a : HeldAccess) : State :=
  let s1 := modSync s c fun y => { y with tagWaits := wrapAdd 32 y.tagWaits 1 }
  if waitRegisters s c a.port a.eng then modBench s1 c fun b => { b with held := b.held ++ [a] }
  else if a.port == .pNet then backOff s1 (.tagged (Fin.ofNat 128 c) a) 2
  else s

end Sys2Proof.Machine
end

