-- ==== Sys2Proof/Machine/Operands.lean ====
section
/-! DEFINITION. Instruction words: rows of the opcode table of R339, reserved codes, RSV bits, and the common way an
instruction issues (R334, R339, R364). -/

namespace Sys2Proof.Machine

/-- The instructions of a core program, one for each sequencer row of the command table. -/
inductive SeqRow where
  | alu | alui | li | load | store | br | loop | jmp | nop | endp | pcmp | plogic | csrr | rdloop
  | mma | mmaR | sload | swap | drain | catt | fill | attend | pass | dot | conv | wld | wst | lane
  | move | moveh | tagFill | tagDrain | tallyAdd | tallyAddFetch | tallySet | tallyRead | twait
  | push | pop | reset | fence | post | rtally | rpush | wfence | cstep | phase | brk
  deriving DecidableEq, Repr

/-- The 6-bit opcode, 8 × class + major (R339). -/
def opcodeOf (w : W64) : Nat := fieldOf w 63 58

/-- Whether an opcode is defined (R339). -/
def opcodeDefined (o : Nat) : Bool :=
  o ≤ 21 || o = 24 || o = 25 || (32 ≤ o && o ≤ 36) || (40 ≤ o && o ≤ 44) || o = 48 || o = 49

/-- The SYS rows by funct (*SYS functs*). -/
def sysRow (f : Nat) : Option SeqRow :=
  match f with
  | 0 => some .nop | 1 => some .endp | 2 => some .pcmp | 3 => some .plogic | 4 => some .csrr | 5 => some .rdloop
  | _ => none

/-- The row an instruction word belongs to; none for a reserved opcode, SYS funct or CONVY op (R339, R357). -/
def rowOf (w : W64) : Option SeqRow :=
  match opcodeOf w with
  | 0 => some .alu | 1 => some .alui | 2 => some .li
  | 3 => if bitOf w 57 then some .store else some .load
  | 4 => some .br | 5 => some .loop | 6 => some .jmp | 7 => sysRow (fieldOf w 57 53)
  | 8 => some .mma | 9 => some .mmaR | 10 => some .sload | 11 => some .swap | 12 => some .drain | 13 => some .catt
  | 14 => some .fill | 15 => some .attend | 16 => some .pass | 17 => some .dot | 18 => some .conv | 19 => some .wld
  | 20 => some .wst | 21 => some .lane | 24 => some .move | 25 => some .moveh
  | 32 => if bitOf w 57 then some .tagDrain else some .tagFill
  | 33 => match fieldOf w 57 56 with
    | 0 => some .tallyAdd | 1 => some .tallyAddFetch | 2 => some .tallySet | _ => some .tallyRead
  | 34 => some .twait
  | 35 => match fieldOf w 57 56 with
    | 0 => some .push | 1 => some .pop | 2 => some .reset | _ => none
  | 36 => some .fence | 40 => some .post | 41 => some .rtally | 42 => some .rpush | 43 => some .wfence
  | 44 => some .cstep | 48 => some .phase | 49 => some .brk
  | _ => none

/-- The lowest bit of the run of named fields that starts at bit 57, and any further fields below it as (high, low)
(R339 and *SYS functs*). -/
def namedFields : SeqRow → List (Nat × Nat)
  | .alu => [(57, 37)]
  | .alui => [(57, 43), (31, 0)]
  | .li => [(57, 52), (31, 0)]
  | .load | .store => [(57, 39), (23, 0)]
  | .br => [(57, 41), (23, 0)]
  | .loop => [(57, 34), (23, 0)]
  | .jmp => [(57, 51), (23, 0)]
  | .nop | .endp => [(57, 53)]
  | .pcmp => [(57, 36)]
  | .plogic => [(57, 42)]
  | .csrr => [(57, 40)]
  | .rdloop => [(57, 46)]
  | .mma => [(57, 0)]
  | .mmaR => [(57, 30), (21, 11), (10, 6)]
  | .sload => [(57, 29)]
  | .swap => []
  | .drain => [(57, 16)]
  | .catt => [(57, 38)]
  | .fill => [(57, 10)]
  | .attend => [(57, 37)]
  | .pass => [(57, 16)]
  | .dot => [(57, 11)]
  | .conv => [(57, 19)]
  | .wld | .wst => [(57, 33)]
  | .lane => [(57, 18)]
  | .move => [(57, 24)]
  | .moveh => [(57, 21)]
  | .tagFill | .tagDrain => [(57, 30)]
  | .tallyAdd | .tallyAddFetch | .tallySet | .tallyRead => [(57, 34), (31, 0)]
  | .twait => [(57, 0)]
  | .push | .pop | .reset => [(57, 32)]
  | .fence => [(57, 52)]
  | .post => [(57, 21)]
  | .rtally => [(57, 21)]
  | .rpush => [(57, 29)]
  | .wfence => [(57, 44)]
  | .cstep => [(57, 41)]
  | .phase => [(57, 54)]
  | .brk => [(57, 42)]

/-- Whether bit `i` lies in one of the fields. -/
def inFields (fs : List (Nat × Nat)) (i : Nat) : Bool := fs.any fun f => f.2 ≤ i && i ≤ f.1

/-- Whether every RSV bit of an instruction is zero (R339). -/
def rsvClear (r : SeqRow) (w : W64) : Bool :=
  (upFrom 0 58).all fun i => inFields (namedFields r) i || !(bitOf w i)

/-- Whether the funct, cond, mark, mode, target and format codes of an instruction are defined (R339, R342, R351,
R354, R700); a reserved one raises SEQ_ILLEGAL, reason 2. -/
def codesDefined (r : SeqRow) (w : W64) : Bool :=
  match r with
  | .alu => fieldOf w 42 37 ≤ 15
  | .alui => fieldOf w 47 43 ≤ 15
  | .load | .store => fieldOf w 54 53 ≤ 2
  | .br => fieldOf w 57 54 ≤ 8
  | .pcmp => 1 ≤ fieldOf w 49 46 && fieldOf w 49 46 ≤ 6
  | .csrr => fieldOf w 47 40 ≤ 3
  | .fill => fieldOf w 57 56 ≤ 2 && fieldOf w 55 53 ≤ 5
  | .conv => fieldOf w 57 54 ≠ 15 && fieldOf w 53 50 ≠ 15
  | .mma | .mmaR => fieldOf w 19 16 ≠ 15 && fieldOf w 15 12 ≠ 15
  | .sload => fieldOf w 45 42 ≠ 15
  | .lane => fieldOf w 57 52 ≤ 14
  | _ => true

/-- Whether an instruction's field values are ones it allows (reason 4 of SEQ_ILLEGAL: R351, R355, R357, R700). -/
def valuesAllowed (r : SeqRow) (w : W64) : Bool :=
  match r with
  | .dot => fieldOf w 49 46 ≤ 8 && fieldOf w 57 50 * fieldOf w 49 46 ≤ 128
  | .conv =>
    fieldOf w 57 54 ≠ 14 && fieldOf w 53 50 ≠ 14 &&
      (!(isBlock (fieldOf w 57 54) || isBlock (fieldOf w 53 50)) || fieldOf w 48 24 % 32 = 0)
  | .lane => !(fieldOf w 57 52 = 13 && bitOf w 24)
  | .reset => 1 ≤ fieldOf w 37 32 && fieldOf w 37 32 ≤ 32
  | .fill => if fieldOf w 57 56 = 2 then fieldOf w 55 53 = 4 else fieldOf w 23 15 = 0
  | _ => true

/-- Whether the register pair or triple an instruction names exists (R340, R700). -/
def pairsExist (r : SeqRow) (w : W64) : Bool :=
  match r with
  | .dot =>
    let rs := fieldOf w 15 11
    if isBlock (fieldOf w 29 26) || isBlock (fieldOf w 25 22) then rs ≤ 29 else rs ≤ 30
  | .conv => !(isBlock (fieldOf w 57 54) || isBlock (fieldOf w 53 50)) || fieldOf w 23 19 ≤ 30
  | .push | .pop => fieldOf w 46 42 ≤ 30
  | .post => fieldOf w 43 39 ≤ 30
  | .rpush => fieldOf w 34 30 ≤ 30
  | _ => true

/-- The reason of SEQ_ILLEGAL that an instruction's word gives, if any (R372): checked in the order of the reasons. -/
def illegalReason (r : SeqRow) (w : W64) : Option Nat :=
  if !(codesDefined r w) then some 2
  else if !(rsvClear r w) then some 3
  else if !(valuesAllowed r w) then some 4
  else if !(pairsExist r w) then some 5
  else none

/-- Whether the sequencer of core `c` can execute the instruction at its pc: running, stalled, or waiting for its units
to finish (R334, R361, R362). -/
def seqCan (s : State) (c : Nat) : Bool :=
  unitLive s c && (match (coreAt s c).seq.run with
    | .running | .stalled => true
    | .waiting => (coreAt s c).seq.wait == some ⟨3, 0⟩
    | _ => false)

/-- An instruction of row `r` executes at core `c`: the sequencer fetches the word at its pc; another row's word leaves the
core as it is; a reserved or ill-formed word raises SEQ_ILLEGAL (R339, R364). -/
def issueLive (r : SeqRow) (c : Nat) (body : W64 → State → State) (s : State) : State :=
  if !(seqCan s c) then s
  else
    let i := (coreAt s c).seq.pc
    if anyPoison 8 (coreAt s c).bench.poison (instrBase + 8 * i) 8 then
      seqOther s c { name := .memUe, reason := 9, address := benchPlace c (instrBase + 8 * i) }
    else
      let w := instrAt s c i
      match rowOf w with
      | none => seqIllegal s c (if opcodeDefined (opcodeOf w) then 2 else 1)
      | some q =>
        if q ≠ r then s
        else match illegalReason r w with
          | some n => seqIllegal s c n
          | none => body w s

/-- The sequencer issues, or its fault coincides with another engine's. -/
def issue (r : SeqRow) (c : CoreId) (body : W64 → State → State) (s : State) : State :=
  coincide (.sequencer c) (issueLive r c body) s

/-- The instruction retires and is followed in sequence (R344). -/
def retire (s : State) (c : Nat) : State :=
  modSeq s c fun k => { followed k with run := .running, wait := none, retired := wrapAdd 64 k.retired 1 }

/-- An instruction with an effect that is followed in sequence; at the last index it raises SEQ_PC and has none (R343). -/
def inSequence (c : Nat) (f : State → State) (s : State) : State :=
  if canFollow (coreAt s c).seq then retire (f s) c else seqPcFault s c

/-- The instruction begins to wait: it is issued, and its completion follows in sequence (R338). -/
def beginWait (c kind object : Nat) (s : State) : State :=
  let s1 := modSeq s c fun k => { k with run := .waiting, wait := some ⟨kind, object⟩, retired := wrapAdd 64 k.retired 1 }
  if kind = 0 then s1 else modSync s1 c fun y => { y with otherWaits := wrapAdd 32 y.otherWaits 1 }

/-- The instruction waits for room in queue `q` (R334, CORE_SEQ_STALLS). -/
def stallOn (q c : Nat) (s : State) : State :=
  modSeq s c fun k => { k with run := .stalled, stalls := tmod 0 k.stalls q (fun v => wrapAdd 64 v 1) }

/-- Jump to an index, or SEQ_PC when it lies outside 0 to 16,383 (R343). -/
def jumpTo (c : Nat) (t : Int) (f : State → State) (s : State) : State :=
  if 0 ≤ t && t ≤ Int.ofNat lastIndex then
    modSeq (f s) c fun k => { k with pc := t.toNat, run := .running, wait := none, retired := wrapAdd 64 k.retired 1 }
  else seqPcFault s c

/-! ### Descriptors in the own bench -/

/-- Word `i` of a descriptor at bench offset `o`. -/
def benchWord (s : State) (c o i : Nat) : W64 := BitVec.ofNat 64 (leNat (benchBytes s c (o + 8 * i) 8))

/-- `n` words of a descriptor at bench offset `o`. -/
def benchWords (s : State) (c o n : Nat) : List W64 := wordsOf n (benchBytes s c o (8 * n))

/-- The bench offset of a place address of core `c`'s own bench (R179), if it is one. -/
def ownOffset (c : Nat) (w : W64) : Option Nat :=
  let p := placeOf w
  if p.space = 0 && p.sel = c && p.off < benchSize then some p.off else none

end Sys2Proof.Machine
end

