-- ==== Sys2Proof/Machine/Scalar.lean ====
section
/-! DEFINITION. Scalar, control and synchronisation instructions, phases, breaks and the end of a program (09 R341 to
R344, R357, R358, R360 to R362). -/

namespace Sys2Proof.Machine

/-- The ALU operations by funct (*ALU functs*, R341). -/
def aluResult (funct : Nat) (a b : W64) : W64 :=
  let sh := b.toNat % 64
  match funct with
  | 0 => a + b
  | 1 => a - b
  | 2 => a &&& b
  | 3 => a ||| b
  | 4 => a ^^^ b
  | 5 => a <<< sh
  | 6 => a >>> sh
  | 7 => BitVec.sshiftRight a sh
  | 8 => a * b
  | 9 => BitVec.ofNat 64 (a.toNat * b.toNat / 2 ^ 64)
  | 10 => if a.toInt ≤ b.toInt then a else b
  | 11 => if b.toInt ≤ a.toInt then a else b
  | 12 => if a.toNat ≤ b.toNat then a else b
  | 13 => if b.toNat ≤ a.toNat then a else b
  | 14 => if a.toInt < b.toInt then 1 else 0
  | _ => if a.toNat < b.toNat then 1 else 0

/-- A 32-bit immediate sign-extended to 64 bits (R341). -/
def imm32 (w : W64) : W64 := w64 (signedOf 32 (fieldOf w 31 0))

/-- ALU: rd ← s[ra] op s[rb] (R341). -/
def execAlu (c : CoreId) (s : State) : Host.Outcome State Fault Refusal :=
  .next (issue .alu c (fun w => inSequence c fun t =>
    setReg t c (fieldOf w 57 53)
      (aluResult (fieldOf w 42 37) (regAt t c (fieldOf w 52 48)) (regAt t c (fieldOf w 47 43)))) s)

/-- ALUI: the same with the sign-extended immediate (R341). -/
def execAlui (c : CoreId) (s : State) : Host.Outcome State Fault Refusal :=
  .next (issue .alui c (fun w => inSequence c fun t =>
    setReg t c (fieldOf w 57 53) (aluResult (fieldOf w 47 43) (regAt t c (fieldOf w 52 48)) (imm32 w))) s)

/-- LI: the immediate sign-extended, or put in bits [63:32] (R341). -/
def execLi (c : CoreId) (s : State) : Host.Outcome State Fault Refusal :=
  .next (issue .li c (fun w => inSequence c fun t =>
    let rd := fieldOf w 57 53
    setReg t c rd (if bitOf w 52 then placed (fieldOf w 31 0) 32 ||| placed (fieldOf (regAt t c rd) 31 0) 0
      else imm32 w)) s)

/-- The bench offset of an LDST: s[ra] + imm, modulo 2^64 (R342). -/
def ldstOffset (s : State) (c : Nat) (w : W64) : Nat :=
  (regAt s c (fieldOf w 47 43) + w64 (signedOf 24 (fieldOf w 23 0))).toNat

/-- The tag mark of an LDST (R342). -/
def ldstMark (w : W64) : TagMark :=
  match fieldOf w 54 53 with
  | 0 => .plain | 1 => .hold | _ => .pass

/-- What an LDST does once its access may go. -/
def ldstGo (c : CoreId) (w : W64) (o len : Nat) (mark : TagMark) (isStore : Bool) (s : State) : State :=
  let rd := fieldOf w 52 48
  inSequence c (fun t =>
    let t1 := countPort c .pDress 1 t
    if isStore then tagAfter (writeBench t1 c o (leBytes len (regAt t1 c rd).toNat)) c o len mark true
    else tagAfter (setReg t1 c rd (BitVec.ofNat 64 (leNat (benchBytes t1 c o len)))) c o len mark false) s

/-- LDST: range, alignment, the bench's gate, the tag, then the access through P-dress (R342, R293, R295). -/
def ldstBody (c : CoreId) (isStore : Bool) (w : W64) (s : State) : State :=
  let o := ldstOffset s c w
  let len := 2 ^ fieldOf w 56 55
  let mark := ldstMark w
  if benchSize ≤ o then seqRange s c 1
  else if o % len ≠ 0 then seqAlign s c
  else match benchGate s c o len (!isStore) with
    | .err f =>
      let s1 := if benchFaultCode f.name = 0 then s
        else recordBenchFault c (benchFaultCode f.name) (benchBank o) 1 1 (slotOf o) (slotOf o) s
      seqOther s1 c f
    | .wait => s
    | .go =>
      if accessWaits s c (.sequencer c) .pDress o len isStore mark then
        if !(canFollow (coreAt s c).seq) then seqPcFault s c
        else if mark = .plain || !(canHold s c .pDress (.sequencer c)) then s
        else
          beginWait c 0 (slotOf o) (holdAccess s c
            { eng := .sequencer c, port := .pDress, offset := o, mark := mark, isWrite := isStore
              cls := fieldOf w 42 39
              op := if isStore then .store (leBytes len (regAt s c (fieldOf w 52 48)).toNat)
                else .load (fieldOf w 52 48) len })
      else ldstGo c w o len mark isStore s

/-- LDST with store clear: a zero-extended load (R342). -/
def execLdstLoad (c : CoreId) (s : State) : Host.Outcome State Fault Refusal :=
  .next (issue .load c (ldstBody c false) s)

/-- LDST with store set (R342). -/
def execLdstStore (c : CoreId) (s : State) : Host.Outcome State Fault Refusal :=
  .next (issue .store c (ldstBody c true) s)

/-! ### Predicates and branches -/

/-- Whether a queued dressing item reads or writes predicate `p` (R336, R355). -/
def itemWrites (p : Nat) (d : DrsEntry) : Bool :=
  match d.item with
  | .lane funct wd _ _ _ _ _ _ _ => (funct = 11 || funct = 12) && wd % 8 = p
  | _ => false

def itemReads (p : Nat) (d : DrsEntry) : Bool :=
  match d.item with
  | .lane funct _ _ _ _ q pen _ _ => (pen || funct = 13) && q = p
  | _ => false

/-- A sequencer read of predicate `p` must wait (R336). -/
def predReadWaits (s : State) (c p : Nat) : Bool := (coreAt s c).drs.queue.any (itemWrites p)

/-- A sequencer write of predicate `p` must wait (R336). -/
def predWriteWaits (s : State) (c p : Nat) : Bool :=
  (coreAt s c).drs.queue.any fun d => itemWrites p d || itemReads p d

/-- The branch conditions (*Branch conditions*). -/
def condHolds (cond : Nat) (a b : W64) (p : Bool) : Bool :=
  match cond with
  | 0 => true
  | 1 => a == b
  | 2 => a != b
  | 3 => decide (a.toInt < b.toInt)
  | 4 => decide (b.toInt ≤ a.toInt)
  | 5 => decide (a.toNat < b.toNat)
  | 6 => decide (b.toNat ≤ a.toNat)
  | 7 => p
  | _ => !p

/-- The signed 24-bit offset of BR and JMP (R343). -/
def branchOffset (w : W64) : Int := signedOf 24 (fieldOf w 23 0)

/-- BR (R343). -/
def execBr (c : CoreId) (s : State) : Host.Outcome State Fault Refusal :=
  .next (issue .br c (fun w t =>
    let cond := fieldOf w 57 54
    let p := fieldOf w 43 41
    if 7 ≤ cond && predReadWaits t c p then t
    else if condHolds cond (regAt t c (fieldOf w 53 49)) (regAt t c (fieldOf w 48 44)) ((predAt t c p).getLsbD 0) then
      jumpTo c (Int.ofNat (coreAt t c).seq.pc + branchOffset w) id t
    else inSequence c id t) s)

/-- LOOP (R344). Whether it can be followed is decided with its counter replaced (R343). -/
def execLoop (c : CoreId) (s : State) : Host.Outcome State Fault Refusal :=
  .next (issue .loop c (fun w t =>
    let l := fieldOf w 57 56
    let n := if bitOf w 55 then fieldOf (regAt t c (fieldOf w 54 50)) 31 0 else fieldOf w 23 0
    let i := (coreAt t c).seq.pc
    let stop := i + 1 + fieldOf w 49 34
    if n = 0 then jumpTo c (Int.ofNat (stop + 1)) id t
    else
      let u := modSeq t c fun k => { k with loops := tput {} k.loops l ⟨i + 1, stop, n⟩
                                            order := l :: k.order.filter (fun x => x != l) }
      if canFollow (coreAt u c).seq then retire u c else seqPcFault t c) s)

/-- JMP: jump relative, to a register, call, return (R343). -/
def execJmp (c : CoreId) (s : State) : Host.Outcome State Fault Refusal :=
  .next (issue .jmp c (fun w t =>
    let i := (coreAt t c).seq.pc
    match fieldOf w 57 56 with
    | 0 => jumpTo c (Int.ofNat i + branchOffset w) id t
    | 1 => jumpTo c (Int.ofNat (fieldOf (regAt t c (fieldOf w 55 51)) 13 0)) id t
    | 2 => jumpTo c (Int.ofNat i + branchOffset w) (fun u => setReg u c 31 (BitVec.ofNat 64 (i + 1))) t
    | _ => jumpTo c (Int.ofNat (fieldOf (regAt t c 31) 13 0)) id t) s)

/-- NOP (*SYS functs*). -/
def execNop (c : CoreId) (s : State) : Host.Outcome State Fault Refusal :=
  .next (issue .nop c (fun _ => inSequence c id) s)

/-- PCMP: all 128 bits of pd take the comparison's result (R336). -/
def execPcmp (c : CoreId) (s : State) : Host.Outcome State Fault Refusal :=
  .next (issue .pcmp c (fun w t =>
    let pd := fieldOf w 52 50
    if predWriteWaits t c pd then t
    else inSequence c (fun u =>
      setPred u c pd
        (if condHolds (fieldOf w 49 46) (regAt u c (fieldOf w 45 41)) (regAt u c (fieldOf w 40 36)) false
          then BitVec.allOnes 128 else 0)) t) s)

/-- PLOGIC, per lane (*SYS functs*). -/
def plogicResult (op : Nat) (a b : Pred) : Pred :=
  match op with
  | 0 => a &&& b | 1 => a ||| b | 2 => a ^^^ b | _ => a &&& ~~~b

def execPlogic (c : CoreId) (s : State) : Host.Outcome State Fault Refusal :=
  .next (issue .plogic c (fun w t =>
    let pd := fieldOf w 52 50
    let pa := fieldOf w 49 47
    let pb := fieldOf w 46 44
    if predWriteWaits t c pd || predReadWaits t c pa || predReadWaits t c pb then t
    else inSequence c (fun u =>
      setPred u c pd (plogicResult (fieldOf w 43 42) (predAt u c pa) (predAt u c pb))) t) s)

/-- The module's rank and the size of its group: 0 and 1 when not in a group (R369, *SYS functs*). -/
def programRank (s : State) : Nat := if s.group.stage = .none then 0 else s.group.rank
def programGroup (s : State) : Nat := if s.group.stage = .none then 1 else s.group.members

/-- The index of a core within its claim: virtual core v is the v-th core of the claim (R368). -/
def virtualIndex (s : State) (c : Nat) : Nat :=
  match coreOwner s c with
  | some k => ((coresOf (claimAt s k).quads).filter fun x => x < c).length
  | none => 0

/-- The values CSRR reads (*SYS functs*). -/
def csrValue (s : State) (c csr : Nat) : Nat :=
  match csr with
  | 0 => virtualIndex s c
  | 1 => programRank s
  | 2 => programGroup s
  | _ => match coreOwner s c with
    | some k => setCount 32 (claimAt s k).quads
    | none => 0

def execCsrr (c : CoreId) (s : State) : Host.Outcome State Fault Refusal :=
  .next (issue .csrr c (fun w => inSequence c fun t =>
    setReg t c (fieldOf w 52 48) (BitVec.ofNat 64 (csrValue t c (fieldOf w 47 40)))) s)

/-- RDLOOP: the remaining count, or 0 when inactive (*SYS functs*). -/
def execRdloop (c : CoreId) (s : State) : Host.Outcome State Fault Refusal :=
  .next (issue .rdloop c (fun w => inSequence c fun t =>
    let l := fieldOf w 47 46
    let k := (coreAt t c).seq
    setReg t c (fieldOf w 52 48) (BitVec.ofNat 64 (if k.order.contains l then (tget {} k.loops l).remaining else 0))) s)

/-! ### Waiting for the units: FENCE, BREAK, END -/

/-- Every item of a unit of core `c` has completed, and every access of those items is performed (R313). -/
def matrixIdle (s : State) (c : CoreId) : Bool :=
  let k := coreAt s c
  k.mat.queue.isEmpty && k.mat.run.isNone && k.mat.flight.isEmpty && k.att.call.isNone && !(engineOut s (.matrix c))
def dressingIdle (s : State) (c : CoreId) : Bool :=
  let k := coreAt s c
  k.drs.queue.isEmpty && k.drs.hands.isEmpty && k.att.call.isNone && k.net.due.isEmpty &&
    !(engineOut s (.dressing c)) && !(accessOut s (.netPort c)) && !(packetOut s (.netPort c))
def listsIdle (m : MoverState) : Bool := m.lists.isEmpty && m.out.isEmpty
def moverIdle (s : State) (c : CoreId) (m1 : Bool) : Bool :=
  listsIdle (if m1 then (coreAt s c).m1 else (coreAt s c).m0) && !(engineOut s (.coreMover c m1))
def netIdle (s : State) (c : CoreId) : Bool :=
  let k := coreAt s c
  k.net.queue.isEmpty && k.net.due.isEmpty && k.net.calls.isEmpty && !(engineOut s (.netPort c))

/-- Whether the units that a FENCE names have completed every item (R313, R358): bits from [57] down. -/
def unitsDone (s : State) (c : CoreId) (units : Nat) : Bool :=
  (!(units.testBit 5) || matrixIdle s c) && (!(units.testBit 4) || dressingIdle s c) &&
    (!(units.testBit 3) || moverIdle s c false) && (!(units.testBit 2) || moverIdle s c true) &&
    (!(units.testBit 1) || netIdle s c) && (!(units.testBit 0) || !(engineOut s (.sequencer c)))

/-- Every item the sequencer issued has completed (R361, R362). -/
def allDone (s : State) (c : CoreId) : Bool := unitsDone s c 63

/-- The sequencer waits for its units and keeps the instruction at the pc; the wait of a fence is counted (R331). -/
def waitUnits (c : Nat) (isFence : Bool) (s : State) : State :=
  let first := (coreAt s c).seq.run != .waiting
  let s1 := modSeq s c fun k => { k with run := .waiting, wait := some ⟨3, 0⟩ }
  if first && isFence then modSync s1 c fun y => { y with otherWaits := wrapAdd 32 y.otherWaits 1 } else s1

/-- FENCE: the core fence (R313, R358). -/
def execFence (c : CoreId) (s : State) : Host.Outcome State Fault Refusal :=
  .next (issue .fence c (fun w t =>
    if unitsDone t c (fieldOf w 57 52) then inSequence c id t
    else if canFollow (coreAt t c).seq then waitUnits c true t else seqPcFault t c) s)

/-- Whether a hold is pending for the claim of core `c` (R361): requested by its function, or by the governor. -/
def holdPending (s : State) (c : Nat) : Bool :=
  match coreOwner s c with
  | some k => (claimAt s k).holdReq || (claimAt s k).shed || (claimAt s k).parked
  | none => false

/-- BREAK: costs a beat when no hold is pending; else waits for the units, and for the closing pass of tiles that are held
(R204), and the core is then held (R361). -/
def execBreak (c : CoreId) (s : State) : Host.Outcome State Fault Refusal :=
  .next (issue .brk c (fun w t =>
    if !(holdPending t c) then inSequence c id t
    else if !(canFollow (coreAt t c).seq) then seqPcFault t c
    else if allDone t c && (coreAt t c).drs.holdBytes = 0 then
      modSeq (retire t c) c fun k => { k with run := .held, breakId := fieldOf w 57 42 }
    else waitUnits c false t) s)

/-- END: waits like a held BREAK, then the program of the core is complete; pending attachments are discarded
(R362, R347). -/
def execEnd (c : CoreId) (s : State) : Host.Outcome State Fault Refusal :=
  .next (issue .endp c (fun _ t =>
    if allDone t c then
      modSeq t c fun k => { k with run := .ended, wait := none, prologue := none, epilogue := none, odd := []
                                   retired := wrapAdd 64 k.retired 1 }
    else waitUnits c false t) s)

/-- PHASE: the core's current phase (R360). -/
def execPhase (c : CoreId) (s : State) : Host.Outcome State Fault Refusal :=
  .next (issue .phase c (fun w => inSequence c fun t => modSeq t c fun k => { k with phase := fieldOf w 57 54 }) s)

/-! ### Tags, tallies and conveyors (R357) -/

/-- TAG with either op: a range of slots filled or drained; a range beyond slot 8,191 raises SEQ_RANGE. -/
def tagBody (c : CoreId) (full : Bool) (w : W64) (s : State) : State :=
  let slot := fieldOf w 56 44
  let count := fieldOf w 43 30
  if 8192 < slot + count then seqRange s c 2
  else inSequence c (fun t => setTags t c full (upFrom slot count)) s

def execTagFill (c : CoreId) (s : State) : Host.Outcome State Fault Refusal := .next (issue .tagFill c (tagBody c true) s)
def execTagDrain (c : CoreId) (s : State) : Host.Outcome State Fault Refusal :=
  .next (issue .tagDrain c (tagBody c false) s)

/-- Whether the claim of core `c` owns a tally or a conveyor (R303). -/
def coreOwnsTally (s : State) (c n : Nat) : Bool :=
  match coreOwner s c with
  | some k => ownsTally s k n
  | none => false

def coreOwnsConveyor (s : State) (c n : Nat) : Bool :=
  match coreOwner s c with
  | some k => ownsConveyor s k n
  | none => false

/-- The operand of TALLY and TWAIT: (s[rs][31:0] + imm) mod 2^32. -/
def tallyOperand (s : State) (c rs : Nat) (w : W64) : W32 :=
  BitVec.ofNat 32 (fieldOf (regAt s c rs) 31 0 + fieldOf w 31 0)

/-- The common part of the TALLY operations: ownership, then the effect on the tally of the operand. -/
def tallyBody (c : CoreId) (f : Nat → Nat → W32 → State → State) (w : W64) (s : State) : State :=
  let n := fieldOf w 55 39
  let rs := fieldOf w 38 34
  if coreOwnsTally s c n then inSequence c (fun t => f n rs (tallyOperand s c rs w) t) s
  else seqSyncRange s c 1 n

def execTallyAdd (c : CoreId) (s : State) : Host.Outcome State Fault Refusal :=
  .next (issue .tallyAdd c (tallyBody c fun n _ v t => tallyAdd t n v) s)

def execTallyAddFetch (c : CoreId) (s : State) : Host.Outcome State Fault Refusal :=
  .next (issue .tallyAddFetch c (tallyBody c fun n rs v t =>
    tallyAdd (setReg t c rs ((tallyAt t n).setWidth 64)) n v) s)

def execTallySet (c : CoreId) (s : State) : Host.Outcome State Fault Refusal :=
  .next (issue .tallySet c (tallyBody c fun n _ v t => tallyWrite t n v) s)

def execTallyRead (c : CoreId) (s : State) : Host.Outcome State Fault Refusal :=
  .next (issue .tallyRead c (tallyBody c fun n rs _ t => setReg t c rs ((tallyAt t n).setWidth 64)) s)

/-- TWAIT: completes at once when the target is reached; else waits at the home, or backs off (R300, R302). -/
def execTwait (c : CoreId) (s : State) : Host.Outcome State Fault Refusal :=
  .next (issue .twait c (fun w t =>
    let n := fieldOf w 57 41
    let e : WaitEntry := ⟨n, tallyOperand t c (fieldOf w 36 32) w, .seq c, fieldOf w 40 37⟩
    if !(coreOwnsTally t c n) then seqSyncRange t c 1 n
    else if !(canFollow (coreAt t c).seq) then seqPcFault t c
    else match tallyWait t e with
      | (.done, u) => inSequence c id u
      | (.waits, u) => beginWait c 1 n u
      | (.refused, u) => beginWait c 1 n (backOff u (.wait e) 2)) s)

/-- CONVY op 0: push the handle (s[rs], s[rs+1]) (R304, R306, R357). -/
def execConveyorPush (c : CoreId) (s : State) : Host.Outcome State Fault Refusal :=
  .next (issue .push c (fun w t =>
    let n := fieldOf w 55 47
    let rs := fieldOf w 46 42
    let p : WaitingPush := ⟨.seq c, ⟨regAt t c rs, regAt t c (rs + 1)⟩, fieldOf w 41 38⟩
    if !(coreOwnsConveyor t c n) then seqSyncRange t c 2 n
    else if !(canFollow (coreAt t c).seq) then seqPcFault t c
    else match conveyorPush t n p with
      | (.done, u) => inSequence c id u
      | (.waits, u) => beginWait c 2 n u
      | (.refused, u) => beginWait c 2 n (backOff u (.push n p) 2)) s)

/-- CONVY op 1: pop into the pair (s[rs], s[rs+1]). -/
def execConveyorPop (c : CoreId) (s : State) : Host.Outcome State Fault Refusal :=
  .next (issue .pop c (fun w t =>
    let n := fieldOf w 55 47
    let rs := fieldOf w 46 42
    let p : WaitingPop := ⟨.seq c, rs, fieldOf w 41 38⟩
    if !(coreOwnsConveyor t c n) then seqSyncRange t c 2 n
    else if !(canFollow (coreAt t c).seq) then seqPcFault t c
    else
      let issued := modSeq t c fun k => { k with retired := wrapAdd 64 k.retired 1 }
      match conveyorPop issued n p with
      | (.done, u) => u
      | (.waits, _) => beginWait c 2 n (conveyorPop t n p).2
      | (.refused, _) => beginWait c 2 n (backOff t (.pop n p) 2)) s)

/-- CONVY op 2: reset with a depth. -/
def execConveyorReset (c : CoreId) (s : State) : Host.Outcome State Fault Refusal :=
  .next (issue .reset c (fun w t =>
    let n := fieldOf w 55 47
    if coreOwnsConveyor t c n then inSequence c (fun u => conveyorReset u n (fieldOf w 37 32)) t
    else seqSyncRange t c 2 n) s)

end Sys2Proof.Machine
end

