-- ==== Sys2Proof/Machine/Issue.lean ====
section
/-! DEFINITION. Unit instructions as the sequencer issues them: each goes to the queue of its unit with its register
operands read at issue (09 R334, R335, R337, R346 to R356). -/

namespace Sys2Proof.Machine

def matrixDepth : Nat := 8
def dressingDepth : Nat := 16

/-- Room for `n` more items in the matrix or dressing queue (R337). -/
def matrixRoom (s : State) (c n : Nat) : Bool := (coreAt s c).mat.queue.length + n ≤ matrixDepth
def dressingRoom (s : State) (c n : Nat) : Bool := (coreAt s c).drs.queue.length + n ≤ dressingDepth

/-- Items appended to a core's queues; the core's issue number moves past them. -/
def pushMatrix (c : Nat) (no : Nat) (i : MatItem) (s : State) : State :=
  modMat s c fun m => { m with queue := m.queue ++ [⟨no, i⟩] }
def pushDressing (c : Nat) (no : Nat) (i : DrsItem) (s : State) : State :=
  modDrs s c fun d => { d with queue := d.queue ++ [⟨no, i⟩] }
def bumpItem (c n : Nat) (s : State) : State := modSeq s c fun k => { k with nextItem := k.nextItem + n }

/-- The number the next unit item of a core takes. -/
def itemNo (s : State) (c : Nat) : Nat := (coreAt s c).seq.nextItem

/-- One matrix item, or a stall on a full queue (R334). -/
def toMatrix (c : Nat) (i : MatItem) (s : State) : State :=
  if matrixRoom s c 1 then inSequence c (fun t => bumpItem c 1 (pushMatrix c (itemNo t c) i t)) s else stallOn 0 c s

/-- One dressing item, or a stall on a full queue. -/
def toDressing (c : Nat) (i : DrsItem) (s : State) : State :=
  if dressingRoom s c 1 then inSequence c (fun t => bumpItem c 1 (pushDressing c (itemNo t c) i t)) s else stallOn 1 c s

/-- An MMA with the chains attached to it takes one matrix entry and one dressing entry for each chain; the prologue is
queued before the epilogue (R171, R337, R347). Numbers: prologue n, MMA n + 1, epilogue n + 2. -/
def toArrays (c : Nat) (op : MmaOp) (s : State) : State :=
  let k := (coreAt s c).seq
  let chains := b2n k.prologue.isSome + b2n k.epilogue.isSome + k.odd.length
  let o := { op with prologue := k.prologue, epilogue := k.epilogue, odd := k.odd.head?.map Prod.snd }
  if !(matrixRoom s c 1) then stallOn 0 c s
  else if !(dressingRoom s c chains) then stallOn 1 c s
  else inSequence c (fun t =>
    let n := itemNo t c
    let t1 := match o.prologue with
      | some r => pushDressing c n (.prologue r o) t
      | none => t
    let t2 := pushMatrix c (n + 1) (.mma o) t1
    let t3 := match o.epilogue with
      | some r => pushDressing c (n + 2) (.drain r ⟨o.mask, o.m, o.n, o.base⟩ o.sat false) t2
      | none => t2
    modSeq (bumpItem c 3 t3) c fun q => { q with prologue := none, epilogue := none, odd := [] }) s

/-- MMA's fields (R339, R346). -/
def mmaFields (w : W64) (base source : Nat) : MmaOp :=
  { mask := fieldOf w 57 54, m := fieldOf w 53 45, n := fieldOf w 44 38, k := fieldOf w 37 30, base := base
    acc := bitOf w 21, swap := bitOf w 20, sfmt := fieldOf w 19 16, wfmt := fieldOf w 15 12, sat := bitOf w 11
    source := source }

def execMma (c : CoreId) (s : State) : Host.Outcome State Fault Refusal :=
  .next (issue .mma c (fun w => toArrays c (mmaFields w (fieldOf w 29 22) (fieldOf w 10 0))) s)

/-- MMA.R: source from s[rs][10:0] and base from s[rs][23:16] (R346). -/
def execMmaR (c : CoreId) (s : State) : Host.Outcome State Fault Refusal :=
  .next (issue .mmaR c (fun w t =>
    let r := regAt t c (fieldOf w 10 6)
    toArrays c (mmaFields w (fieldOf r 23 16) (fieldOf r 10 0)) t) s)

/-- SLOAD (R348). -/
def execSload (c : CoreId) (s : State) : Host.Outcome State Fault Refusal :=
  .next (issue .sload c (fun w =>
    toMatrix c (.sload (fieldOf w 57 46) (fieldOf w 45 42) (fieldOf w 41 30) (bitOf w 29))) s)

/-- The MMA that SWAP stands for: M = 0, all four arrays, swap set, an allowed pair (R349). -/
def swapOp : MmaOp :=
  { mask := 15, m := 0, n := 0, k := 0, base := 0, acc := true, swap := true, sfmt := 3, wfmt := 3, sat := false
    source := 0 }

/-- SWAP takes no attachments: a pending CATT stays for the next MMA (R347, R349). -/
def execSwap (c : CoreId) (s : State) : Host.Outcome State Fault Refusal :=
  .next (issue .swap c (fun _ => toMatrix c (.mma swapOp)) s)

/-- DRAIN; rows of 0 is a no-op (R350). -/
def execDrain (c : CoreId) (s : State) : Host.Outcome State Fault Refusal :=
  .next (issue .drain c (fun w =>
    if fieldOf w 45 37 = 0 then inSequence c id
    else toDressing c (.drain ⟨fieldOf w 36 21, fieldOf w 19 16⟩
      ⟨fieldOf w 57 54, fieldOf w 45 37, 64, fieldOf w 53 46⟩ (bitOf w 20) true)) s)

/-- The position field of the chain descriptor a handle names (R179); a region outside the bench has none. -/
def chainPosition (s : State) (c handle : Nat) : Option Nat :=
  if 128 * handle + 128 ≤ benchSize then some (fieldOf (benchWord s c (128 * handle) 0) 63 62) else none

/-- CATT: attaches a chain to the next MMA, by the chain's position; one of the same position replaces it (R347). -/
def execCatt (c : CoreId) (s : State) : Host.Outcome State Fault Refusal :=
  .next (issue .catt c (fun w => inSequence c fun t =>
    let h := fieldOf w 57 42
    let r : ChainRef := ⟨h, fieldOf w 41 38⟩
    modSeq t c fun k => match chainPosition t c h with
      | some 0 => { k with epilogue := some r }
      | some 1 => { k with prologue := some r }
      | p => { k with odd := (k.odd.filter fun x => x.1 != p.getD 4) ++ [(p.getD 4, r)] }) s)

/-- FILL (R351). -/
def execFill (c : CoreId) (s : State) : Host.Outcome State Fault Refusal :=
  .next (issue .fill c (fun w t =>
    toMatrix c (.fill { mode := fieldOf w 57 56, target := fieldOf w 55 53, coff := fieldOf w 52 41
                        dh := fieldOf w 40 24, m := fieldOf w 23 15, reg := regAt t c (fieldOf w 14 10) }) t) s)

/-- ATTEND takes one entry of the matrix queue and one of the dressing queue (R353). -/
def execAttend (c : CoreId) (s : State) : Host.Outcome State Fault Refusal :=
  .next (issue .attend c (fun w t =>
    let r : ChainRef := ⟨fieldOf w 57 41, fieldOf w 40 37⟩
    if !(matrixRoom t c 1) then stallOn 0 c t
    else if !(dressingRoom t c 1) then stallOn 1 c t
    else inSequence c (fun u =>
      let n := itemNo u c
      bumpItem c 1 (pushDressing c n (.attend r) (pushMatrix c n (.attend r) u))) t) s)

/-- PASS; 0 rows is a no-op (R354). -/
def execPass (c : CoreId) (s : State) : Host.Outcome State Fault Refusal :=
  .next (issue .pass c (fun w t =>
    let r := regAt t c (fieldOf w 25 21)
    if fieldOf w 41 26 = 0 then inSequence c id t
    else toDressing c (.pass ⟨fieldOf w 57 42, fieldOf w 19 16⟩ (fieldOf w 41 26) (fieldOf r 22 0) (fieldOf r 63 32)
      (bitOf w 20)) t) s)

/-- DOT (R354). -/
def execDot (c : CoreId) (s : State) : Host.Outcome State Fault Refusal :=
  .next (issue .dot c (fun w t =>
    let rs := fieldOf w 15 11
    toDressing c (.dot (fieldOf w 57 50) (fieldOf w 49 46) (fieldOf w 45 30) (fieldOf w 29 26) (fieldOf w 25 22)
      (fieldOf w 21 16) (regAt t c rs) (regAt t c (rs + 1)) (regAt t c (rs + 2))) t) s)

/-- CONV (R354). -/
def execConv (c : CoreId) (s : State) : Host.Outcome State Fault Refusal :=
  .next (issue .conv c (fun w t =>
    let rs := fieldOf w 23 19
    toDressing c (.conv (fieldOf w 57 54) (fieldOf w 53 50) (bitOf w 49) (fieldOf w 48 24) (regAt t c rs)
      (regAt t c (rs + 1))) t) s)

/-- The address of WLD and WST and its checks (R354, R700): aligned to 512 B, within the bench, outside the instruction
region. -/
def wideBody (c : CoreId) (mk : Nat → Nat → DrsItem) (w : W64) (s : State) : State :=
  let o := (regAt s c (fieldOf w 51 47) + BitVec.ofNat 64 (512 * fieldOf w 46 33)).toNat
  if o % 512 ≠ 0 then seqAlign s c
  else if benchSize < o + 512 then seqRange s c 1
  else if instrBase ≤ o then
    seqOther (recordBenchFault c 2 15 1 1 (slotOf o) (slotOf o) s) c { name := .benchClash, address := benchPlace c o }
  else toDressing c (mk (fieldOf w 57 52) o) s

def execWld (c : CoreId) (s : State) : Host.Outcome State Fault Refusal := .next (issue .wld c (wideBody c .wld) s)
def execWst (c : CoreId) (s : State) : Host.Outcome State Fault Refusal := .next (issue .wst c (wideBody c .wst) s)

/-- LANE (R355): with bsc the low half of s[rs] is read at issue. -/
def execLane (c : CoreId) (s : State) : Host.Outcome State Fault Refusal :=
  .next (issue .lane c (fun w t =>
    toDressing c (.lane (fieldOf w 57 52) (fieldOf w 51 46) (fieldOf w 45 40) (fieldOf w 39 34) (fieldOf w 33 28)
      (fieldOf w 27 25) (bitOf w 24) (bitOf w 23) (BitVec.ofNat 32 (fieldOf (regAt t c (fieldOf w 22 18)) 31 0))) t) s)

/-- The mover of a core. -/
def coreMover (s : State) (c : Nat) (m1 : Bool) : MoverState := if m1 then (coreAt s c).m1 else (coreAt s c).m0

/-- A core mover replaced. -/
def setCoreMover (s : State) (c : Nat) (m1 : Bool) (m : MoverState) : State :=
  modCore s c fun k => if m1 then { k with m1 := m } else { k with m0 := m }

/-- MOVE: posts a list to M0 or M1; a count of 0 is a no-op (R356, R376). -/
def execMove (c : CoreId) (s : State) : Host.Outcome State Fault Refusal :=
  .next (issue .move c (fun w t =>
    let m1 := bitOf w 57
    let n := fieldOf w 39 24
    if n = 0 then inSequence c id t
    else if (coreMover t c m1).lists.length < 8 then
      inSequence c (fun u =>
        let m := coreMover u c m1
        setCoreMover u c m1 { m with lists := m.lists ++ [{ core := c, handle := fieldOf w 56 40, count := n }] }) t
    else stallOn (if m1 then 3 else 2) c t) s)

/-- Hub mover `n`. -/
def hubMoverAt (s : State) (n : Nat) : MoverState := tget {} s.hubMovers n
def setHubMover (s : State) (n : Nat) (m : MoverState) : State := { s with hubMovers := tput {} s.hubMovers n m }

/-- A list put on a hub mover's queue of 16 (R373). -/
def postHub (n : Nat) (l : MovList) (s : State) : State :=
  let m := hubMoverAt s n
  setHubMover s n { m with lists := m.lists ++ [l] }

/-- MOVEH: posts a list to a hub mover of the claim through the net queue (R337, R356). -/
def execMoveh (c : CoreId) (s : State) : Host.Outcome State Fault Refusal :=
  .next (issue .moveh c (fun w t =>
    let h := fieldOf w 57 54
    let n := fieldOf w 36 21
    let owned := match coreOwner t c with
      | some k => inSet (claimAt t k).hubMovers h
      | none => false
    if !owned then seqRange t c 3
    else if n = 0 then inSequence c id t
    else if (coreAt t c).net.queue.isEmpty && (hubMoverAt t h).lists.length < 16 then
      inSequence c (postHub h { core := c, handle := fieldOf w 53 37, count := n }) t
    else if (coreAt t c).net.queue.length < 8 then
      inSequence c (fun u => modCore u c fun k =>
        { k with net := { k.net with queue := k.net.queue ++ [.moveh h (fieldOf w 53 37) n] } }) t
    else stallOn 4 c t) s)

end Sys2Proof.Machine
end

