-- ==== Sys2Proof/Machine/Crc.lean ====
section
/-! DEFINITION. CRC-32C (R389): polynomial 0x1EDC6F41 reflected, initial value and final XOR all ones. -/

namespace Sys2Proof.Machine

/-- One bit of the reflected CRC register. -/
def crcBit (r : W32) : W32 := if r.getLsbD 0 then (r >>> 1) ^^^ 0x82F63B78 else r >>> 1

/-- Eight bits. -/
def crcByte (r : W32) (b : Byte) : W32 :=
  crcBit (crcBit (crcBit (crcBit (crcBit (crcBit (crcBit (crcBit (r ^^^ b.setWidth 32))))))))

/-- The register after a list of bytes. -/
def crcRun (r : W32) : List Byte → W32
  | [] => r
  | b :: bs => crcRun (crcByte r b) bs

/-- CRC-32C of a list of bytes. -/
def crc32c (bs : List Byte) : W32 := crcRun 0xFFFFFFFF bs ^^^ 0xFFFFFFFF

end Sys2Proof.Machine
end

