-- ==== Sys2Proof/Machine/Walk.lean ====
section
/-! DEFINITION. Walks and transposed blocks (07 R259, R260, R265; 10 R381), and the reads of a unit from its own bench. -/

namespace Sys2Proof.Machine

/-- The addresses of a walk, innermost dimension first in the list and fastest (R260). -/
def walkFrom : List (Nat × Int) → Int → List Int
  | [], base => [base]
  | (n, st) :: outer, base =>
    (walkFrom outer base).flatMap fun b => (upFrom 0 n).map fun i => b + Int.ofNat i * st

/-- Element sizes by code: 0, 1, 2 are 1, 2, 4 B; 3 is a pair of 4-bit elements in one byte (R260). -/
def elemSize (e : Nat) : Nat := match e with | 1 => 2 | 2 => 4 | _ => 1

/-- Whether every stride of a walk is a multiple of the element size and every size lies in 1 to 65,536 (R260). -/
def walkFits (e : Nat) (dims : List (Nat × Int)) : Bool :=
  dims.all fun d => d.2 % Int.ofNat (elemSize e) == 0 && 1 ≤ d.1 && d.1 ≤ 65536

/-- Nibble `i` of a row of bytes. -/
def nibble (row : List Byte) (i : Nat) : Nat := ((row.getD (i / 2) 0).toNat / 2 ^ (4 * (i % 2))) % 16

/-- The output rows of a transposed block of 64 rows (R259): column j of the source is output row j. -/
def transposed (e : Nat) (rows : List (List Byte)) : List (List Byte) :=
  if e = 3 then (upFrom 0 128).map fun j => packFour (rows.map fun r => nibble r j)
  else (upFrom 0 64).map fun j => rows.flatMap fun r => (r.drop (elemSize e * j)).take (elemSize e)

/-- Bytes of one source row of a transposed block. -/
def transRowBytes (e : Nat) : Nat := 64 * elemSize e

/-- The first fault, or wait, among the gates of several ranges. -/
def gates (f : Nat → Nat → Gate) : List (Nat × Nat) → Gate
  | [] => .go
  | (o, n) :: rs => match f o n with
    | .go => gates f rs
    | g => g

/-- The ranges that a list of addresses of elements reads. -/
def elemRanges (n : Nat) (as : List Int) : List (Nat × Nat) := as.map fun a => (a.toNat, n)

/-- The bytes at a list of addresses, `n` each, from a bench. -/
def benchGather (s : State) (c n : Nat) (as : List Int) : List Byte := as.flatMap fun a => benchBytes s c a.toNat n

/-- The slots that a list of ranges touches. -/
def slotsOf (rs : List (Nat × Nat)) : List Nat :=
  rs.foldl (fun acc r => (unitsIn 1024 r.1 r.2).foldl (fun a x => if a.contains x then a else a ++ [x]) acc) []

/-- Whether an access in a wait register is the item of an engine that waits on a slot. -/
def itemAt (e : Engine) (slot : Nat) (a : HeldAccess) : Bool := a.eng == e && a.op == .item && a.offset == 1024 * slot

/-- The accesses that stand in wait registers before the item of an engine at a slot: those that were there before it. -/
def earlierHeld (s : State) (c : Nat) (e : Engine) (slot : Nat) : List HeldAccess :=
  ((coreAt s c).bench.held.takeWhile fun a => !(itemAt e slot a)).filter fun a => !(a.eng == e && a.op == .item)

/-- Whether a tagged access of an engine's item to several slots must wait, and on which slot: its tag, or an access of the
same direction that began to wait before it (R293, R297). -/
def slotsBlock (s : State) (c : Nat) (e : Engine) (isWrite : Bool) (slots : List Nat) : Option Nat :=
  firstSome (fun x => if tagBlocks s c x isWrite || (earlierHeld s c e x).any (sameSide isWrite [x]) then some x else none)
    slots

/-- Whether an engine's item already stands in a wait register of a port, or was returned to wait for one. -/
def itemHeld (s : State) (c : Nat) (e : Engine) : Bool :=
  ((coreAt s c).bench.held.any fun a => a.eng == e && a.op == .item) || s.backoffs.any fun b => match b.req with
    | .tagged d a => d.val == c && a.eng == e && a.op == .item
    | _ => false

/-- Take a unit's item out of its wait register, and out of the backoffs (R296). -/
def unhold (s : State) (c : Nat) (e : Engine) : State :=
  modBench { s with backoffs := s.backoffs.filter fun b => match b.req with
      | .tagged d a => !(d.val == c && a.eng == e && a.op == .item)
      | _ => true } c
    fun b => { b with held := b.held.filter fun a => !(a.eng == e && a.op == .item) }

/-- Whether an engine's item waits on a slot already. -/
def waitsAt (s : State) (c : Nat) (e : Engine) (slot : Nat) : Bool :=
  (coreAt s c).bench.held.any (itemAt e slot) || s.backoffs.any fun b => match b.req with
    | .tagged d a => d.val == c && itemAt e slot a
    | _ => false

/-- Hold a unit's head item until a slot is ready (R295), in place of the slot it waited on before. -/
def holdItem (s : State) (c : Nat) (e : Engine) (p : Port) (slot : Nat) (isWrite : Bool) (cls : Nat) : State :=
  if waitsAt s c e slot then s
  else holdAccess (unhold s c e) c
    { eng := e, port := p, offset := 1024 * slot, op := .item, mark := .hold, isWrite := isWrite, cls := cls }

/-- The sealed 4 KiB tiles that a list of ranges reads whole (R639). -/
def sealedWhole (s : State) (c : Nat) (rs : List (Nat × Nat)) : List (Nat × W32) :=
  (coreAt s c).bench.seals.filterMap fun e => match e.2 with
    | some v =>
      if (upFrom (4096 * e.1) 4096).all (fun o => rs.any fun r => r.1 ≤ o && o < r.1 + r.2) then some (e.1, v) else none
    | none => none

/-- Whether a sealed tile that is read whole has another CRC than its seal (R639). -/
def sealBroken (s : State) (c : Nat) (rs : List (Nat × Nat)) : Bool :=
  (sealedWhole s c rs).any fun t => crc32c (benchBytes s c (4096 * t.1) 4096) != t.2

/-- Seal the aligned 4 KiB tiles that a write of one block or item covers whole (R638). -/
def sealWritten (s : State) (c : Nat) (rs : List (Nat × Nat)) : State :=
  let tiles := rs.foldl (fun acc r => (unitsIn 4096 r.1 r.2).foldl (fun a x => if a.contains x then a else a ++ [x]) acc) []
  let whole := tiles.filter fun t => (upFrom (4096 * t) 4096).all fun o => rs.any fun r => r.1 ≤ o && o < r.1 + r.2
  modBench s c fun b =>
    { b with seals := whole.foldl (fun m t => tput none m t (some (crc32c (tgetN 0 b.bytes (4096 * t) 4096)))) b.seals }

end Sys2Proof.Machine
end

