-- ==== Sys2Proof/Machine/Matrix.lean ====
section
/-! DEFINITION. The matrix unit: MMAs, stationary loads, slices, rows and the activity ramp (03, 04 R147 to R153). -/

namespace Sys2Proof.Machine

/-! ### Checks at the head of the queue (R90, R91, R99, R113, R346, R348) -/

/-- The formats of the first line of R90. -/
def eightBit (f : Nat) : Bool := f = 3 || f = 4 || (7 ≤ f && f ≤ 10)

/-- The operand pairs of R90. -/
def pairAllowed (sf wf : Nat) : Bool :=
  (eightBit sf && (eightBit wf || isFour wf)) || (isFour sf && isFour wf) || (sf = 1 && wf = 1) || (sf = 2 && wf = 2) ||
    (sf = 5 && wf = 5) || (sf = 12 && wf = 12)

/-- The packed 4-bit mode (R92). -/
def isPacked (sf wf : Nat) : Bool := isFour sf && isFour wf

/-- Chute positions of one slice: two for a 16-bit pair (R695). -/
def slicePositions (sf : Nat) : Nat := if isHalf sf then 2 else 1

/-- Scale bytes of one slice: 2, or 4 for a packed format, 0 when unscaled (R93, R695). -/
def sliceScales (sf : Nat) : Nat := if !(isBlock sf) then 0 else if isFour sf then 4 else 2

/-- Bytes of an activation chute and of the weight chute (R249). -/
def actSize : Nat := 131072
def weightSize : Nat := 262144

/-- Bytes of the chute that an MMA's slices and scales reach, from its source (R113, R695). -/
def streamBytes (op : MmaOp) : Nat := 64 * (slicePositions op.sfmt * op.m) + sliceScales op.sfmt * op.m

/-- The fault an MMA raises at the head of the queue, if any: format, range, fence, tile (R91, R113, R99). -/
def mmaFault (m : MatState) (op : MmaOp) : Option FaultName :=
  if !(pairAllowed op.sfmt op.wfmt) then some .mmaFormat
  else if 256 < op.m || 64 < op.n || (if isPacked op.sfmt op.wfmt then 128 else 64) < op.k || 256 < op.base + op.m ||
      actSize < 64 * op.source + streamBytes op then some .mmaRange
  else if op.mask &&& m.fenced ≠ 0 then some .arrFenced
  else if (op.swap && m.shadow = .empty) || (!op.swap && !m.activeValid) then some .arrNoTile
  else none

/-- Take the head item of the matrix queue. -/
def popMatrix (c : Nat) (s : State) : State := modMat s c fun m => { m with queue := m.queue.drop 1, fill := none }

/-- A fault of the matrix unit (R91). -/
def matrixFault (c : CoreId) (n : FaultName) (reason : Nat) (s : State) : State :=
  raise (.matrix c) { name := n, reason := reason } s

/-! ### Interlocks with the dressing unit (R105, R106, R118, R175, R190) -/

/-- The partner base rows of a chain's gated multiplies (R180, R190). -/
def partnerRows (s : State) (c : Nat) (ref : ChainRef) : List Nat :=
  let o := 128 * ref.handle
  let n := min 8 (fieldOf (benchWord s c o 0) 61 58)
  (upFrom 0 n).filterMap fun i =>
    let w := benchWord s c o (2 + i)
    if fieldOf w 63 60 = 4 && fieldOf w 55 54 = 3 then some (fieldOf w 7 0) else none

/-- The arrays of a mask. -/
def arraysOf (mask : Nat) : List Nat := (upFrom 0 4).filter fun a => inSet mask a

/-- The row indices of the arrays of a mask, M rows each (R177), in the order in which they drain: row r of every array, two
arrays per beat, then row r + 1 (R105). -/
def rowIndices (mask m : Nat) : List Nat := (upFrom 0 m).flatMap fun r => (arraysOf mask).map fun a => a * m + r

/-- Steps of the item at the head of the dressing queue that are through; none of another item are. -/
def stepsDone (s : State) (c no : Nat) : Nat :=
  let d := (coreAt s c).drs
  match d.prog with
  | some g => if (coreAt s c).att.call.isNone && (d.queue.head?.map fun e => e.no) == some no then g.done else 0
  | none => 0

/-- Whether a queued drain still reads accumulator row `r` (R106, R190). -/
def drainReads (s : State) (c : Nat) (d : DrsEntry) (r : Nat) : Bool :=
  match d.item with
  | .drain ref rows _ _ =>
    let reads (i : Nat) : Bool :=
      rows.base + i % rows.m = r || (partnerRows s c ref).any fun p => p + i % rows.m = r
    ((rowIndices rows.mask rows.m).drop (stepsDone s c d.no)).any reads
  | _ => false

/-- The drain hold of R106: an earlier-issued drain has row `r` still to read. -/
def drainHold (s : State) (c no r : Nat) : Bool :=
  (coreAt s c).drs.queue.any fun d => d.no < no && drainReads s c d r

/-- The MMA's prologue has not written the slices of row `r` yet (R175). -/
def prologuePending (s : State) (c no r : Nat) : Bool :=
  (coreAt s c).drs.queue.any fun d => d.no + 1 = no && (match d.item with
    | .prologue _ op =>
      stepsDone s c d.no < (r + 1) * (arraysOf op.mask).length * (if isPacked op.sfmt op.wfmt then 2 else 1)
    | _ => false)

/-- Whether a row of an earlier-issued MMA is still on its way to accumulator row `r` (R105, R118). -/
def rowInFlight (m : MatState) (no r : Nat) : Bool :=
  m.flight.any (fun f => f.no < no && f.op.base + f.row = r) ||
    (match m.run with
      | some q => q.no < no && q.op.base + q.row ≤ r && r < q.op.base + q.op.m
      | none => false)

/-! ### Tiles (R92 to R98, R123, R124) -/

/-- Bytes of one stationary row (R94): 48 B of an MXFP6 row lie in a 64 B position (R695). -/
def rowBytes (wf : Nat) (packed : Bool) : Nat :=
  if isHalf wf then 128 else if isFour wf && !packed then 32 else 64

/-- Scale bytes per column: 2 for K = 64, 4 for a packed tile, 0 when unscaled (R94). -/
def colScales (wf : Nat) (packed : Bool) : Nat := if !(isBlock wf) then 0 else if packed then 4 else 2

/-- The code of the weight for reduction index `k` and column `n` (R92, R94). -/
def weightCode (t : Tile) (wf : Nat) (packed : Bool) (k n : Nat) : Nat :=
  let rb := rowBytes wf packed
  if packed then nibble ((t.rows.drop (rb * (k % 64))).take rb) (2 * n + k / 64)
  else elemCode wf ((t.rows.drop (rb * k)).take rb) n

/-- The check weight of a row, and whether it is exact (R123, R124): the sum of the finite elements in units of the least
lowest-bit weight among the nonzero ones, rounded to 24 bits, to nearest even, where it needs more. -/
def checkOf (row : List Num) : CheckWeight × Bool :=
  let d := sumExact row
  let special := row.any fun x => !(isFin x)
  let low := row.foldl (fun (acc : Option Int) x => match x with
    | .fin _ m e => if m = 0 then acc else some (match acc with | some a => min a e | none => e)
    | _ => acc) none
  match low with
  | none => ({ special := special }, true)
  | some u =>
    let a := shiftInt d.m.natAbs (d.e - u)
    if a < 2 ^ 24 then (⟨decide (d.m < 0), a, u, special⟩, true)
    else
      let cut := Nat.log2 a - 23
      let r := rneDiv a (2 ^ cut)
      (if r = 2 ^ 24 then ⟨decide (d.m < 0), 2 ^ 23, u + Int.ofNat cut + 1, special⟩
        else ⟨decide (d.m < 0), r, u + Int.ofNat cut, special⟩, false)

/-- The tile with the check weights of its first `n` rows; a row, or half of a packed row, with no exact check weight makes
it a wide tile (R92, R123, R124). -/
def withChecks (n : Nat) (t : Tile) : Tile :=
  let cs := (upFrom 0 n).flatMap fun r => (upFrom 0 (if t.packed then 2 else 1)).map fun h =>
    checkOf ((upFrom 0 64).map fun x => decodeElem t.fmt (weightCode t t.fmt t.packed (r + 64 * h) x))
  { t with checks := cs.map Prod.fst, wide := cs.any fun c => !c.2 }

/-- The number in the check column for reduction index `k` (R92, R123). -/
def checkNum (t : Tile) (k : Nat) : Num :=
  let w := t.checks.getD (if t.packed then 2 * (k % 64) + k / 64 else k) {}
  .fin w.neg w.mag w.ex

/-- The tile an SLOAD names, read from the weight chute, with its check column (R94, R123, R348). -/
def loadTile (m : MatState) (woff wf soff : Nat) (packed : Bool) : Tile :=
  withChecks 64 { fmt := wf, packed := packed, rows := tgetN 0 m.weight (64 * woff) (64 * rowBytes wf packed)
                  scales := tgetN 0 m.weight (64 * soff) (64 * colScales wf packed) }

/-- The fault an SLOAD raises at the head of the queue, if any (R348). -/
def sloadFault (woff wf soff : Nat) (packed : Bool) : Option FaultName :=
  if wf = 0 || wf = 6 || 14 ≤ wf || (!(isBlock wf) && soff ≠ 0) || (packed && !(isFour wf)) then some .mmaFormat
  else if weightSize < 64 * woff + 64 * rowBytes wf packed ||
      weightSize < 64 * soff + 64 * colScales wf packed then some .mmaRange
  else none

/-- STATIONARY_LOAD_START: a load at the head of the queue leaves it once the shadow is EMPTY and the loader writes the
tile into the shadow of all four arrays (R94, R95, R98); a wide tile is counted (R124). -/
def loadStart (c : CoreId) (s : State) : State :=
  let m := (coreAt s c).mat
  match m.queue with
  | ⟨_, .sload woff wf soff packed⟩ :: _ =>
    if !(unitLive s c) || (coreAt s c).att.call.isSome then s
    else match sloadFault woff wf soff packed with
      | some f => matrixFault c f 0 (popMatrix c s)
      | none =>
        if m.shadow ≠ .empty then s
        else
          let t := loadTile m woff wf soff packed
          modMat (popMatrix c s) c fun m => { m with shadow := .filling, shadowTile := t
                                                     wideTiles := wrapAdd 32 m.wideTiles (b2n t.wide) }
  | _ => s

def execStationaryLoadStart (c : CoreId) (s : State) : Host.Outcome State Fault Refusal :=
  .next (coincide (.matrix c) (loadStart c) s)

/-- STATIONARY_LOAD_DONE: the shadow is READY (R95). -/
def execStationaryLoadDone (c : CoreId) (s : State) : Host.Outcome State Fault Refusal :=
  .next (if unitLive s c && (coreAt s c).mat.shadow = .filling then modMat s c fun m => { m with shadow := .ready } else s)

/-- The swap: the shadow tile becomes active and valid, the shadow EMPTY (R96). -/
def swapTile (m : MatState) : MatState :=
  { m with active := m.shadowTile, activeValid := true, shadow := .empty, shadowTile := {} }

/-- A table of free words, or bytes, at keys 0 to n - 1. -/
def freeWords (base n : Nat) : Table W32 :=
  (upFrom 0 n).filterMap fun i => if Config.freeWord (base + i) = 0 then none else some (i, Config.freeWord (base + i))
def freeBytes (base n : Nat) : Table Byte :=
  (upFrom 0 n).filterMap fun i => if Config.freeByte (base + i) = 0 then none else some (i, Config.freeByte (base + i))

/-- Free values that the chutes, accumulators, wide registers and predicates of a core take. -/
def coreFree : Nat := 786432

/-- Chutes and accumulators undefined (R133). -/
def freeChutes (d : Nat) (m : MatState) : MatState :=
  { m with weight := freeBytes d weightSize, act := freeBytes (d + weightSize) (4 * actSize), acc := freeWords d 65536 }

/-- The arrays after an attention call (R133): no tile is active, the shadow is EMPTY, chutes and accumulators are undefined. -/
def looseArrays (c : Nat) (s : State) : State :=
  { (modMat s c fun m => { freeChutes s.draws m with
      active := {}, activeValid := false, shadow := .empty, shadowTile := {} }) with draws := s.draws + coreFree }

/-! ### MMA_START -/

/-- Key of column `n` of accumulator row `r` of array `a` (R249). -/
def accKey (a r n : Nat) : Nat := (256 * a + r) * 64 + n

/-- K = 0 in overwrite mode (R118): columns 0 to N − 1 of the M rows of each enabled array are +0.0, or integer 0. -/
def zeroRows (op : MmaOp) (m : MatState) : MatState :=
  (arraysOf op.mask).foldl (fun m a =>
    (upFrom op.base op.m).foldl (fun m r =>
      { m with acc := (upFrom 0 op.n).foldl (fun t n => tput 0 t (accKey a r n) 0) m.acc
               intRow := tput false m.intRow (256 * a + r) (op.sfmt == 5) }) m) m

/-- Whether every row of an MMA is free of earlier MMAs and drains (R118). -/
def rowsFree (s : State) (c no : Nat) (op : MmaOp) : Bool :=
  (upFrom op.base op.m).all fun r => !(rowInFlight (coreAt s c).mat no r) && !(drainHold s c no r)

/-- The CHAIN_DESC that an attached chain of neither position raises as its MMA starts: its handle or the first defect of its
header (R203, R206, R347). -/
def badChain (s : State) (c : Nat) (r : ChainRef) : Option (ChainRef × Nat) :=
  let h := benchWord s c (128 * r.handle) 0
  match chainPosition s c r.handle with
  | none => some (r, 9)
  | some p =>
    if p < 2 then none
    else if 8 < fieldOf h 61 58 then some (r, 1)
    else if fieldOf h 39 32 ≠ 0 then some (r, 2)
    else some (r, 3)

/-- MMA_START: the MMA at the head of the queue is checked, and leaves the queue to stream (R91, R100); with M = 0 or
K = 0 it has its effect and retires (R118, R119). A chain of position 2 attached to it raises CHAIN_DESC (R347). -/
def mmaStart (c : CoreId) (s : State) : State :=
  let m := (coreAt s c).mat
  match m.queue with
  | ⟨no, .mma op⟩ :: _ =>
    if !(unitLive s c) || m.run.isSome || (coreAt s c).att.call.isSome then s
    else match mmaFault m op with
      | some f => matrixFault c f 0 (popMatrix c s)
      | none =>
        match firstSome (badChain s c) ([op.odd, op.prologue, op.epilogue].filterMap id) with
        | some (r, n) =>
          raise (.dressing c) { name := .chainDesc, reason := n }
            (modDrs (popMatrix c s) c fun d =>
              { d with fault := if d.fault.fault then d.fault else ⟨true, 1, n, 15, r.handle⟩ })
        | none => mmaGo c no op s
  | _ => s
where
  /-- The MMA passes its checks. -/
  mmaGo (c : CoreId) (no : Nat) (op : MmaOp) (s : State) : State :=
    let m := (coreAt s c).mat
    if op.m = 0 || op.k = 0 then
      if op.swap && m.shadow ≠ .ready then s
      else if op.k = 0 && !op.acc && !(rowsFree s c no op) then s
      else
        modMat (popMatrix c s) c fun m =>
          let m1 := if op.swap then swapTile m else m
          if op.k = 0 && !op.acc then zeroRows op m1 else m1
    else modMat (popMatrix c s) c fun m => { m with run := some ⟨no, op, 0⟩ }

def execMmaStart (c : CoreId) (s : State) : Host.Outcome State Fault Refusal := .next (coincide (.matrix c) (mmaStart c) s)

/-! ### Slices (R96, R100, R104, R106, R109, R695) -/

/-- The slice of row `m` of array `a` (R695). -/
def sliceOf (t : MatState) (op : MmaOp) (a m : Nat) : Slice :=
  let pos := slicePositions op.sfmt
  let o := actSize * a + 64 * op.source
  let sc := sliceScales op.sfmt
  { array := a
    data := tgetN 0 t.act (o + 64 * pos * m) (if op.sfmt = 9 || op.sfmt = 10 then 48 else 64 * pos)
    scales := tgetN 0 t.act (o + 64 * pos * op.m + sc * m) sc }

/-- Beats between row quarters by ramp code (R109). -/
def rampSpacing (code : Nat) : Nat := match code with | 0 => 2 | 1 => 8 | 2 => 16 | _ => 0

/-- The ramp that a first slice pays when the arrays are idle (R109, R110). -/
def rampUp (m : MatState) : MatState :=
  if m.idle then
    let beats := rampSpacing m.ramp * (4 - m.quarters)
    { m with idle := false, quarters := 4, ramps := wrapAdd 32 m.ramps 1, rampBeats := wrapAdd 32 m.rampBeats beats }
  else m

/-- ARRAY_SLICE_ENTER: the next slice of the running MMA enters every enabled array (R100), once its prologue has written
it (R175), its swap finds the shadow READY (R98), and no earlier drain still reads its row (R106). Under a mask of 0 every
array has a bubble: no valid slice enters, the beats are bubble beats, and idle arrays stay idle (DESIGN CHOICE, log entry
114: R104 and R109 leave it open whether such an MMA ramps). -/
def sliceEnter (c : CoreId) (s : State) : State :=
  let m := (coreAt s c).mat
  match m.run with
  | some q =>
    let bubble := modMat s c fun m => { m with bubbleBeats := wrapAdd 64 m.bubbleBeats 1 }
    if !(unitLive s c) then s
    else if prologuePending s c q.no q.row || (q.row = 0 && q.op.swap && m.shadow ≠ .ready) ||
        drainHold s c q.no (q.op.base + q.row) then bubble
    else
      modMat s c fun m =>
        let m0 := if q.row = 0 && q.op.swap then swapTile m else m
        let m1 := if q.op.mask = 0 then m0 else rampUp m0
        { m1 with
          flight := m1.flight ++ [⟨q.no, q.op, q.row, (arraysOf q.op.mask).map (fun a => sliceOf m1 q.op a q.row), m1.active⟩]
          run := if q.row + 1 < q.op.m then some { q with row := q.row + 1 } else none
          validBeats := wrapAdd 64 m1.validBeats (if q.op.mask = 0 then 0 else slicePositions q.op.sfmt)
          bubbleBeats := wrapAdd 64 m1.bubbleBeats (if q.op.mask = 0 then slicePositions q.op.sfmt else 0) }
  | none => s

def execArraySliceEnter (c : CoreId) (s : State) : Host.Outcome State Fault Refusal := .next (coincide (.matrix c) (sliceEnter c) s)

/-! ### Rows (R101, R102, R125, R147 to R153) -/

/-- Chunks of a pass: the reduction indices of each that contribute (R121, R147). -/
def chunksOf (op : MmaOp) : List (List Nat) :=
  if isPacked op.sfmt op.wfmt then [upFrom 0 (min op.k 64), upFrom 64 (op.k - 64)] else [upFrom 0 (min op.k 64)]

/-- The scale of reduction index `k` in a slice or a column, 1 when unscaled (R148). -/
def scaleAt (fmt : Nat) (bs : List Byte) (k : Nat) : Num :=
  if isBlock fmt then decodeScale fmt (bs.getD (k / 32) 0).toNat else .fin false 1 0

/-- One product with its block scales folded in (R145, R148): special cases come from the elements and from NaN scales. -/
def scaledProduct (a w sa sw : Num) : Num :=
  match sa, sw with
  | .nan, _ => .nan
  | _, .nan => .nan
  | _, _ => match mulNum a w with
    | .fin n m e => mulNum (.fin n m e) (mulNum sa sw)
    | x => x

/-- The products of a chunk for one column (R148). -/
def chunkProducts (op : MmaOp) (sl : Slice) (t : Tile) (ks : List Nat) (n : Nat) : List Num :=
  let p := isPacked op.sfmt op.wfmt
  let cb := colScales op.wfmt p
  let cs := (t.scales.drop (cb * n)).take cb
  ks.map fun k =>
    scaledProduct (decodeElem op.sfmt (elemCode op.sfmt sl.data k)) (decodeElem op.wfmt (weightCode t op.wfmt p k n))
      (scaleAt op.sfmt sl.scales k) (scaleAt op.wfmt cs k)

/-- The accumulator's next value for one chunk, and whether an INT32 update wrapped (R149, R150, R153). In an overwrite
pass the first update adds c to +0.0 as R149's formula does, so that a chunk sum of −0.0 is stored as +0.0 where its last
words, 'the first update stores c', would store −0.0 (DESIGN CHOICE, log entry 113). -/
def accUpdate (op : MmaOp) (ps : List Num) (acc : W32) : W32 × Bool :=
  if op.sfmt = 5 then
    let v := acc.toInt + chunkSumInt ps
    (BitVec.ofInt 32 v, v < -2147483648 || 2147483647 < v)
  else (add32 acc (if isHalf op.sfmt then chunkSum16 ps else chunkSum ps), false)

/-- Whether the tile was loaded in the layout that the MMA reads; else the pass's values are undefined (R91, R348 give no
result for the mismatch), and free values stand for them. -/
def tileMatches (op : MmaOp) (t : Tile) : Bool := t.fmt = op.wfmt && t.packed = isPacked op.sfmt op.wfmt

/-- Whether either operand is scaled: then a chunk has two segments (R147). -/
def scaledPair (op : MmaOp) : Bool := isBlock op.sfmt || isBlock op.wfmt

/-- Whether an error strikes half `h`, scale block `b` of a pass; a pair without scales has one block. -/
def strikes (op : MmaOp) (h b : Nat) (x : ArrayFault) : Bool :=
  b2n x.half = h && (!(scaledPair op) || x.block.val = b)

/-- The false product of an error in a column's sum, 64 being the check column; an integer for the INT8 pair. -/
def falseProduct (op : MmaOp) (n : Nat) (x : ArrayFault) : Option Num :=
  match x.err with
  | .sum col m e => if col.val = n then some (.fin (decide (m < 0)) m.natAbs (if op.sfmt = 5 then max e 0 else e)) else none
  | _ => none

/-- The false products of a column in half `h`, scale block `b`. -/
def falseProducts (op : MmaOp) (errs : List ArrayFault) (h b n : Nat) : List Num :=
  (errs.filter (strikes op h b)).filterMap (falseProduct op n)

/-- The products of a chunk as its column sums them: the false ones of an array's errors among them, with the scales of
their block. -/
def summedProducts (op : MmaOp) (sl : Slice) (t : Tile) (errs : List ArrayFault) (h : Nat) (ks : List Nat) (n : Nat) :
    List Num :=
  let cb := colScales op.wfmt (isPacked op.sfmt op.wfmt)
  let cs := (t.scales.drop (cb * n)).take cb
  chunkProducts op sl t ks n ++ (upFrom 0 2).flatMap fun b =>
    if b = 1 && !(scaledPair op) then []
    else (falseProducts op errs h b n).map fun p =>
      let k := 64 * h + 32 * b
      scaledProduct p (.fin false 1 0) (scaleAt op.sfmt sl.scales k) (scaleAt op.wfmt cs k)

/-- The word that a fold (or an update, when `upd`) of a column gives where an error strikes it. -/
def struckWord (errs : List ArrayFault) (h n : Nat) (upd : Bool) : Option W32 :=
  firstSome (fun (x : ArrayFault) => if b2n x.half ≠ h then none else match x.err with
    | .fold col v => if col.val = n && !upd then some v else none
    | .update col v => if col.val = n && upd then some v else none
    | .sum _ _ _ => none) errs

/-- A column's accumulator as a pass goes on: whether an INT32 update wrapped, and whether one became infinite or NaN. -/
structure ColAcc where
  acc : W32
  wrapped : Bool := false
  inf : Bool := false
  nan : Bool := false
  /-- Residue checks that did not hold, as (half, reason): 2 a fold or rounding, 3 an update (R644). -/
  fails : List (Nat × Nat) := []
  deriving DecidableEq, Repr

/-- Whether a word differs from the right one in the mod-3 residue of its significand (R644); one that is not finite differs
if it is not the same. -/
def residueDiffers (isInt : Bool) (w u : W32) : Bool :=
  if isInt then residue3 (w.toInt - u.toInt) ≠ 0
  else match num32 w, num32 u with
    | .fin a m e, .fin b k g => residue3 (addDyadic (dyadicOf a m e) (dyadicOf (!b) k g)).m ≠ 0
    | _, _ => w ≠ u

/-- The word of a chunk sum (R148, R150, R152). -/
def chunkWord (op : MmaOp) (ps : List Num) : W32 :=
  if op.sfmt = 5 then BitVec.ofInt 32 (chunkSumInt ps) else if isHalf op.sfmt then chunkSum16 ps else chunkSum ps

/-- The accumulator word of one column, with its flags, after one chunk update (R149, R165). -/
def ColAcc.next (x : ColAcc) (isInt : Bool) (v : W32) (wrapped : Bool) : ColAcc :=
  { x with
    acc := v, wrapped := x.wrapped || wrapped, inf := x.inf || (!isInt && isInf32 v && !(isInf32 x.acc))
    nan := x.nan || (!isInt && isNan32 v && !(isNan32 x.acc)) }

/-- One column of one row of one array after the pass (R102), with the errors of that array. -/
def columnWith (op : MmaOp) (sl : Slice) (t : Tile) (errs : List ArrayFault) (old : W32) (n : Nat) : ColAcc :=
  (chunksOf op).zipIdx.foldl (fun (x : ColAcc) p =>
      if errs.isEmpty then
        let r := accUpdate op (chunkProducts op sl t p.1 n) x.acc
        x.next (op.sfmt = 5) r.1 r.2
      else
        let ps := summedProducts op sl t errs p.2 p.1 n
        let u := accUpdate op ps x.acc
        let f := struckWord errs p.2 n false
        let g := match f with
          | some w => if op.sfmt = 5 then x.acc + w else add32 x.acc w
          | none => u.1
        let h := struckWord errs p.2 n true
        let foldBad := f.any fun w => residueDiffers (op.sfmt = 5) w (chunkWord op ps)
        let updateBad := h.any fun w => residueDiffers (op.sfmt = 5) w g
        let y := x.next (op.sfmt = 5) (h.getD g) u.2
        { y with fails := y.fails ++ ((if foldBad then [2] else []) ++ (if updateBad then [3] else [])).map fun r => (p.2, r) })
    { acc := if op.acc then old else 0 }

/-- One column of one row of one array after the pass, where no error strikes. -/
def columnResult (op : MmaOp) (sl : Slice) (t : Tile) (old : W32) (n : Nat) : ColAcc := columnWith op sl t [] old n

/-- Whether a row-and-chunk comparison is not made: some contributing product, in any of the 64 columns, is infinite or
NaN (R125). -/
def chunkSpecial (op : MmaOp) (sl : Slice) (t : Tile) (ks : List Nat) : Bool :=
  op.sfmt ≠ 5 && (upFrom 0 64).any fun n => (chunkProducts op sl t ks n).any fun p => !(isFin p)

/-! ### The check column (R123, R125, R126, R643, R644) -/

/-- What a failed comparison or residue check reports: array, half of a packed pass, scale block, and the reason field
(1 comparison, 2 fold or rounding residue, 3 accumulator residue). -/
structure ChkFail where
  array : Nat
  half : Bool
  block : Nat
  reason : Nat
  deriving DecidableEq, Repr

/-- The scale blocks of a chunk with their reduction indices; one block for a pair without scales (R125). -/
def chunkBlocks (op : MmaOp) (ks : List Nat) : List (Nat × List Nat) :=
  if scaledPair op then [(0, ks.filter fun k => k % 64 < 32), (1, ks.filter fun k => 32 ≤ k % 64)] else [(0, ks)]

/-- The products of a column before the block scales; column 64 is the check column. -/
def elementProducts (op : MmaOp) (sl : Slice) (t : Tile) (ks : List Nat) (n : Nat) : List Num :=
  let p := isPacked op.sfmt op.wfmt
  ks.map fun k => mulNum (decodeElem op.sfmt (elemCode op.sfmt sl.data k))
    (if n = 64 then checkNum t k else decodeElem op.wfmt (weightCode t op.wfmt p k n))

/-- A column's sum as the comparison takes it: exact, or the window sum of R152 for a 16-bit pair (R643). -/
def checkedSum (op : MmaOp) (ps : List Num) : Dyadic :=
  if isHalf op.sfmt then
    match maxLead ps with
    | none => ⟨0, 0⟩
    | some e => ⟨(windowSum (e - 57) ps).1, e - 57⟩
  else sumExact ps

/-- Whether the comparison of a scale block fails: the 64 columns' sum differs from the check column's, by more than the
tolerance T for a wide tile or a 16-bit pair (R126, R643). -/
def blockFails (op : MmaOp) (sl : Slice) (t : Tile) (errs : List ArrayFault) (h b : Nat) (ks : List Nat) : Bool :=
  let col (n : Nat) : List Num := elementProducts op sl t ks n ++ falseProducts op errs h b n
  let total := (upFrom 0 64).foldl (fun d n => addDyadic d (checkedSum op (col n))) ⟨0, 0⟩
  let chk := checkedSum op (col 64)
  let diff := addDyadic total ⟨-chk.m, chk.e⟩
  if diff.m = 0 then false
  else if !t.wide && !(isHalf op.sfmt) then true
  else match maxLead ((upFrom 0 65).flatMap col) with
    | none => true
    | some e => ltDyadic ⟨1, e - (if t.wide then 16 else 44)⟩ ⟨Int.ofNat diff.m.natAbs, diff.e⟩

/-- The scale block that a report names: 0 for a pair without scales (R136). -/
def reportBlock (op : MmaOp) (x : ArrayFault) : Nat := if scaledPair op then x.block.val else 0

/-- The residue mismatches of one array's chunk (R644), folds before updates; `acc` gives the accumulator words before the
pass. -/
def residueFails (f : FlightRow) (sl : Slice) (h : Nat) (errs : List ArrayFault) (acc : Nat → Nat → W32) : List ChkFail :=
  let bad (reason n : Nat) : Bool := (columnWith f.op sl f.tile errs (acc sl.array n) n).fails.contains (h, reason)
  let pick (upd : Bool) : List ChkFail := errs.filterMap fun x =>
    if b2n x.half ≠ h then none else match x.err with
      | .fold n _ => if !upd && n.val < f.op.n && bad 2 n then some ⟨sl.array, h = 1, reportBlock f.op x, 2⟩ else none
      | .update n _ => if upd && n.val < f.op.n && bad 3 n then some ⟨sl.array, h = 1, reportBlock f.op x, 3⟩ else none
      | .sum _ _ _ => none
  pick false ++ pick true

/-- The failures of a row in one array: per chunk the comparisons, which a special chunk does not have, then the residue
mismatches (R125, R126, R644). -/
def sliceFails (f : FlightRow) (errs : List ArrayFault) (acc : Nat → Nat → W32) (sl : Slice) : List ChkFail :=
  let mine := errs.filter fun x => x.array.val = sl.array
  (chunksOf f.op).zipIdx.flatMap fun p =>
    if p.1.isEmpty || !(tileMatches f.op f.tile) then []
    else
      (if chunkSpecial f.op sl f.tile p.1 then [] else (chunkBlocks f.op p.1).filterMap fun b =>
        if blockFails f.op sl f.tile mine p.2 b.1 b.2 then some ⟨sl.array, p.2 = 1, b.1, 1⟩ else none) ++
      residueFails f sl p.2 mine acc

/-- The failures of a row in ascending array order (R127, R134). -/
def rowFails (f : FlightRow) (errs : List ArrayFault) (acc : Nat → Nat → W32) : List ChkFail :=
  f.slices.flatMap (sliceFails f errs acc)

/-- The accumulator words that a row in flight meets, by array and column. -/
def rowAccs (m : MatState) (f : FlightRow) (a n : Nat) : W32 := tget 0 m.acc (accKey a (f.op.base + f.row) n)

/-! ### Rows land -/

/-- The flags that a column's updates set (R150, R165). -/
def accFlags (a : Nat) (x : ColAcc) (f : ArithFlags) : ArithFlags :=
  { f with accInf := f.accInf || x.inf, accNan := f.accNan || x.nan
           intOvf := if x.wrapped then setWith f.intOvf a else f.intOvf }

/-- The flags that a word set in a float accumulator row sets (R165). -/
def floatFlags (old new : W32) (f : ArithFlags) : ArithFlags :=
  accFlags 0 (({ acc := old } : ColAcc).next false new false) f

/-- Row `f` of one array written into the accumulator (R102, R178). -/
def writeRow (f : FlightRow) (errs : List ArrayFault) (draws : Nat) (m : MatState) (sl : Slice) : MatState :=
  let r := f.op.base + f.row
  let isInt := f.op.sfmt = 5
  let fits := tileMatches f.op f.tile
  let mine := errs.filter fun x => x.array.val = sl.array
  let m1 := (upFrom 0 f.op.n).foldl (fun m n =>
    let old := tget 0 m.acc (accKey sl.array r n)
    let x := if fits then columnWith f.op sl f.tile mine old n
      else ({ acc := if f.op.acc then old else 0 } : ColAcc).next isInt (Config.freeWord (draws + accKey sl.array 0 n)) false
    { m with acc := tput 0 m.acc (accKey sl.array r n) x.acc, arith := accFlags sl.array x m.arith }) m
  { m1 with
    intRow := tput false m1.intRow (256 * sl.array + r) isInt
    specialChunks := wrapAdd 32 m1.specialChunks
      ((chunksOf f.op).filter fun ks => !ks.isEmpty && chunkSpecial f.op sl f.tile ks).length }

/-- Record one failure (R127, R136). -/
def noteMismatch (f : FlightRow) (x : ChkFail) (m : MatState) : MatState :=
  let k := m.chk
  let wide := f.tile.wide || isHalf f.op.sfmt
  let n := satAdd 0xFFFF k.mismatches 1
  { m with chk := if k.mismatch then { k with mismatches := n }
    else ⟨n, x.array, f.op.base + f.row, x.half, x.block, wide, true⟩ }

/-- An array fenced after a failed check (R127, R647). -/
def fenceArray (c a : Nat) (s : State) : State :=
  let s1 := modMat s c fun m => { m with fenced := setWith m.fenced a }
  addLog { kind := 7, fault := 10, core := c, array := a, claim := coreOwner s c }
    (modRas s1 fun r => { r with fence := true })

/-- The failures of a row: counted in ascending array order, one fault, the arrays fenced (R127, R134). -/
def mismatches (c : CoreId) (f : FlightRow) (xs : List ChkFail) (s : State) : State :=
  match xs with
  | [] => s
  | x :: _ =>
    let s1 := modMat s c fun m => xs.foldl (fun m y => noteMismatch f y m) m
    let s2 := matrixFault c .checkMismatch x.reason s1
    (arraysOf f.op.mask).foldl (fun s a => if xs.any (fun y => y.array = a) then fenceArray c a s else s) s2

/-- ARRAY_ROW_COMPLETE: the oldest row in flight lands in its accumulator row (R101, R102), and the check column and the
residue checks compare it (R125 to R127, R643, R644); the errors that a fault of the hardware makes are the command's
input. -/
def rowComplete (c : CoreId) (errs : List ArrayFault) (s : State) : State :=
  match (coreAt s c).mat.flight with
  | f :: rest =>
    if !(unitLive s c) then s
    else
      let free := if tileMatches f.op f.tile then 0 else 65536
      let s1 := { (modMat s c fun m =>
        f.slices.foldl (writeRow f errs s.draws) { m with flight := rest }) with draws := s.draws + free }
      mismatches c f (rowFails f errs (rowAccs (coreAt s c).mat f)) s1
  | [] => s

def execArrayRowComplete (c : CoreId) (faults : List ArrayFault) (s : State) : Host.Outcome State Fault Refusal :=
  .next (coincide (.matrix c) (rowComplete c faults) s)

/-- ARRAY_IDLE: the idle count has expired with no row in flight; the array is idle and disables a row quarter, rows 48 to
63 first (R108); the event again takes the next quarter. -/
def execArrayIdle (c : CoreId) (s : State) : Host.Outcome State Fault Refusal :=
  .next (if (coreAt s c).mat.flight.isEmpty && beatsRun s c then
    modMat s c fun m => { m with idle := true, quarters := m.quarters - 1 } else s)

end Sys2Proof.Machine
end

