-- ==== Sys2Proof/Machine/Fill.lean ====
section
/-! DEFINITION. The feeder: chute fills in walk, transposed and convolution modes (03 R128 to R132, R695, R696; 07 R251,
R259, R260; 09 R351, R352; 17 R639). -/

namespace Sys2Proof.Machine

/-- What one fill reads and writes. Reads are (offset, bytes) in the order of the walk; writes are chute areas: the array
(none for the weight chute), the byte offset in the chute, and how the bytes follow from the bytes read. -/
structure FillPlan where
  reads : List (Nat × Nat)
  scaleReads : List (Nat × Nat) := []
  mark : Nat := 0
  cls : Nat := 0
  areas : List (Option Nat × Nat × List Byte)
  deriving DecidableEq, Repr

/-- FEED_DESC of the feeder. -/
def feedFault : FaultInfo := { name := .feedDesc }

/-- The arrays that a FILL's target names: the weight chute, one activation chute, or all four (R351). -/
def fillArrays (target : Nat) : List (Option Nat) :=
  if target = 5 then [none] else if target = 4 then (upFrom 0 4).map some else [some target]

/-- Bytes of the chute of a target. -/
def chuteSize (target : Nat) : Nat := if target = 5 then weightSize else actSize

/-- MXFP6 data as consecutive 48 B slices, each at the start of its own 64 B position; the bytes between them are not
written (R352): the pieces with their byte offsets. -/
def sixSlices : Nat → Nat → List Byte → List (Nat × List Byte)
  | 0, _, _ => []
  | n + 1, o, bs => (o, bs.take 48) :: sixSlices n (o + 64) (bs.drop 48)

/-- The pieces of one part of a fill's output, with their byte offsets. -/
def placePart (fmt o : Nat) (part : List Byte) : List (Nat × List Byte) :=
  if fmt = 9 || fmt = 10 then sixSlices (part.length / 48) o part else [(o, part)]

/-- Chute bytes that `n` bytes of walk output take (R352). -/
def chuteBytes (fmt n : Nat) : Nat := if fmt = 9 || fmt = 10 then 64 * (n / 48) else n

/-- The addresses of a walk or of transposed blocks, as the bytes leave for the chute; none when the shape is not one of
R352, R259 and R260. -/
def fillData (s : State) (c mode elem : Nat) (dims : List (Nat × Int)) (base : Nat) :
    Option (List (Nat × Nat) × List Byte) :=
  let es := elemSize elem
  let inBench (a : Int) (n : Nat) : Bool := decide (0 ≤ a) && a.toNat + n ≤ benchSize
  match mode, dims with
  | 1, d0 :: d1 :: outer =>
    if d0.1 ≠ 64 || d1.1 ≠ 64 || d0.2 ≠ Int.ofNat es then none
    else
      let blocks := walkFrom outer (Int.ofNat base)
      let rows := blocks.map fun b => (upFrom 0 64).map fun i => b + Int.ofNat i * d1.2
      let rb := transRowBytes elem
      if rows.all fun r => r.all fun a => inBench a rb && a.toNat % 512 + rb ≤ 512 then
        some (rows.flatMap (elemRanges rb),
          rows.flatMap fun r => (transposed elem (r.map fun a => benchBytes s c a.toNat rb)).flatten)
      else none
  | _, _ =>
    let as := walkFrom dims (Int.ofNat base)
    if as.all fun a => inBench a es then some (elemRanges es as, benchGather s c es as) else none

/-- Bytes that a walk of these sizes gives; transposed blocks give the same. -/
def walkBytes (elem : Nat) (dims : List (Nat × Int)) : Nat := dims.foldl (fun n d => n * d.1) (elemSize elem)

/-- The four dimensions of a fill descriptor. -/
def fillDims (w : List W64) : List (Nat × Int) :=
  [(fieldOf (wordAt w 1) 63 48 + 1, signedOf 32 (fieldOf (wordAt w 2) 63 32)),
   (fieldOf (wordAt w 1) 47 32 + 1, signedOf 32 (fieldOf (wordAt w 2) 31 0)),
   (fieldOf (wordAt w 1) 31 16 + 1, signedOf 32 (fieldOf (wordAt w 3) 63 32)),
   (fieldOf (wordAt w 1) 15 0 + 1, signedOf 32 (fieldOf (wordAt w 3) 31 0))]

/-- A fill in walk or transposed mode (R351, R352): none for a descriptor that raises FEED_DESC. -/
def walkPlan (s : State) (c : Nat) (op : FillOp) (w : List W64) : Option FillPlan :=
  let elem := fieldOf (wordAt w 4) 63 62
  let fmt := fieldOf (wordAt w 4) 61 58
  let mark := fieldOf (wordAt w 4) 57 56
  let dims := fillDims w
  let size := walkBytes elem dims
  let parts := if op.target = 4 then 4 else 1
  let scales := wordAt w 5 ≠ 0
  let sBytes := if scales then fieldOf (wordAt w 6) 63 48 else 0
  let sOff := 64 * fieldOf (wordAt w 6) 47 36
  let rsv := fieldOf (wordAt w 4) 51 0 ≠ 0 || fieldOf (wordAt w 6) 35 0 ≠ 0 || wordAt w 7 ≠ 0
  if rsv || mark = 3 || 14 ≤ fmt || !(walkFits elem dims) || (op.target < 5 && 2048 ≤ op.coff)
      || ((fmt = 9 || fmt = 10) && (op.mode ≠ 0 || size % (48 * parts) ≠ 0))
      || (op.target = 4 && (size % 256 ≠ 0 || fieldOf (wordAt w 6) 63 48 % 4 ≠ 0))
      || chuteSize op.target < 64 * op.coff + chuteBytes fmt (size / parts)
      || (sBytes ≠ 0 && chuteSize op.target < sOff + sBytes / parts) then none
  else match ownOffset c (wordAt w 0), (if scales then ownOffset c (wordAt w 5) else some 0) with
    | some o, some so =>
      if benchSize < so + sBytes then none
      else match fillData s c op.mode elem dims (o + fieldOf op.reg 22 0) with
        | none => none
        | some (reads, data) =>
          let sc := benchBytes s c so sBytes
          let n := size / parts
          let m := sBytes / parts
          let areas := (fillArrays op.target).flatMap fun a =>
            let i := match a with
              | some x => if op.target = 4 then x else 0
              | none => 0
            (placePart fmt (64 * op.coff) ((data.drop (i * n)).take n) ++
              (if sBytes = 0 then [] else [(sOff, (sc.drop (i * m)).take m)])).map fun x => (a, x.1, x.2)
          some { reads := reads, scaleReads := if sBytes = 0 then [] else [(so, sBytes)], mark := mark
                 cls := fieldOf (wordAt w 4) 55 52, areas := areas }
    | _, _ => none

/-! ### Convolution (R128 to R132, R696) -/

/-- The fields of a feeder descriptor. -/
structure Feeder where
  inH : Nat
  inW : Nat
  channels : Nat
  fmt : Nat
  kH : Nat
  kW : Nat
  sH : Nat
  sW : Nat
  dH : Nat
  dW : Nat
  top : Nat
  left : Nat
  outH : Nat
  outW : Nat
  batch : Nat
  pixel : Nat
  rowSt : Nat
  batchSt : Nat
  blockSt : Nat
  deriving DecidableEq, Repr

def feederOf (w : List W64) : Feeder :=
  { inH := fieldOf (wordAt w 1) 63 48, inW := fieldOf (wordAt w 1) 47 32, channels := fieldOf (wordAt w 1) 31 16
    fmt := fieldOf (wordAt w 1) 15 12, kH := fieldOf (wordAt w 2) 63 56, kW := fieldOf (wordAt w 2) 55 48
    sH := fieldOf (wordAt w 2) 47 40, sW := fieldOf (wordAt w 2) 39 32, dH := fieldOf (wordAt w 2) 31 24
    dW := fieldOf (wordAt w 2) 23 16, top := fieldOf (wordAt w 2) 15 8, left := fieldOf (wordAt w 2) 7 0
    outH := fieldOf (wordAt w 3) 63 48, outW := fieldOf (wordAt w 3) 47 32, batch := fieldOf (wordAt w 3) 31 16
    pixel := fieldOf (wordAt w 4) 63 32, rowSt := fieldOf (wordAt w 4) 31 0, batchSt := fieldOf (wordAt w 5) 63 32
    blockSt := fieldOf (wordAt w 5) 31 0 }

/-- Whether every field of a feeder descriptor lies in its range (R128, R132). -/
def feederFits (f : Feeder) : Bool :=
  1 ≤ f.inH && 1 ≤ f.inW && 1 ≤ f.channels && (1 ≤ f.fmt && f.fmt ≤ 5 || 7 ≤ f.fmt && f.fmt ≤ 13) &&
    1 ≤ f.kH && f.kH ≤ 16 && 1 ≤ f.kW && f.kW ≤ 16 && 1 ≤ f.sH && f.sH ≤ 8 && 1 ≤ f.sW && f.sW ≤ 8 &&
    1 ≤ f.dH && f.dH ≤ 8 && 1 ≤ f.dW && f.dW ≤ 8 && f.top ≤ 15 && f.left ≤ 15 &&
    1 ≤ f.outH && 1 ≤ f.outW && 1 ≤ f.batch

/-- Bytes of one stored slice, and channels per block (R696). -/
def feedSlice (fmt : Nat) : Nat := if isHalf fmt then 128 else if fmt = 9 || fmt = 10 then 48 else 64
def feedChannels (fmt : Nat) : Nat := if isFour fmt then 128 else 64

/-- Where the slice of position `p` lies, as an offset from base; none for a zero slice (R130, R131). -/
def slicePlace (f : Feeder) (t b p : Nat) : Option Nat :=
  let n := p / (f.outH * f.outW)
  let oy := p / f.outW % f.outH
  let ox := p % f.outW
  let iy : Int := Int.ofNat (oy * f.sH + t / f.kW * f.dH) - Int.ofNat f.top
  let ix : Int := Int.ofNat (ox * f.sW + t % f.kW * f.dW) - Int.ofNat f.left
  if f.batch * f.outH * f.outW ≤ p || iy < 0 || Int.ofNat f.inH ≤ iy || ix < 0 || Int.ofNat f.inW ≤ ix then none
  else some (n * f.batchSt + iy.toNat * f.rowSt + ix.toNat * f.pixel + b * f.blockSt)

/-- A slice with the channels at and beyond the input's zeroed (R131). -/
def maskSlice (f : Feeder) (b : Nat) (bs : List Byte) : List Byte :=
  let w := feedChannels f.fmt
  packElems f.fmt ((upFrom 0 w).map fun i => if w * b + i < f.channels then elemCode f.fmt bs i else 0)

/-- A convolution fill: what is read, and array a's slices and scales (R130, R696). The test of R132 'a multiple of the
slice size' is made on the bench offset, not on the 64-bit place address, whose core field is no multiple of 48 (DESIGN
CHOICE, log entry 116); a scale_base of 0 under a block format is offset 0 of the own bench, since R128 lets the field be 0
and R132 refuses a nonzero one only (DEDUCED, log entry 39). -/
def convPlan (s : State) (c : Nat) (op : FillOp) (w : List W64) : Option FillPlan :=
  let f := feederOf w
  let sz := feedSlice f.fmt
  let sc := sliceScales f.fmt
  let cb := (f.channels + feedChannels f.fmt - 1) / feedChannels f.fmt
  let p0 := fieldOf op.reg 39 0
  let t := fieldOf op.reg 47 40
  let b := fieldOf op.reg 57 48
  let pos := 64 * slicePositions f.fmt
  let rsv := fieldOf (wordAt w 1) 11 0 ≠ 0 || fieldOf (wordAt w 3) 15 0 ≠ 0 || wordAt w 7 ≠ 0
  if rsv || !(feederFits f) || f.kH * f.kW ≤ t || cb ≤ b || 2048 ≤ op.coff
      || actSize < 64 * op.coff + (pos + sc) * op.m then none
  else match ownOffset c (wordAt w 0), (if wordAt w 6 = 0 then some 0 else ownOffset c (wordAt w 6)) with
    | some base, some sb =>
      let place (a m : Nat) : Option Nat := slicePlace f t b (p0 + a * op.m + m)
      let all := (upFrom 0 4).flatMap fun a => (upFrom 0 op.m).filterMap fun m => place a m
      if base % sz ≠ 0 || all.any (fun o => (base + o) % sz ≠ 0) then none
      else
        let data (a m : Nat) : List Byte := match place a m with
          | some o => maskSlice f b (benchBytes s c (base + o) sz)
          | none => copies sz 0
        let scale (a m : Nat) : List Byte := match place a m with
          | some o => benchBytes s c (sb + o / sz * sc) sc
          | none => copies sc (if f.fmt = 13 then 0x78 else 0x7F)
        some {
          reads := all.map fun o => (base + o, sz)
          scaleReads := if sc = 0 then [] else all.map fun o => (sb + o / sz * sc, sc)
          areas := (upFrom 0 4).flatMap fun a =>
            (upFrom 0 op.m).flatMap fun m =>
              (some a, 64 * op.coff + pos * m, data a m) ::
                (if sc = 0 then [] else [(some a, 64 * op.coff + pos * op.m + sc * m, scale a m)]) }
    | _, _ => none

/-! ### The fill itself -/

/-- Whether the running MMA still has to read a byte of an activation chute range (R251). -/
def stillRead (m : MatState) (a o n : Nat) : Bool :=
  match m.run with
  | some q =>
    let pos := 64 * slicePositions q.op.sfmt
    let sc := sliceScales q.op.sfmt
    let base := 64 * q.op.source
    let meets (x y : Nat) : Bool := x < o + n && o < y
    inSet q.op.mask a && (meets (base + pos * q.row) (base + pos * q.op.m) ||
      meets (base + pos * q.op.m + sc * q.row) (base + (pos + sc) * q.op.m))
  | none => false

/-- The fill waits for an earlier MMA to read what it overwrites (R251); loads have read their tile when they start. -/
def fillWaits (m : MatState) (p : FillPlan) : Bool :=
  p.areas.any fun x => match x.1 with
    | some a => stillRead m a x.2.1 x.2.2.length
    | none => false

/-- Bytes written into chutes. -/
def writeAreas (m : MatState) : List (Option Nat × Nat × List Byte) → MatState
  | [] => m
  | (a, o, bs) :: xs => writeAreas (match a with
      | some i => { m with act := tputN 0 m.act (actSize * i + o) bs }
      | none => { m with weight := tputN 0 m.weight o bs }) xs

/-- The areas with undefined bytes, from draw `d` (R639). -/
def freeAreas (d : Nat) : List (Option Nat × Nat × List Byte) → List (Option Nat × Nat × List Byte)
  | [] => []
  | (a, o, bs) :: xs =>
    (a, o, (upFrom d bs.length).map Config.freeByte) :: freeAreas (d + bs.length) xs

/-- The distinct lines of 512 B of a list of ranges: one access of the port each (R252, R260). -/
def lineCount (rs : List (Nat × Nat)) : Nat :=
  (rs.foldl (fun acc r => (unitsIn 512 r.1 r.2).foldl (fun a x => if a.contains x then a else x :: a) acc)
    ([] : List Nat)).length

/-- What the reads of an item meet. -/
inductive ReadEnd where
  | all
  | hold (slot : Nat)
  | stay
  | err (f : FaultInfo)
  deriving DecidableEq, Repr

/-- A read taken: its bytes, and the seals of the tiles it touches. -/
def FillProg.took (s : State) (c : Nat) (r : Nat × Nat) (g : FillProg) : FillProg :=
  { g with
    done := g.done + 1
    bytes := g.bytes ++ (upFrom r.1 r.2).zip (benchBytes s c r.1 r.2)
    seals := g.seals ++ (unitsIn 4096 r.1 r.2).map fun t => (t, tget none (coreAt s c).bench.seals t) }

/-- The bench of a core as a fill has read it. -/
def asRead (s : State) (c : Nat) (g : FillProg) : State :=
  modBench s c fun b => { b with
    bytes := g.bytes.foldl (fun m e => tput 0 m e.1 e.2) b.bytes
    seals := g.seals.foldl (fun m e => tput none m e.1 e.2) b.seals }

/-- The reads of a fill in walk order, up to one that must wait; a slot is emptied at the last read of it (R293, R294). -/
def takeReads (c : CoreId) (mark : Nat) : List (Nat × Nat) → FillProg → State → FillProg × State × ReadEnd
  | [], g, s => (g, s, .all)
  | r :: rs, g, s =>
    match if mark = 0 then none else slotsBlock s c (.matrix c) false (unitsIn 1024 r.1 r.2) with
    | some slot => (g, s, .hold slot)
    | none => match benchGate s c r.1 r.2 true with
      | .wait => (g, s, .stay)
      | .err f => (g, s, .err f)
      | .go =>
        let free := if mark = 2 then (unitsIn 1024 r.1 r.2).filter fun x => !((slotsOf rs).contains x) else []
        takeReads c mark rs (g.took s c r) (setTags s c false free)

/-- The fill has read everything: it verifies the sealed tiles that it read whole, and writes its chute areas (R639). -/
def doFill (c : CoreId) (p : FillPlan) (seen s : State) : State :=
  let s1 := countPort c .pArray (lineCount (p.reads ++ p.scaleReads)) (unhold (popMatrix c s) c (.matrix c))
  if sealBroken seen c (p.reads ++ p.scaleReads) then
    let bytes := p.areas.foldl (fun n x => n + x.2.2.length) 0
    raise (.matrix c) { name := .tileCrc, reason := 2 }
      { (modMat s1 c fun m => writeAreas m (freeAreas s.draws p.areas)) with draws := s.draws + bytes }
  else modMat s1 c fun m => writeAreas m p.areas

/-- The plan of a fill from its descriptor. -/
def fillPlan (s : State) (c : Nat) (op : FillOp) (w : List W64) : Option FillPlan :=
  if op.mode = 2 then convPlan s c op w else walkPlan s c op w

/-- The fill at the head of the queue reads on, from what it has read. -/
def fillOn (c : CoreId) (op : FillOp) (g : FillProg) (s : State) : State :=
  let bad (f : FaultInfo) (t : State) : State :=
    raiseBench (.matrix c) .pArray c (fieldOf f.address 51 0) f (unhold (popMatrix c t) c (.matrix c))
  match fillPlan (asRead s c g) c op g.words with
  | none => raise (.matrix c) feedFault (popMatrix c s)
  | some p =>
    if fillWaits (coreAt s c).mat p then s
    else
      let keep (x : FillProg) (t : State) : State := modMat t c fun m => { m with fill := some x }
      match takeReads c p.mark (p.reads.drop g.done) g s with
      | (x, t, .hold slot) => holdItem (keep x t) c (.matrix c) .pArray slot false p.cls
      | (x, t, .stay) => keep x t
      | (_, t, .err f) => bad f t
      | (x, t, .all) => match gates (fun o n => benchGate t c o n true) p.scaleReads with
        | .err f => bad f t
        | .wait => keep x t
        | .go =>
          let seen := asRead t c x
          doFill c ((fillPlan seen c op x.words).getD p) seen t

/-- FILL_START: the fill at the head of the queue begins, or one that waits on a slot reads on, once R251 lets it write. -/
def fillStart (c : CoreId) (s : State) : State :=
  let k := coreAt s c
  match k.mat.queue with
  | ⟨_, .fill op⟩ :: _ =>
    if !(unitLive s c) || k.att.call.isSome then s
    else match k.mat.fill with
      | some g => fillOn c op g s
      | none => match benchGate s c (64 * op.dh) 64 true with
        | .err f => raiseBench (.matrix c) .pArray c (fieldOf f.address 51 0) f (popMatrix c s)
        | .wait => s
        | .go => fillOn c op { words := benchWords s c (64 * op.dh) 8 } s
  | _ => s

def execFillStart (c : CoreId) (s : State) : Host.Outcome State Fault Refusal := .next (coincide (.matrix c) (fillStart c) s)

end Sys2Proof.Machine
end

