-- ==== Sys2Proof/Machine/MemOps.lean ====
section
/-! DEFINITION. Errors found on reads (17 R631 to R636), and the bank-side operations of the gallery (07 R264 to R275). -/

namespace Sys2Proof.Machine

/-! ### Errors of memory words -/

/-- MEM_UE reasons by memory class (R659). -/
def classReason (k : Nat) : Nat :=
  match k with
  | 0 => 1 | 1 => 2 | 2 => 3 | 3 => 4 | 4 => 6 | 5 => 7 | 6 => 8 | _ => 10

/-- The unit whose hard words are counted (R636): quad q, gallery bank 32 + b, DRAM region 544 + r. -/
def hardLimit (unit : Nat) : Nat := if unit < 544 then 8 else 64

/-- A unit is withdrawn (R636); a log entry of kind 9 says so. -/
def withdrawUnit (unit : Nat) (s : State) : State :=
  let s1 := modRas s fun r =>
    { r with
      withdrawn := true
      withdrawnRec := true
      quadsWithdrawn := if unit < 32 then setWith r.quadsWithdrawn unit else r.quadsWithdrawn
      galWithdrawn := if 32 ≤ unit && unit < 544 then setWith r.galWithdrawn (unit - 32) else r.galWithdrawn
      dramWithdrawn := if 544 ≤ unit then setWith r.dramWithdrawn (unit - 544) else r.dramWithdrawn }
  addLog { kind := 9, cls := if unit < 32 then 1 else if unit < 544 then 3 else 6 } s1

/-- Whether a unit is withdrawn already. -/
def isWithdrawn (s : State) (unit : Nat) : Bool :=
  if unit < 32 then inSet s.ras.quadsWithdrawn unit
  else if unit < 544 then inSet s.ras.galWithdrawn (unit - 32) else inSet s.ras.dramWithdrawn (unit - 544)

/-- A hard error of memory class `k` in a unit: counted for `key`, a core of a quad or the bank or region itself, logged, and
the unit withdrawn at its threshold (R636, entry 158). -/
def noteHard (k unit key : Nat) (address : W64) (s : State) : State :=
  let s1 := countErr k (fun c => { c with hard := satAdd 0xFFFF c.hard 1 }) s
  let s2 := addLog { kind := 1, cls := k, address := address, detail := Config.freeDetail s1.draws &&& 0xFFFFFFFFFFFF }
    { s1 with draws := s1.draws + 1 }
  let s3 := modRas s2 fun r => { r with hardWords := tmod 0 r.hardWords key (fun n => n + 1) }
  if hardLimit unit ≤ tget 0 s3.ras.hardWords key && !(isWithdrawn s3 unit) then withdrawUnit unit s3 else s3

/-- What a word's last correction becomes at a correction at `now`: 1 for a hard word, else the time + 2; and whether it is the
second within 24 h, which is a hard error (R636). -/
def correction (now old : Nat) : Nat × Bool :=
  if old = 1 then (1, false)
  else if 2 ≤ old && now ≤ old - 2 + 86400000000000 then (1, true)
  else (now + 2, false)

/-- A corrected error of a word (R631, R636). -/
def noteCorrected (k unit key : Nat) (hard : Bool) (address : W64) (s : State) : State :=
  let s1 := noteCe k s
  if hard then noteHard k unit key address s1 else s1

/-- A correction met in a bench word, a gallery word or a DRAM unit. -/
def correctedBench (c w : Nat) (s : State) : State :=
  let n := correction s.now (tget 0 (coreAt s c).bench.corrected w)
  noteCorrected 1 (quadOf c) (1024 + c) n.2 (benchPlace c (8 * w)) (modBench s c fun b => { b with corrected := tput 0 b.corrected w n.1 })
def correctedGal (w : Nat) (s : State) : State :=
  let n := correction s.now (tget 0 s.gallery.corrected w)
  noteCorrected 3 (32 + galBank (8 * w)) (32 + galBank (8 * w)) n.2 (galPlace (8 * w))
    { s with gallery := { s.gallery with corrected := tput 0 s.gallery.corrected w n.1 } }
def correctedDram (u : Nat) (s : State) : State :=
  let n := correction s.now (tget 0 s.dram.corrected u)
  noteCorrected 6 (544 + dramRegion (64 * u)) (544 + dramRegion (64 * u)) n.2 (dramPlace (64 * u))
    { s with dram := { s.dram with corrected := tput 0 s.dram.corrected u n.1 } }

/-- A word rewritten with poison (R635). -/
def poisonBench (c w : Nat) (s : State) : State := modBench s c fun b => { b with poison := tput false b.poison w true }
def poisonGal (w : Nat) (s : State) : State :=
  { s with gallery := { s.gallery with poison := tput false s.gallery.poison w true } }
def poisonDram (u : Nat) (s : State) : State :=
  { s with dram := { s.dram with poison := tput false s.dram.poison u true
                                 ueUnits := (u, s.now) :: s.dram.ueUnits.filter fun x =>
                                   x.1 ≠ u && s.now ≤ x.2 + 1000000000 } }

/-- A fault against the claim that owns a memory (R632); with no owner only the error registers note it. -/
def raiseOwner (k : Option Nat) (e : Engine) (i : FaultInfo) (s : State) : State :=
  match k with
  | some n => raiseFor n e i s
  | none => noteFault none e i s

/-! ### Accumulates and turn counters (R267 to R271) -/

/-- One element, and the event of an overflow from finite values or a wrap (R267). -/
def accElem (kind : AccKind) (m v : W32) : W32 × Bool :=
  match kind with
  | .fadd =>
    let r := add32 m v
    (r, isInf32 r && isFin (num32 m) && isFin (num32 v))
  | .fmax => (max32 m v, false)
  | .fmin => (min32 m v, false)
  | .iadd =>
    let x := m.toInt + v.toInt
    (m + v, decide (x < -2147483648) || decide (2147483647 < x))
  | .imax => (if m.toInt < v.toInt then v else m, false)
  | .imin => (if v.toInt < m.toInt then v else m, false)

/-- A 32-bit word from four bytes. -/
def word32 (bs : List Byte) : W32 := BitVec.ofNat 32 (leNat (bs.take 4))

/-- Elements in ascending address (R267): the bytes to write, and whether any element had an event. -/
def accBytes (kind : AccKind) : Nat → List Byte → List Byte → List Byte × Bool
  | 0, _, _ => ([], false)
  | n + 1, old, data =>
    let x := accElem kind (word32 old) (word32 data)
    let r := accBytes kind n (old.drop 4) (data.drop 4)
    (leBytes 4 x.1.toNat ++ r.1, x.2 || r.2)

def turnAt (s : State) (t : Nat) : TurnCounter := tget {} s.gallery.turns t
def setTurn (s : State) (t : Nat) (v : TurnCounter) : State :=
  { s with gallery := { s.gallery with turns := tput {} s.gallery.turns t v } }

/-- The core on whose behalf an engine makes gallery requests (R267): a core mover's own core, and for a hub mover the core
that posted its list. -/
def eventCore (s : State) (e : Engine) : Option Nat :=
  match e with
  | .sequencer c | .matrix c | .dressing c | .coreMover c _ | .netPort c => some c.val
  | .hubMover n => match (tget {} s.hubMovers n.val).lists with
    | l :: _ => some l.core
    | [] => none
  | _ => none

/-- The event bit of an acknowledgement sets gal_event of that core (R267). -/
def noteEvent (e : Engine) (ev : Bool) (s : State) : State :=
  match ev, eventCore s e with
  | true, some c => modMat s c fun m => { m with arith := { m.arith with galEvent := true } }
  | _, _ => s

/-- A GAL_OP fault with its reason (R275). -/
def galOp (reason o : Nat) : FaultInfo := { name := .galOp, reason := reason, address := galPlace o }

/-- SYNC_RANGE of an engine for an object of a kind (R303), recorded in its core's CORE_SYNC_FAULT (R331). -/
def outOfRange (k : Nat) (e : Engine) (kind object : Nat) (s : State) : State :=
  raiseFor k e { name := .syncRange } (match e with
    | .sequencer c => recordSync s c 2 0 kind object 0
    | .matrix c => recordSync s c 2 1 kind object 0
    | .dressing c => recordSync s c 2 2 kind object 0
    | .coreMover c m1 => recordSync s c 2 (if m1 then 4 else 3) kind object 0
    | .netPort c => recordSync s c 2 5 kind object 0
    | _ => s)

/-- SYNC_RANGE of an engine for turn counter `t`, an object of another kind. -/
def turnOutOfRange (k : Nat) (e : Engine) (t : Nat) (s : State) : State := outOfRange k e 3 t s

/-- The claim whose task takes the fault of a request: the requester's, or for an engine of another module the claim that
owns the bank (R275). -/
def requester (s : State) (k : Option Nat) (e : Engine) : Option Nat :=
  match engineClaim s e with
  | some q => some q
  | none => k

/-- The claim that owns a turn counter. -/
def turnOwner (s : State) (t : Nat) : Option Nat := ownerBy s fun q => q.turnBase ≤ t && t < q.turnBase + q.turnCount

/-- The turn of a contributor ends (R269); a round's tally add is an operation of the counter's claim (R303). -/
def endTurn (e : Engine) (t : Nat) (s : State) : State :=
  let x := turnAt s t
  if x.next + 1 = x.count then
    let s1 := setTurn s t { x with owner := none, next := 0, rounds := wrapAdd 32 x.rounds 1 }
    let o := turnOwner s t
    if !x.tallyEn then s1
    else if o.any (fun k => ownsTally s k x.tally) then tallyAdd s1 x.tally 1
    else match requester s o e with
      | some k => outOfRange k e 1 x.tally s1
      | none => s1
  else setTurn s t { x with owner := none, next := x.next + 1 }

/-- What stands before an accumulate (R267, R269, R275): it may go, is not due yet, waits for a bank, or is a fault. -/
inductive AccGate where
  | go
  | notDue (t : Nat)
  | wait
  | err (i : FaultInfo)
  deriving DecidableEq, Repr

/-- The turn part of R269: the fault, or whether the request is due. -/
def turnGate (s : State) (r : AccReq) : AccGate :=
  match r.turn with
  | none => .go
  | some t =>
    let x := turnAt s t.counter.val
    if x.count ≤ t.contributor then .err (galOp 1 r.offset)
    else if t.counter.val / 64 ≠ galSlice r.offset then .err (galOp 2 r.offset)
    else if t.contributor ≠ x.next then .notDue t.counter.val
    else if x.owner.isSome && x.owner ≠ some r.engine then .err (galOp 3 r.offset)
    else .go

/-- All that stands before an accumulate by claim `k`. One of no data reads nothing, but its bank must be the claim's. -/
def accGate (s : State) (k : Option Nat) (r : AccReq) : AccGate :=
  if r.offset % 4 ≠ 0 || r.data.length % 4 ≠ 0 then .err (galOp 9 r.offset)
  else match turnGate s r with
    | .go => match galGate s k r.offset (max 1 r.data.length) (!r.data.isEmpty) with
      | .go => .go
      | .wait => .wait
      | .err f => .err f
    | g => g

/-- The bytes that an accumulate writes, and whether an element had an event (R267). -/
def accData (r : AccReq) (s : State) : List Byte × Bool :=
  accBytes r.kind (r.data.length / 4) (galBytes s r.offset r.data.length) r.data

/-- The bytes of an accumulate and whether an element had an event, with a fault of the adder in one element; none where the
residue check of that element does not hold (R645). -/
def upsetAcc (r : AccReq) (old : List Byte) (x : List Byte × Bool) (u : Option AdderErr) : Option (List Byte × Bool) :=
  match u with
  | none => some x
  | some e =>
    if r.data.length / 4 ≤ e.elem then some x
    else
      let a := word32 (old.drop (4 * e.elem))
      let b := word32 (r.data.drop (4 * e.elem))
      let y : W32 × Bool := match r.kind with
        | .fadd => addUpset32 a b e.err
        | .iadd => let z := adderSum a.toInt b.toInt e.err
          (BitVec.ofInt 32 z.1, z.2)
        | k => ((accElem k a b).1, true)
      if y.2 then some (x.1.take (4 * e.elem) ++ leBytes 4 y.1.toNat ++ x.1.drop (4 * e.elem + 4), x.2) else none

/-- An accumulate that may go is applied (R267, R269). -/
def applyAcc (r : AccReq) (x : List Byte × Bool) (s : State) : State :=
  let s1 := noteEvent r.engine x.2 (writeGal s r.offset x.1)
  match r.turn with
  | none => s1
  | some t =>
    let s2 := setTurn s1 t.counter.val { turnAt s1 t.counter.val with owner := some r.engine }
    if t.last then endTurn r.engine t.counter.val s2 else s2

/-- A request that is not due goes to the turn hold, or backs off when the hold is taken (R270). -/
def holdTurn (t : Nat) (r : TurnReq) (s : State) : State :=
  let x := turnAt s t
  if x.hold.isNone then setTurn s t { x with hold := some r } else backOff s (.accumulate r) 2

/-- What becomes of an accumulate as the slice takes it. -/
inductive AccEnd where
  | done | held | wait
  deriving DecidableEq, Repr

/-- An accumulate as the slice takes it: a request not due goes to the turn hold, or backs off (R270); one whose bank is in
its power-up waits (R282); a residue mismatch raises MEM_UE, reason 5, and nothing is written (R645). -/
def accumulate (k : Option Nat) (r : AccReq) (upset : Option AdderErr) (s : State) : AccEnd × State :=
  let faultTo := requester s k r.engine
  match accGate s k r with
  | .go =>
    (.done, match upsetAcc r (galBytes s r.offset r.data.length) (accData r s) upset with
      | some x => applyAcc r x s
      | none => raiseOwner faultTo r.engine { name := .memUe, reason := 5, address := galPlace r.offset } s)
  | .notDue t => (.held, holdTurn t (.request r k) s)
  | .wait => (.wait, s)
  | .err f => (.done, raiseOwner faultTo r.engine f s)

/-- A turn set (R268, R275): GAL_OP, reason 4, on a counter whose hold is occupied or whose owner is not none. -/
def turnSet (e : Engine) (k : Option Nat) (t count tally : Nat) (en : Bool) (s : State) : State :=
  let x := turnAt s t
  if x.hold.isSome || x.owner.isSome then raiseOwner k e (galOp 4 (sliceSize * (t / 64))) s
  else setTurn s t { x with next := 0, count := count, tally := tally, tallyEn := en }

/-! ### Quantise and row reduction (R272, R274) -/

/-- Conversions counted in CORE_ARITH_FLAGS (R165, R697). -/
def noteConv (c : Nat) (f : ConvFlags) (s : State) : State :=
  modMat s c fun m => { m with arith := { m.arith with
    satCount := satAdd 0xFFFF m.arith.satCount f.sat
    ovfCount := satAdd 0xFFFF m.arith.ovfCount f.ovf
    convSat := m.arith.convSat || decide (0 < f.sat)
    convOvf := m.arith.convOvf || decide (0 < f.ovf)
    scaleNan := m.arith.scaleNan || f.nanScale } }

/-- The conversions of a bank-side quantise count for the core on whose behalf it is requested (R697; DEDUCED from R267, log
entry 117). -/
def noteConvFor (e : Engine) (f : ConvFlags) (s : State) : State :=
  match eventCore s e with
  | some c => noteConv c f s
  | none => s

/-- The targets that R137 marks for bank-side quantise. -/
def quantTarget (f : Nat) : Bool := (1 ≤ f && f ≤ 4) || (7 ≤ f && f ≤ 13)

/-- Elements and scales of a quantised row, and what its conversions record (R272, R697). -/
def quantRow (fromBf16 : Bool) (row : List Byte) (target : Nat) (sat : Bool) : List Byte × List Byte × ConvFlags :=
  let vs := readNums (if fromBf16 then 1 else 0) row [] 0 (row.length / (if fromBf16 then 2 else 4))
  let r := convertRow target sat vs
  (packElems target r.1, r.2.1.map (BitVec.ofNat 8), r.2.2)

/-- Whether a row's length fits its target: whole elements, and whole blocks for a block format (R272). -/
def quantFits (fromBf16 : Bool) (n target : Nat) : Bool :=
  let e := if fromBf16 then 2 else 4
  n % e = 0 && (!(isBlock target) || n / e % 32 = 0)

/-- One round of the fixed tree of R193: neighbours combined pairwise. -/
def treeRound (f : W32 → W32 → W32) : List W32 → List W32
  | a :: b :: r => f a b :: treeRound f r
  | r => r

/-- The fixed tree over 2^k values. -/
def treeOf (f : W32 → W32 → W32) : Nat → List W32 → W32
  | 0, xs => xs.getD 0 0
  | k + 1, xs => treeOf f k (treeRound f xs)

/-- The result of a row reduction of `n` FP32 values from gallery offset `o` (R274): the tree over each 128 B line, lanes
outside the range as +0.0 or −infinity, and the line results combined in ascending address. -/
def reduceRow (s : State) (o n : Nat) (isMax : Bool) : W32 :=
  let f := if isMax then max32 else add32
  let fill : W32 := if isMax then inf32 true else 0
  let line (l : Nat) : W32 := treeOf f 5 ((upFrom 0 32).map fun i =>
    let a := 128 * l + 4 * i
    if o ≤ a && a + 4 ≤ o + 4 * n then word32 (galBytes s a 4) else fill)
  match unitsIn 128 o (4 * n) with
  | [] => fill
  | l :: ls => ls.foldl (fun acc x => f acc (line x)) (line l)

/-- The GAL_OP of a row reduction, if any (R274, R275). -/
def reduceFault (o n : Nat) : Option FaultInfo :=
  if n = 0 || 196608 < n || o % 4 ≠ 0 || galBank o ≠ galBank (o + 4 * n - 1) then some (galOp 8 o) else none

/-! ### Gather (R266) -/

/-- The rows that a gather selects: none for the padding index. -/
def gatherRows (s : State) (list count : Nat) (base rowStride : Int) : List (Option Int) :=
  (upFrom 0 count).map fun i =>
    let v := word32 (galBytes s (list + 4 * i) 4)
    if v = 0xFFFFFFFF then none else some (base + Int.ofNat v.toNat * rowStride)

/-- Whether a gather's row size is legal (R266, R275 case 7). -/
def gatherFits (rowSize : Nat) : Bool := rowSize % 128 = 0 && 1 ≤ rowSize && rowSize ≤ 65536

/-- The claim whose export on this module opens a range of the gallery to reads by claim `k`, if any (R263, R266). -/
def opensRead (s : State) (k o n : Nat) : Option Nat :=
  let rank := if s.group.stage = .none then 0 else s.group.rank
  firstSome (fun (e : Nat × Window) =>
    let v := e.2
    let p := placeOf v.w1
    match ownerBy s fun q => q.winBase ≤ e.1 && e.1 < q.winBase + q.winCount with
    | some q =>
      if v.kind = 1 && !(claimAt s q).fenced && !v.cut && bitOf v.w3 rank && bitOf v.w0 (46 + k) && bitOf v.w0 58 && p.space = 1 &&
          p.off ≤ o && o + n ≤ p.off + fieldOf v.w2 63 16 then some q else none
    | none => none) s.fabric.windows

/-- A gallery gate for an address that may be negative. -/
def galGateInt (s : State) (k : Option Nat) (a : Int) (n : Nat) (isRead : Bool) : Gate :=
  if a < 0 then .err { name := .addrFault, reason := 2, address := galPlace 0 } else galGate s k a.toNat n isRead

/-- The first gate of a list that is not open. -/
def allGates : List Gate → Gate
  | [] => .go
  | g :: gs => match g with
    | .go => allGates gs
    | x => x

/-- The claim under which a gathered row is read: the claim itself where it owns the row's banks, else one whose window opens
them (R266). -/
def rowOwner (s : State) (k o n : Nat) : Nat :=
  if (unitsIn galBankSize o n).all fun b => bankOwner s b == some k then k else (opensRead s k o n).getD k

/-- The gate of a gather's rows. -/
def gatherGate (s : State) (k : Nat) (rows : List (Option Int)) (size : Nat) : Gate :=
  allGates (rows.map fun r => match r with
    | some a => galGateInt s (some (rowOwner s k a.toNat size)) a size true
    | none => .go)

/-- The bytes a gather returns, in list order (R266). -/
def gatherBytes (s : State) (rows : List (Option Int)) (size : Nat) : List Byte :=
  rows.flatMap fun r => match r with
    | some a => galBytes s a.toNat size
    | none => copies size 0

end Sys2Proof.Machine
end

