-- ==== Sys2Proof/Machine/Chain.lean ====
section
/-! DEFINITION. Chain descriptors and their checks, stage arithmetic and operand streams (05 R172, R173, R177 to R186,
R192 to R194, R203). -/

namespace Sys2Proof.Machine

/-! ### The descriptor (R179, R180) -/

/-- A stage word. -/
structure Stage where
  kind : Nat
  variant : Nat
  o0 : Nat
  o1 : Nat
  o2 : Nat
  param : Nat
  deriving DecidableEq, Repr

/-- A stream slot. -/
structure Slot where
  base : W64
  attrs : W64
  shape : Nat
  fmt : Nat
  tagged : Bool
  release : Bool
  tileStride : Nat
  rowStride : Nat
  deriving DecidableEq, Repr

/-- A chain descriptor, with the stages below stage_count. -/
structure Chain where
  count : Nat
  position : Nat
  outFmt : Nat
  inFmt : Nat
  outTagged : Bool
  outNone : Bool
  tpr : Nat
  rsv : Nat
  rowStride : Nat
  place : W64
  stages : List Stage
  slots : List Slot
  deriving DecidableEq, Repr

def stageOf (w : W64) : Stage :=
  ⟨fieldOf w 63 60, fieldOf w 59 56, fieldOf w 55 48, fieldOf w 47 40, fieldOf w 39 32, fieldOf w 31 0⟩

def slotOfWords (b w : W64) : Slot :=
  ⟨b, w, fieldOf w 63 62, fieldOf w 61 58, bitOf w 57, bitOf w 56, fieldOf w 55 32, fieldOf w 31 0⟩

/-- The descriptor that 16 words spell. -/
def chainOf (ws : List W64) : Chain :=
  let h := wordAt ws 0
  { count := fieldOf h 61 58, position := fieldOf h 63 62, outFmt := fieldOf h 57 54, inFmt := fieldOf h 53 50
    outTagged := bitOf h 49, outNone := bitOf h 48, tpr := fieldOf h 47 40, rsv := fieldOf h 39 32
    rowStride := fieldOf h 31 0, place := wordAt ws 1
    stages := (upFrom 0 (min 8 (fieldOf h 61 58))).map fun i => stageOf (wordAt ws (2 + i))
    slots := (upFrom 0 3).map fun j => slotOfWords (wordAt ws (10 + 2 * j)) (wordAt ws (11 + 2 * j)) }

/-- Source and number of an operand selector (R180). -/
def selSrc (o : Nat) : Nat := o / 64
def selNum (o : Nat) : Nat := o % 64

def noSlot : Slot := slotOfWords 0 0
def slotAt (d : Chain) (o : Nat) : Slot := d.slots.getD (selNum o) noSlot

/-- The operand selectors that a stage uses (R182); the marker's op1 and op2 are numbers. -/
def stageSelectors (st : Stage) : List Nat :=
  match st.kind with
  | 1 | 2 | 4 | 5 | 7 | 9 | 10 | 13 => [st.o0]
  | 6 => if st.variant = 1 then [st.o0, st.o1, st.o2] else [st.o0, st.o1]
  | _ => []

/-- The stream slots that a stage names. -/
def stageSlots (st : Stage) : List Nat :=
  ((stageSelectors st).filter fun o => selSrc o = 2 && selNum o < 3).map selNum

def isMarker (st : Stage) : Bool := st.kind = 14
def isGather (st : Stage) : Bool := st.kind = 7

/-- The stages of the main part, and those after the closing marker. -/
def mainPart (d : Chain) : List Stage := d.stages.takeWhile fun st => !(isMarker st)
def closingPart (d : Chain) : List Stage := (d.stages.dropWhile fun st => !(isMarker st)).drop 1
def markerOf (d : Chain) : Option Stage := d.stages.find? isMarker
def stageOfKind (k : Nat) (sts : List Stage) : Option Stage := sts.find? fun st => st.kind = k

/-! ### The checks of R203 -/

/-- Whether a stage's kind and variant are defined (R182, R496). -/
def kindDefined (st : Stage) : Bool :=
  match st.kind with
  | 1 | 2 | 5 | 9 | 10 | 12 => st.variant = 0
  | 3 => st.variant ≤ 3
  | 4 | 7 => st.variant ≤ 4
  | 6 | 13 | 14 => st.variant ≤ 1
  | 8 => 7 ≤ st.variant && st.variant ≤ 13
  | 11 => st.variant ≤ 2
  | _ => false

/-- Whether a stage may stand at this position, and after a closing marker when one precedes it (R182). -/
def positionAllowed (position : Nat) (after : Bool) (st : Stage) : Bool :=
  (position ≠ 1 || !([7, 8, 12, 13, 14].contains st.kind)) && !(after && isGather st)

/-- Whether a stage breaks the order rules of R183, given the stages before it. -/
def orderBroken (d : Chain) (before : List Stage) (st : Stage) : Bool :=
  let has (k : Nat) : Bool := before.any fun x => x.kind = k
  let tail := st.kind = 12 || st.kind = 13
  (([8, 12, 13, 14].contains st.kind) && has st.kind) ||
    (isGather st && 2 ≤ (before.filter isGather).length) ||
    (st.kind = 8 && st.variant ≠ d.outFmt) ||
    ((has 8 || has 12 || has 13) && !tail) ||
    (isMarker st && (!(before.any isGather) || d.tpr = 0)) ||
    (st.kind = 13 && st.variant = 1 && !(has 14 && before.any fun x => isGather x && x.variant = 4))

/-- Whether an operand's stream slot exists and has one of these shapes. -/
def streamOk (d : Chain) (o : Nat) (shapes : List Nat) : Bool := selNum o < 3 && shapes.contains (slotAt d o).shape

/-- The selectors of a stage that hold an operand selector at all: the marker's op1 and op2 are numbers (R182). -/
def selectorFields (st : Stage) : List Nat := if isMarker st then [st.o0] else [st.o0, st.o1, st.o2]

/-- Whether the selectors that a stage does not use are empty (R203; a source in one is illegal for the stage: DEDUCED, log
entry 121). -/
def unusedEmpty (st : Stage) : Bool :=
  let used := (stageSelectors st).length
  ((selectorFields st).drop used).all fun o => selSrc o = 0

/-- Whether a stage's operand selectors are legal (R180, R182, R188). -/
def operandsOk (d : Chain) (after : Bool) (st : Stage) : Bool :=
  let column (o : Nat) : Bool := selSrc o ≤ 1 || (selSrc o = 2 && streamOk d o [0])
  unusedEmpty st && match st.kind with
  | 1 => column st.o0 || (selSrc st.o0 = 2 && streamOk d st.o0 [1])
  | 2 => column st.o0
  | 4 => (selSrc st.o0 = 2 && streamOk d st.o0 [2]) || (selSrc st.o0 = 3 && d.position = 0 && !after)
  | 5 | 10 => selSrc st.o0 = 2 && streamOk d st.o0 [2]
  | 6 => (selSrc st.o0 = 1 || (selSrc st.o0 = 2 && streamOk d st.o0 [1])) && column st.o1 &&
      (st.variant = 0 || column st.o2)
  | 7 | 13 => selSrc st.o0 = 1
  | 9 => selSrc st.o0 = 2 && streamOk d st.o0 [3]
  | _ => true

/-- Registers of the statistic of `rows` rows (R192). -/
def statBlock (rows : Nat) : Nat := (rows + 127) / 128

/-- Whether a stage's statistic registers stay below w64 (R185, R192). -/
def registersFit (rows : Nat) (st : Stage) : Bool :=
  let b := statBlock rows
  let n := selNum st.o0
  match st.kind with
  | 7 => n + (if st.variant = 2 then 2 * b else b) ≤ 64
  | 6 => selSrc st.o0 ≠ 1 || n + (if st.variant = 1 then 2 * b else b) ≤ 64
  | _ => true

/-- The reason that a stage gives for CHAIN_DESC, if any (R203, R206). -/
def stageFault (d : Chain) (rows m : Nat) (before : List Stage) (st : Stage) : Option Nat :=
  let after := before.any isMarker
  let maskUse := st.kind = 10
  if !(kindDefined st) then some 1
  else if st.kind = 13 && (st.param / 2 ^ 12) % 2 ^ 11 ≠ 0 then some 2
  else if !(positionAllowed d.position after st) then some 3
  else if orderBroken d before st then some 4
  else if !(operandsOk d after st) then some 5
  else if !(registersFit rows st) then some 6
  else if (stageSlots st).any (fun j => ((d.slots.getD j noSlot).fmt = 14) ≠ maskUse) then some 7
  else if st.kind = 4 && selSrc st.o0 = 3 && 256 < st.param % 256 + m then some 10
  else none

/-- The first fault among the stages, with its index. -/
def stagesFault (d : Chain) (rows m : Nat) : Nat → List Stage → List Stage → Option (Nat × Nat)
  | _, _, [] => none
  | i, before, st :: sts =>
    match stageFault d rows m before st with
    | some r => some (r, i)
    | none => stagesFault d rows m (i + 1) (before ++ [st]) sts

/-- The fault of a stream slot, if any: unnamed and not zero, a format that a stream cannot have, a base outside the own
bench (R180, R181). -/
def slotFault (c : Nat) (d : Chain) (j : Nat) : Option Nat :=
  let x := d.slots.getD j noSlot
  if !(d.stages.any fun st => (stageSlots st).contains j) then
    (if x.base = 0 && x.attrs = 0 then none else some 2)
  else if !(x.fmt ≤ 6 || (x.fmt = 14 && x.shape = 2)) then some 7
  else if (ownOffset c x.base).isNone then some 8
  else none

/-- The fault of the header, if any, for a chain that runs at `position`; `sfmt` is the streaming format of a prologue's
MMA (R179, R183, R698). -/
def headerFault (c : Nat) (d : Chain) (position sfmt : Nat) : Option Nat :=
  let needsPlace := position = 1 || !d.outNone
  if 8 < d.count then some 1
  else if d.rsv ≠ 0 then some 2
  else if d.position ≠ position then some 3
  else if position ≠ 1 && isBlock d.outFmt && !(d.stages.any fun st => st.kind = 8) then some 4
  else if 14 ≤ d.outFmt || (position = 0 && d.inFmt ≠ 0) || 6 < d.inFmt || (position = 1 && d.outFmt ≠ sfmt) then some 7
  else if (ownOffset c d.place).isNone && (needsPlace || d.place ≠ 0) then some 8
  else none

/-- The fault that the check at a chain's start finds (R203): reason, and stage index or 15. Of several defects it reports
the header's, then that of the first stage, lowest reason first, then a slot's; a partner selector outside an epilogue's main
part is reason 5 (DESIGN CHOICE, log entry 122: R203 orders none). -/
def chainFault (c : Nat) (d : Chain) (position sfmt rows m : Nat) : Option (Nat × Nat) :=
  match headerFault c d position sfmt with
  | some r => some (r, 15)
  | none => match stagesFault d rows m 0 [] d.stages with
    | some x => some x
    | none => (firstSome (slotFault c d) [0, 1, 2]).map fun r => (r, 15)

/-! ### Values (R172, R173) -/

def fpOne : W32 := 0x3F800000

def relu (x : W32) : W32 := max32 x 0
def sqRelu (x : W32) : W32 := mul32 (relu x) (relu x)
def silu (x : W32) : W32 := mul32 x (recipOf (add32 fpOne (exp2Of (mul32 x 0xBFB8AA3B))))
def geluTanh (x : W32) : W32 :=
  let t := mul32 (mul32 x x) x
  let h := tanhOf (mul32 (fma32 0x3D372713 t x) 0x3F4C422A)
  let y := mul32 0x3F000000 x
  fma32 y h y

/-- The activations by variant. -/
def activation (v : Nat) (x : W32) : W32 :=
  match v with | 0 => relu x | 1 => sqRelu x | 2 => silu x | _ => geluTanh x

/-- The number of an unsigned integer as FP32. -/
def natTo32 (n : Nat) : W32 := round32 (.fin false n 0)

/-- An FP32 immediate. -/
def immOf (st : Stage) : W32 := BitVec.ofNat 32 st.param

/-- Where a chain's item stands: the core, the rows R of the chain, the tile number of the row, the columns N of the tile,
and the rows M of one array. -/
structure TileCtx where
  core : Nat
  chain : Chain
  rows : Nat
  tile : Nat
  cols : Nat
  m : Nat
  deriving DecidableEq, Repr

/-- The bench offset of a stream's base. -/
def slotBase (x : TileCtx) (sl : Slot) : Nat := (ownOffset x.core sl.base).getD 0

/-- Bytes of one element of a stream. -/
def slotElem (sl : Slot) : Nat := fmtBytes sl.fmt 1

/-- Where the data of a stream for row `i` begin (R181); a normalisation's row vector has no tile number (R185). -/
def slotStart (x : TileCtx) (sl : Slot) (perTile : Bool) (i : Nat) : Nat :=
  slotBase x sl + (if perTile then x.tile * sl.tileStride else 0) + (if sl.shape = 0 then 0 else i * sl.rowStride)

/-- One element of a stream, as FP32. -/
def streamWord (s : State) (x : TileCtx) (sl : Slot) (o : Nat) : W32 :=
  round32 (decodeElem sl.fmt (leNat (benchBytes s x.core o (slotElem sl))))

/-- Lane `i` of wide register `r`. -/
def laneAt (wide : Table W32) (r i : Nat) : W32 := tget 0 wide (128 * r + i)

/-- A column operand for column `c` of row `i`: immediate, register or column vector, else a row vector's value; `none`
stands for the default of a source 0. -/
def vectorWord (s : State) (x : TileCtx) (wide : Table W32) (o : Nat) (imm : W32) (i c : Nat) : W32 :=
  match selSrc o with
  | 0 => imm
  | 1 => laneAt wide (selNum o) c
  | _ =>
    let sl := slotAt x.chain o
    streamWord s x sl (slotStart x sl true i + (if sl.shape = 0 then c * slotElem sl else 0))

/-- An element of a tile stream. -/
def tileWord (s : State) (x : TileCtx) (o i c : Nat) : W32 :=
  let sl := slotAt x.chain o
  streamWord s x sl (slotStart x sl true i + c * slotElem sl)

/-- The number in an accumulator column, as the row's mark gives (R178). -/
def accNum (s : State) (c a r n : Nat) : Num :=
  let m := (coreAt s c).mat
  let w := tget 0 m.acc (accKey a r n)
  if tget false m.intRow (256 * a + r) then .fin (decide (w.toInt < 0)) w.toInt.natAbs 0 else num32 w

/-- A row as it passes through the stages: its values, the wide registers, and the columns gathered (R185, R194). -/
structure RowVal where
  xs : List W32
  wide : Table W32
  cols : Table Nat
  deriving DecidableEq, Repr

/-- A list of at most `n` values filled up with +0.0: gated lanes (R170). -/
def padTo {α : Type} (z : α) (n : Nat) (xs : List α) : List α := xs ++ copies (n - xs.length) z

/-- The statistic of one tile's 64 lane values (R193). -/
def tileStat (variant : Nat) (lanes : List W32) : W32 :=
  match variant with
  | 0 => treeOf add32 6 lanes
  | 1 => treeOf add32 6 (lanes.map fun x => mul32 x x)
  | 3 => treeOf max32 6 lanes
  | _ => treeOf max32 6 (lanes.map abs32)

/-- A running statistic with one tile more (R193, R194). -/
def statUpdate (variant : Nat) (first : Bool) (old stat : W32) : W32 :=
  if variant ≤ 1 then add32 (if first then 0 else old) stat else max32 (if first then inf32 true else old) stat

/-- The register lane that holds row `i`'s value of a statistic block from register `b` (R192). -/
def statKey (b i : Nat) : Nat := 128 * (b + i / 128) + i % 128

/-- A gather stage; `lanes` are the 64 lane values (R192 to R194). -/
def gatherRow (x : TileCtx) (st : Stage) (i : Nat) (lanes : List W32) (v : RowVal) : RowVal :=
  let b := selNum st.o0
  let put (variant b : Nat) (w : Table W32) : Table W32 :=
    tput 0 w (statKey b i) (statUpdate variant (x.tile = 0) (tget 0 w (statKey b i)) (tileStat variant lanes))
  { v with
    wide := if st.variant = 2 then put 1 (b + statBlock x.rows) (put 0 b v.wide) else put st.variant b v.wide }

/-- The columns that the gathers of a tile have counted once it is through, by the first register of each block (R192). -/
def countCols (x : TileCtx) (st : Stage) (cols : Table Nat) : Table Nat :=
  let put (b : Nat) (t : Table Nat) : Table Nat := tput 0 t b ((if x.tile = 0 then 0 else tget 0 t b) + x.cols)
  let b := selNum st.o0
  if st.variant = 2 then put (b + statBlock x.rows) (put b cols) else put b cols

/-- The mean and the factor q of a normalisation apply (R185). -/
def normParts (s : State) (x : TileCtx) (st : Stage) (i : Nat) (v : RowVal) : W32 × W32 :=
  let eps := immOf st
  if selSrc st.o0 = 2 then
    let sl := slotAt x.chain st.o0
    let o := slotStart x sl false i
    if st.variant = 0 then (0, streamWord s x sl o) else (streamWord s x sl o, streamWord s x sl (o + sl.tileStride))
  else
    let b := selNum st.o0
    let r := recipOf (natTo32 (tget 0 v.cols b))
    let at_ (k : Nat) : W32 := tget 0 v.wide (statKey k i)
    if st.variant = 0 then (0, rsqrtOf (add32 (mul32 (at_ b) r) eps))
    else
      let mu := mul32 (at_ b) r
      (mu, rsqrtOf (add32 (sub32 (mul32 (at_ (b + statBlock x.rows)) r) (mul32 mu mu)) eps))

/-- The values with each column changed by a function of the column number. -/
def mapCols (f : Nat → W32 → W32) (xs : List W32) : List W32 := xs.zipIdx.map fun p => f p.2 p.1

/-- Rotary position apply on one row of 64 lanes (R186). -/
def rotaryRow (s : State) (x : TileCtx) (st : Stage) (i : Nat) (xs : List W32) : List W32 :=
  let sl := slotAt x.chain st.o0
  let o := slotStart x sl true i
  let e := slotElem sl
  let ys := padTo 0 64 xs
  ((upFrom 0 32).flatMap fun j =>
    let x0 := ys.getD (2 * j) 0
    let x1 := ys.getD (2 * j + 1) 0
    let co := streamWord s x sl (o + 2 * j * e)
    let si := streamWord s x sl (o + (2 * j + 1) * e)
    [fma32 x0 co (neg32 (mul32 x1 si)), fma32 x0 si (mul32 x1 co)]).take xs.length

/-- Bit `c` of a mask stream's row (R181). -/
def maskBit (s : State) (x : TileCtx) (st : Stage) (i c : Nat) : Bool :=
  let o := slotStart x (slotAt x.chain st.o0) true i + c / 8
  (benchByte s x.core o).getLsbD (c % 8)

/-- The values after one stage, for row `i` (R182); quantise, post, hand and the marker leave them as they are. -/
def stageRow (s : State) (x : TileCtx) (st : Stage) (i : Nat) (v : RowVal) : RowVal :=
  let col (o : Nat) (imm : W32) (c : Nat) : W32 := vectorWord s x v.wide o imm i c
  match st.kind with
  | 1 => { v with xs := mapCols (fun c y => mul32 y (col st.o0 (immOf st) c)) v.xs }
  | 2 => { v with xs := mapCols (fun c y => add32 y (col st.o0 (immOf st) c)) v.xs }
  | 3 => { v with xs := v.xs.map (activation st.variant) }
  | 4 =>
    let g (y : W32) : W32 := if st.variant = 0 then y else activation (st.variant - 1) y
    let other (c : Nat) : W32 :=
      if selSrc st.o0 = 3 then round32 (accNum s x.core (i / x.m) (st.param % 256 + i % x.m) c)
      else tileWord s x st.o0 i c
    { v with xs := mapCols (fun c y => mul32 y (g (other c))) v.xs }
  | 5 => { v with xs := mapCols (fun c y => add32 y (tileWord s x st.o0 i c)) v.xs }
  | 6 =>
    let p := normParts s x st i v
    { v with xs := mapCols (fun c y =>
        let z := if st.variant = 0 then y else sub32 y p.1
        let a := mul32 (mul32 z p.2) (col st.o1 fpOne c)
        if st.variant = 0 then a else add32 a (col st.o2 0 c)) v.xs }
  | 7 => { gatherRow x st i (padTo 0 64 v.xs) v with cols := countCols x st v.cols }
  | 9 => { v with xs := rotaryRow s x st i v.xs }
  | 10 => { v with xs := mapCols (fun c y => if maskBit s x st i c then mul32 y (immOf st) else 0) v.xs }
  | 11 =>
    let p := immOf st
    { v with xs := v.xs.map fun y => match st.variant with
        | 0 => min32 (max32 y (neg32 p)) p
        | 1 => max32 y p
        | _ => min32 y p }
  | _ => v

/-- A row through a list of stages. -/
def runStages (s : State) (x : TileCtx) (i : Nat) : List Stage → RowVal → RowVal
  | [], v => v
  | st :: sts, v => runStages s x i sts (stageRow s x st i v)

/-- Rows through a list of stages, one after another: the values of each, and the registers at the end. The columns that
gathers count are those of one tile, however many rows it has. -/
def runRows (s : State) (x : TileCtx) (sts : List Stage) (cols : Table Nat) :
    List (Nat × List W32) → Table W32 → List (Nat × List W32) × Table W32
  | [], w => ([], w)
  | (i, xs) :: rs, w =>
    let v := runStages s x i sts ⟨xs, w, cols⟩
    let r := runRows s x sts cols rs v.wide
    ((i, v.xs) :: r.1, r.2)

/-- The columns gathered once a tile has passed the stages. -/
def tileCols (x : TileCtx) (sts : List Stage) (cols : Table Nat) : Table Nat :=
  (sts.filter isGather).foldl (fun c st => countCols x st c) cols

/-! ### What the streams read (R181, R190) -/

/-- The bench ranges that a stage's streams read for row `i`, with their slots. -/
def stageReads (x : TileCtx) (st : Stage) (i : Nat) : List (Nat × Nat × Nat) :=
  (stageSelectors st).flatMap fun o =>
    if selSrc o ≠ 2 then [] else
      let j := selNum o
      let sl := slotAt x.chain o
      let norm := st.kind = 6 && o = st.o0
      let a := slotStart x sl (!norm) i
      match sl.shape with
      | 1 => if norm && st.variant = 1 then [(j, a, slotElem sl), (j, a + sl.tileStride, slotElem sl)]
          else [(j, a, slotElem sl)]
      | 2 => [(j, a, if sl.fmt = 14 then (x.cols + 7) / 8 else x.cols * slotElem sl)]
      | 3 => [(j, a, 64 * slotElem sl)]
      | _ => [(j, a, x.cols * slotElem sl)]

/-- The ranges that a list of stages reads for a list of rows. -/
def streamReads (x : TileCtx) (sts : List Stage) (rows : List Nat) : List (Nat × Nat × Nat) :=
  (sts.flatMap fun st => rows.flatMap fun i => stageReads x st i).eraseDups

/-- The ranges of the slots that a test holds of. -/
def readsWhere (x : TileCtx) (f : Slot → Bool) (rs : List (Nat × Nat × Nat)) : List (Nat × Nat) :=
  (rs.filter fun r => f (x.chain.slots.getD r.1 noSlot)).map fun r => r.2

end Sys2Proof.Machine
end

