-- ==== Sys2Proof/Machine/LinkOps.lean ====
section
/-! DEFINITION. Routes, packets and flits of the Goham links (11 R404 to R419). -/

namespace Sys2Proof.Machine

def modFabric (s : State) (f : FabricState → FabricState) : State := { s with fabric := f s.fabric }
def linkAt (s : State) (l : Nat) : LinkState := tget {} s.fabric.links l
def setLink (s : State) (l : Nat) (v : LinkState) : State :=
  modFabric s fun x => { x with links := tput {} x.links l v }

/-- Whether a link carries traffic. -/
def linkUp (v : LinkState) : Bool := v.mode == .up8 || v.mode == .up7

/-- The other link of a pair (R412, R414). -/
def pairOf (l : Nat) : Nat := if l % 2 = 0 then l + 1 else l - 1

/-- Coordinates of a rank: the rank map's where it lists the rank (R629), else x fastest, then y, then z (R6). -/
def coordsOf (s : State) (r : Nat) : List Nat :=
  let e := tget {} s.group.rankMap r
  if e.valid then [e.x, e.y, e.z] else [r % 4, r / 4 % 4, r / 16]

/-- The size of each dimension of the group's torus: 16, 32 or 64 members (R415). -/
def dimSize (s : State) (dim : Nat) : Nat := if dim < 2 then 4 else 2 ^ s.group.size

/-- The orders of a detour entry (R449): each gives the dimensions in turn. -/
def orderOf (code : Nat) : List Nat :=
  match code with
  | 1 => [0, 2, 1] | 2 => [1, 0, 2] | 3 => [1, 2, 0] | 4 => [2, 0, 1] | 5 => [2, 1, 0] | _ => [0, 1, 2]

/-- The next hop of a packet: its dimension and whether it leaves in the − direction; none when the destination is
unreachable or is this module (R416, R417). -/
def nextHop (s : State) (dest : Nat) : Option (Nat × Bool) :=
  let d := tget {} s.fabric.detours dest
  let me := coordsOf s (programRank s)
  let you := coordsOf s dest
  if d.inUse && d.unreachable then none
  else firstSome (fun dim =>
    let a := me.getD dim 0
    let b := you.getD dim 0
    if a = b then none
    else
      let n := dimSize s dim
      let minus := if d.inUse then inSet d.minus dim else n = 4 && (b + n - a) % n = 3
      some (dim, minus)) (if d.inUse then orderOf d.order else [0, 1, 2])

/-- The links of a hop, in link order: a pair, or in a dimension of size 2 the set of both pairs (R414, R415). -/
def hopLinks (s : State) (hop : Nat × Bool) : List Nat :=
  if dimSize s hop.1 = 2 then upFrom (4 * hop.1) 4
  else if hop.2 then upFrom (4 * hop.1 + 2) 2 else upFrom (4 * hop.1) 2

/-- Whether a hop crosses a dateline (R416). -/
def crossesDateline (s : State) (hop : Nat × Bool) : Bool :=
  let a := (coordsOf s (programRank s)).getD hop.1 0
  dimSize s hop.1 = 4 && (if hop.2 then a = 0 else a = 3)

/-- The engine's number in the link choice of R418 (entry 44). -/
def engineId : Engine → Nat
  | .hubMover n => 1024 + n.val
  | .collMover n => 1040 + n.val
  | .haul => 1056
  | .sump => 1057
  | .firmware => 1058
  | .remote _ _ => 1059
  | e => 8 * engineCore e + engineCode e

/-- The link of a packet to a destination: among the links that are up, number (e + g) mod L (R418); none when there is no
way. -/
def linkFor (s : State) (e g dest : Nat) : Option (Nat × Nat) :=
  match nextHop s dest with
  | none => none
  | some hop =>
    let up := (hopLinks s hop).filter fun l => linkUp (linkAt s l)
    match up with
    | [] => none
    | _ => (up[(e + g) % up.length]?).map fun l => (l, if crossesDateline s hop then 1 else 0)

/-- Flits of a packet with `n` bytes of data: its first flit body holds 16 B of header (R406). -/
def packetFlits (n : Nat) : Nat := (16 + n + 59) / 60

/-- Flit bodies that a boundary FIFO of 256 entries of 256 B holds (R413). -/
def fifoFlits : Nat := 256 * 256 / 60

/-- The port's stalled flits enter the outbound FIFO as far as it has room (R413). -/
def refill (v : LinkState) : LinkState :=
  let n := fifoFlits - v.outFifo.length
  { v with outFifo := v.outFifo ++ v.stalled.take n, stalled := v.stalled.drop n }

/-- Send the flits that have a credit and room in the replay buffer of 1,024 (R408, R410). -/
def pumpFlits : Nat → LinkState → LinkState
  | 0, v => v
  | fuel + 1, v =>
    match v.outFifo with
    | (vc, p) :: rest =>
      let have_ := v.credits.getD vc 0
      if linkUp v && 1 ≤ have_ && v.sent.length < 1024 then
        pumpFlits fuel (refill { v with
          outFifo := rest
          credits := setAt v.credits vc (have_ - 1)
          sent := v.sent ++ [{ seq := v.txSeq, vc := vc, packet := p }]
          txSeq := (v.txSeq + 1) % 4096 })
      else v
    | [] => v

def pump (v : LinkState) : LinkState := pumpFlits (v.outFifo.length + v.stalled.length) (refill v)

/-- Flits leave the receive buffers for the inbound FIFO as far as it has room; a credit of the channel is due for each (R410,
R413). -/
def drainRx (v : LinkState) : LinkState :=
  let xs := v.rxBuf.take (fifoFlits - v.inFifo.length)
  { v with
    rxBuf := v.rxBuf.drop xs.length
    inFifo := v.inFifo ++ xs
    owed := xs.foldl (fun o f => setAt o f.vc (o.getD f.vc 0 + 1)) v.owed }

/-- The junction takes `n` flits of a packet from the inbound FIFO of a link. -/
def takeInbound (l n : Nat) (s : State) : State :=
  let v := linkAt s l
  setLink s l (drainRx { v with inFifo := v.inFifo.drop n })

/-- A packet put on a link: its flits queue behind those that wait. -/
def putPacket (l vc n dest : Nat) (e : Option Engine) (w : Nat) (s : State) : State :=
  let no := s.fabric.packetNo
  let v := linkAt s l
  let s1 := modFabric s fun x =>
    { x with packets := x.packets ++ [⟨no, dest, l, e, w⟩], packetNo := no + 1 }
  setLink s1 l (pump { v with stalled := v.stalled ++ copies n (vc, no) })

/-- The responses that are due are sent to their modules, on channels VC2 and VC3 (R410, R416). -/
def sendReplies (s : State) : State :=
  s.fabric.replies.foldl (fun t r => match linkFor t 1059 0 r.1 with
    | some l => putPacket l.1 (l.2 + 2) (packetFlits r.2) r.1 none 0 t
    | none => t) (modFabric s fun x => { x with replies := [] })

/-- Bytes of data that a request carries out. -/
def requestBytes : RemoteOp → Nat
  | .read _ => 0
  | .write d _ _ => d.length
  | .part _ _ _ => 1
  | .accumulate _ d _ => d.length
  | .tallyAdd _ _ => 4
  | .convPush _ _ _ => 16

/-- A request sent to another module, if there is a way to it; the link it took. -/
def sendRemote (o : Outgoing) (s : State) : Option State :=
  (linkFor s (engineId o.eng) (o.offset / 4096) o.rank).map fun l =>
    modFabric (putPacket l.1 l.2 (packetFlits (requestBytes o.op)) o.rank (some o.eng) o.window s) fun x =>
      { x with outgoing := o :: x.outgoing }

end Sys2Proof.Machine
end

