-- ==== Sys2Proof/Machine/WindowOps.lean ====
section
/-! DEFINITION. Windows: who may use an export, what an inbound access does, and how an engine of this module reaches a
window (11 R422 to R431; 17 R640). -/

namespace Sys2Proof.Machine

/-! ### Fault registers of movers and net ports -/

/-- A mover by its identity. -/
def moverAt (s : State) : MoverId → MoverState
  | .core c m1 => coreMover s c m1
  | .hub n => hubMoverAt s n

def setMover (s : State) (m : MoverId) (v : MoverState) : State :=
  match m with
  | .core c m1 => setCoreMover s c m1 v
  | .hub n => setHubMover s n v

def moverEngine : MoverId → Engine
  | .core c m1 => .coreMover c m1
  | .hub n => .hubMover n

/-- The code of MOV_FAULT for a fault (R403). -/
def moverCode : FaultName → Nat
  | .addrFault => 1 | .movDesc => 2 | .hostXlate => 3 | .winRefused => 4 | .tileCrc => 5 | .memUe => 6 | .galOp => 7
  | .deadlineMiss => 8 | .syncRange => 9 | .benchOff => 10 | .galOff => 11 | .dramOff => 12 | _ => 0

/-- Whether MOV_FAULT's reason field carries the fault's reason (R403). -/
def moverReason (i : FaultInfo) : Nat :=
  match i.name with
  | .addrFault | .movDesc | .galOp => i.reason
  | _ => 0

/-- Record a fault in block `blk` in a mover's registers: they hold the first until the flag is cleared (R403). -/
def recordMover (m : MoverId) (i : FaultInfo) (blk : Nat) (pos : List Nat) (s : State) : State :=
  let v := moverAt s m
  setMover s m { v with
    stopped := true
    fault := if v.fault.fault then v.fault else
      { fault := true, code := moverCode i.name, reason := moverReason i, block := blk % 65536
        listSeq := v.started % 65536, place := i.address
        i1 := pos.getD 0 0, i2 := pos.getD 1 0, i3 := pos.getD 2 0, i4 := pos.getD 3 0 } }

/-- A fault that a mover raises in block `blk`. -/
def raiseMover (m : MoverId) (i : FaultInfo) (blk : Nat) (pos : List Nat) (s : State) : State :=
  raise (moverEngine m) i (recordMover m i blk pos s)

/-- The block of a fault that no access of the mover names: the oldest outstanding one (R403). -/
def oldestBlock (v : MoverState) : Nat :=
  match v.out, v.lists with
  | o :: _, _ => o.block
  | [], l :: _ => l.block
  | [], [] => 0

/-- A refusal that comes back to a mover: the place is the destination of the oldest outstanding block. -/
def refusedMover (m : MoverId) (code : Nat) (s : State) : State :=
  let v := moverAt s m
  raiseMover m { name := .winRefused, reason := code, address := (v.out.head?.map fun o => o.dst).getD 0 } (oldestBlock v) [] s

/-- Record a fault of a core's net port (R453). -/
def recordNet (c code reason window rank : Nat) (s : State) : State :=
  modCore s c fun k =>
    { k with net := { k.net with fault := if k.net.fault.fault then k.net.fault else ⟨true, code, reason, window, rank⟩ } }

/-- The mover that an engine is. -/
def engineMover : Engine → Option MoverId
  | .coreMover c m1 => some (.core c m1)
  | .hubMover n => some (.hub n)
  | _ => none

def modColl (s : State) (f : CollState → CollState) : State := { s with coll := f s.coll }
def collMoverAt (s : State) (m : Nat) : CollMover := tget {} s.coll.movers m
def modCollMover (m : Nat) (f : CollMover → CollMover) (s : State) : State :=
  modColl s fun x => { x with movers := tmod {} x.movers m f }

/-- The code of MOV_COLL_FAULT for a fault (R484). -/
def collMoverCode : FaultName → Nat
  | .collResidue => 1 | .tileCrc => 2 | .memUe => 3 | .winRefused => 4 | .deadlineMiss => 5 | .addrFault => 6 | _ => 0

/-- A fault of the collective mover that runs call `seq`; one at a bench is recorded there too (R288). -/
def raiseCollMover (m seq : Nat) (i : FaultInfo) (s : State) : State :=
  let p := placeOf i.address
  let s1 := modCollMover m (fun x => { x with
    state := 5
    fault := if x.fault.fault || collMoverCode i.name = 0 then x.fault
      else ⟨true, collMoverCode i.name, seq⟩ }) s
  let s2 := if p.space ≠ 0 || benchFaultCode i.name = 0 then s1
    else recordBenchFault p.sel (benchFaultCode i.name) (benchBank p.off) 3 3 (slotOf p.off) (slotOf p.off) s1
  raise (.collMover (Fin.ofNat 16 m)) i s2

/-- Whether a refusal of a collective mover is absorbed into MEMBER_LOST: an unreachable member while the group loses members
(R480). -/
def absorbed (s : State) (rank code : Nat) : Bool :=
  code = 8 && (decide (s.group.stage = .reforming) || s.group.failed.contains rank)

/-- A requester's access was refused: it raises WIN_REFUSED with the refusal's code (R426). -/
def refused (e : Engine) (w rank code : Nat) (s : State) : State :=
  let i : FaultInfo := { name := .winRefused, reason := code }
  match e with
  | .collMover m => if absorbed s rank code then s else raiseCollMover m (collMoverAt s m).seq i s
  | .coreMover c m1 => refusedMover (.core c m1) code s
  | .hubMover n => refusedMover (.hub n) code s
  | .sequencer c | .matrix c | .dressing c | .netPort c => raise (.netPort c) i (recordNet c 1 code w rank s)
  | _ => raise e i s

/-! ### Descriptors -/

def windowAt (s : State) (w : Nat) : Window := tget {} s.fabric.windows w
def setWindow (s : State) (w : Nat) (v : Window) : State :=
  modFabric s fun x => { x with windows := tput {} x.windows w v }

/-- The claim that owns a window descriptor (R422). -/
def windowOwner (s : State) (w : Nat) : Option Nat := ownerBy s fun q => q.winBase ≤ w && w < q.winBase + q.winCount

def winBase (v : Window) : W64 := v.w1
def winSize (v : Window) : Nat := fieldOf v.w2 63 16

/-- Bytes that a request touches. -/
def opBytes : RemoteOp → Nat
  | .read n => n
  | .write d _ _ => d.length
  | .part _ _ _ => 1
  | .accumulate _ d _ => d.length
  | _ => 0

/-- Whether the export gives the permission that an access needs (R423). -/
def winAllows (v : Window) : RemoteOp → Bool
  | .read _ => bitOf v.w0 58
  | .write _ _ _ | .part _ _ _ | .accumulate _ _ _ => bitOf v.w0 57
  | .tallyAdd _ _ | .convPush _ _ _ => bitOf v.w0 56

/-- Whether an access stays in the ranges that the export opens (R426, code 6). -/
def winReaches (v : Window) (off : Nat) : RemoteOp → Bool
  | .tallyAdd n _ => fieldOf v.w4 63 47 ≤ n && n < fieldOf v.w4 63 47 + fieldOf v.w4 46 29
  | .convPush n _ _ => fieldOf v.w4 28 20 ≤ n && n < fieldOf v.w4 28 20 + fieldOf v.w4 19 10
  | op => off + opBytes op ≤ winSize v

/-- Whether the memory that an access reaches is powered down (R283; R426, code 7). -/
def winOff (s : State) (v : Window) (off : Nat) (op : RemoteOp) : Bool :=
  let p := placeOf (winBase v)
  let o := p.off + off
  match op with
  | .tallyAdd _ _ | .convPush _ _ _ => false
  | _ =>
    if p.space = 0 then (unitsIn 0x80000 o (opBytes op)).any fun b => inSet (coreAt s p.sel).bench.off b
    else if p.space = 1 then (unitsIn galBankSize o (opBytes op)).any fun b => inSet s.gallery.off b
    else (unitsIn regionSize o (opBytes op)).any fun r => inSet s.dram.off r

/-- The refusal of an access, if any: the checks of R426 in the order of its table. -/
def refusalOf (s : State) (rank claim w off : Nat) (op : RemoteOp) : Option Nat :=
  let v := windowAt s w
  match windowOwner s w with
  | none => some 1
  | some k =>
    if v.kind ≠ 1 then some 1
    else if (claimAt s k).fenced || v.cut then some 2
    else if !(bitOf v.w3 rank) then some 3
    else if !(bitOf v.w0 (46 + claim)) then some 4
    else if !(winAllows v op) then some 5
    else if !(winReaches v off op) then some 6
    else if winOff s v off op then some 7
    else none

/-- The target counts a refusal and records the module's first (R426, R450). -/
def noteRefusal (w rank claim code : Nat) (s : State) : State :=
  let v := windowAt s w
  modFabric (setWindow s w { v with refused := wrapAdd 32 v.refused 1 }) fun x =>
    { x with refuseFirst := if x.refuseFirst.refused then x.refuseFirst else ⟨true, w, rank, claim, code⟩ }

/-! ### What an access does at the target -/

/-- The gate of an access at its place. -/
def targetGate (s : State) (k : Nat) (p : Place) (n : Nat) (isRead : Bool) : Gate :=
  if p.space = 0 then benchGate s p.sel p.off n isRead
  else if p.space = 1 then galGate s (some k) p.off n isRead
  else dramGate s (some k) p.off n isRead

/-- Bytes at a place of spaces 0 to 2. -/
def placeBytes (s : State) (p : Place) (n : Nat) : List Byte :=
  if p.space = 0 then benchBytes s p.sel p.off n
  else if p.space = 1 then galBytes s p.off n else dramBytes s p.off n

/-- Bytes written at a place of spaces 0 to 2. -/
def writeAt (p : Place) (data : List Byte) (s : State) : State :=
  if p.space = 0 then writeBench s p.sel p.off data
  else if p.space = 1 then writeGal s p.off data else writeDram s p.off data

/-- A write that may go: data, tag, and the seals of 4 KiB tiles that one post writes whole (R638). -/
def deliver (p : Place) (data : List Byte) (mark : TagMark) (sealIt : Bool) (s : State) : State :=
  let s1 := writeAt p data s
  if p.space = 0 then
    let s2 := countPort p.sel .pNet (linesIn p.off data.length) s1
    tagAfter (if sealIt then sealWritten s2 p.sel [(p.off, data.length)] else s2) p.sel p.off data.length mark true
  else s1

/-- The place of an offset in a window. -/
def winPlace (v : Window) (off : Nat) : Place :=
  let p := placeOf (winBase v)
  { p with off := p.off + off }

/-- A fault at a window's target: of a bench it is recorded there too (R288). -/
def windowErr (k : Nat) (e : Engine) (p : Place) (f : FaultInfo) (s : State) : State :=
  raiseFor k e f (if p.space ≠ 0 || benchFaultCode f.name = 0 then s
    else recordBenchFault p.sel (benchFaultCode f.name) (benchBank p.off) 3 3 (slotOf p.off) (slotOf p.off) s)

/-- A write through a window meets its bench: it goes, it stands in a wait register of P-net or is returned (a tagged one),
or it waits behind an earlier access of its engine and is presented again (R291, R295, R296). -/
def serveWrite (e : Engine) (k w : Nat) (p : Place) (n : Nat) (held : HeldOp) (mark : TagMark) (go : State → State)
    (s : State) : State :=
  match targetGate s k p n false with
  | .err f => { (windowErr k e p f s) with answer := .refused 6 }
  | .wait => { s with answer := .waits }
  | .go =>
    if p.space = 0 && accessWaits s p.sel e .pNet p.off n true mark then
      let a : HeldAccess := { eng := e, port := .pNet, offset := p.off, op := held, mark := mark, isWrite := true
                              owner := some k, win := some (if s.group.stage = .none then 0 else s.group.rank, w) }
      { (if mark = .plain then s else holdAccess s p.sel a) with answer := .waits }
    else go s

/-- What becomes of an accumulate, as an answer. -/
def accAnswer (r : AccEnd × State) : State :=
  { r.2 with answer := match r.1 with
      | .done => .nothing
      | _ => .waits }

/-- An accepted access is performed for the window's owner `k` (R425, R426, R640). Engine `e` is who asks. -/
def serveWindow (e : Engine) (k w off : Nat) (op : RemoteOp) (s : State) : State :=
  let p := winPlace (windowAt s w) off
  match op with
  | .read n => match targetGate s k p n true with
    | .go =>
      if p.space = 0 && accessBehind s p.sel e .pNet p.off n false .plain then { s with answer := .waits }
      else { (if p.space = 0 then countPort p.sel .pNet (linesIn p.off n) s else s) with answer := .data (placeBytes s p n) }
    | .wait => { s with answer := .waits }
    | .err f => { (windowErr k e p f s) with answer := .refused 6 }
  | .write d mark crc =>
    serveWrite e k w p d.length (.access (.write d)) mark
      (fun t => { (deliver p d mark true t) with
        answer := if crc.all (fun x => x = crc32c d) then .nothing else .badChecksum }) s
  | .part v bits mark =>
    serveWrite e k w p 1 (.part v bits.val) mark
      (fun t => { (deliver p [mixBits bits.val ((placeBytes t p 1).getD 0 0) v] mark false t) with answer := .nothing }) s
  | .accumulate kind d turn =>
    match turn with
    | some t =>
      if p.space = 1 && !(ownsTurn s k t.counter.val) then
        match engineClaim s e with
        | some q => { (turnOutOfRange q e t.counter.val s) with answer := .outOfRange }
        | none => { s with answer := .outOfRange }
      else if p.space ≠ 1 then { s with answer := .refused 6 }
      else accAnswer (accumulate (some k) ⟨e, p.off, kind, d, turn⟩ none s)
    | none => if p.space ≠ 1 then { s with answer := .refused 6 }
      else accAnswer (accumulate (some k) ⟨e, p.off, kind, d, turn⟩ none s)
  | .tallyAdd n d => { (tallyAdd s n d) with answer := .nothing }
  | .convPush n lo hi =>
    let x : WaitingPush := { who := .net e, handle := ⟨lo, hi⟩ }
    match conveyorPush s n x with
    | (.done, t) => { t with answer := .nothing }
    | (.waits, t) => { t with answer := .waits }
    | (.refused, t) => { (backOff t (.push n x) 2) with answer := .waits }

/-! ### How an engine of this module reaches a window -/

/-- The highest rank of the group, plus 1: 1 for a module in no group (R427). -/
def groupSize (s : State) : Nat := if s.group.stage = .none then 1 else s.group.members

/-- What an access to a window of rank `rank` meets. -/
inductive Reach where
  /-- On this module, accepted, for the window's owner. -/
  | own (owner : Nat)
  | away
  | refused (code : Nat)
  deriving DecidableEq, Repr

/-- R426 and R427 at the requester: the own rank is checked here; another rank is checked by its module, and unreachable
when no link leads to it. -/
def reach (s : State) (e : Engine) (k rank w off : Nat) (op : RemoteOp) : Reach :=
  if rank = programRank s then
    match refusalOf s rank k w off op, windowOwner s w with
    | some c, _ => .refused c
    | none, some o => .own o
    | none, none => .refused 1
  else if groupSize s ≤ rank then .refused 8
  else if (linkFor s (engineId e) (off / 4096) rank).isSome then .away
  else .refused 8

/-- An access to a window by engine `e` of claim `k`, once nothing at the own module makes it wait. -/
def windowAccess (e : Engine) (k rank w off : Nat) (op : RemoteOp) (s : State) : State :=
  match reach s e k rank w off op with
  | .own o => serveWindow e o w off op s
  | .away => (sendRemote ⟨e, k, rank, w, off, op⟩ s).getD s
  | .refused code =>
    refused e w rank code (if rank = programRank s then noteRefusal w rank k code s else s)

/-- Whether a window access of this module would wait now: for memory that powers up, a slot, an earlier access, or room in a
conveyor. -/
def windowWaits (s : State) (e : Engine) (k rank w off : Nat) (op : RemoteOp) : Bool :=
  match reach s e k rank w off op with
  | .own o =>
    let p := winPlace (windowAt s w) off
    let write (n : Nat) (mark : TagMark) : Bool :=
      targetGate s o p n false = .wait || (p.space = 0 && accessWaits s p.sel e .pNet p.off n true mark)
    match op with
    | .write d mark _ => write d.length mark
    | .part _ _ mark => write 1 mark
    | .read n => targetGate s o p n true = .wait || (p.space = 0 && accessBehind s p.sel e .pNet p.off n false .plain)
    | .convPush n _ _ => (conveyorAt s n).depth ≤ (conveyorAt s n).handles.length
    | _ => false
  | _ => false

/-- Whether a window write of this module has no effect yet: its memory powers up, or it stands behind an earlier access of
its engine; a tagged one that only waits for its slot can stand in a wait register. -/
def windowStuck (s : State) (e : Engine) (k rank w off n : Nat) (op : RemoteOp) : Bool :=
  match reach s e k rank w off op with
  | .own o =>
    let p := winPlace (windowAt s w) off
    targetGate s o p n false = .wait || (p.space = 0 && accessBehind s p.sel e .pNet p.off n true .plain)
  | _ => false

/-- Seal the 4 KiB tiles that one post wrote whole in a bench of this module (R638); the ranges are offsets in the window. -/
def sealPost (e : Engine) (k rank w : Nat) (rs : List (Nat × Nat)) (s : State) : State :=
  match reach s e k rank w 0 (.read 0) with
  | .own _ =>
    let p := winPlace (windowAt s w) 0
    if p.space = 0 then sealWritten s p.sel (rs.map fun r => (p.off + r.1, r.2)) else s
  | _ => s

/-! ### Places of any space -/

/-- What stands before an access. -/
inductive Obst where
  | tag (core slot : Nat) (isWrite : Bool)
  /-- An accumulate whose turn under a counter has not come (R270). -/
  | turn (counter : Nat)
  | wait
  | err (i : FaultInfo)
  | refused (w rank code : Nat)
  deriving DecidableEq, Repr

/-- Where an access goes. -/
inductive Spot where
  /-- Memory of this module, owned by claim `owner`. -/
  | here (p : Place) (owner : Nat)
  | host (f off : Nat)
  /-- Host space through the group host port module (R548). -/
  | hostAway (off : Nat)
  | away (rank w off : Nat)
  | stop (o : Obst)
  deriving DecidableEq, Repr

def addrFault (reason : Nat) (a : W64) : Obst := .err { name := .addrFault, reason := reason, address := a }

/-- Resolve a place for `n` bytes of an access by engine `e` of claim `k`; `toHost` is whether it reaches host space (R10, R242, R243, R374, R424, R521 to R523). -/
def spotFor (s : State) (e : Engine) (toHost : Bool) (k : Nat) (a : W64) (n : Nat) (op : RemoteOp) : Spot :=
  let p := placeOf a
  match placeFault p with
  | some r => .stop (addrFault r a)
  | none =>
    match p.space with
    | 0 => if coreOwner s p.sel = some k then .here p k else .stop (addrFault 4 a)
    | 1 => .here p k
    | 2 => .here p k
    | 3 =>
      if !toHost then .stop (addrFault 3 a)
      else if hostIsAway s k then .hostAway p.off
      else match hostFn s k with
        | some f =>
          if hostMapped s f p.off n then .host f p.off else .stop (.err { name := .hostXlate, address := a })
        | none => .stop (.err { name := .hostXlate, address := a })
    | 4 =>
      let v := windowAt s p.sel
      if v.kind ≠ 2 || windowOwner s p.sel ≠ some k then .stop (addrFault 4 a)
      else
        let rank := fieldOf v.w5 55 50
        let w := fieldOf v.w5 63 56
        match reach s (e) k rank w p.off op with
        | .own o => .here (winPlace (windowAt s w) p.off) o
        | .away => .away rank w p.off
        | .refused c => .stop (.refused w rank c)
    | _ => .stop (addrFault 3 a)

end Sys2Proof.Machine
end

