-- ==== Sys2Proof/Machine/DressOps.lean ====
section
/-! DEFINITION. What a row of a dressing item puts out: bench rows and scales, tile posts and hands (05 R183, R184; 11 R430,
R431; 13 R492, R493, R496). -/

namespace Sys2Proof.Machine

/-- Take the head item of the dressing queue: no chain runs (R206). While a DOT, CONV, WLD, WST or LANE item is at the head
the position is idle too, since R206 has no code for it (DESIGN CHOICE, log entry 126). -/
def popDressing (c : Nat) (s : State) : State :=
  modDrs s c fun d => { d with queue := d.queue.drop 1, prog := none, position := 3, handle := 0 }

/-- Record a fault of the dressing unit (R206): the fields hold the first until the flag is cleared. -/
def recordDressing (c code reason stage handle : Nat) (s : State) : State :=
  modDrs s c fun d => { d with fault := if d.fault.fault then d.fault else ⟨true, code, reason, stage, handle⟩ }

/-- CHAIN_DESC of a chain (R203). -/
def chainDesc (c : CoreId) (handle : Nat) (r : Nat × Nat) (s : State) : State :=
  raise (.dressing c) { name := .chainDesc, reason := r.1 } (recordDressing c 1 r.1 r.2 handle s)

/-! ### Output rows (R184) -/

/-- Codes, scales and flags of a row of a tile: gated lanes enter as +0.0. -/
def formRow (fmt : Nat) (sat : Bool) (vs : List Num) : List Nat × List Nat × ConvFlags :=
  convertRow fmt sat (padTo (.fin false 0 0) 64 vs)

/-- The packed bytes of the first `n` elements. -/
def rowBytesOf (fmt n : Nat) (codes : List Nat) : List Byte := (packElems fmt codes).take (fmtBytes fmt n)

/-- Scale bytes of `n` elements. -/
def scaleCount (fmt n : Nat) : Nat := if isBlock fmt then (n + 31) / 32 else 0

/-- Where element 0 of row `i` of a tile goes in the bench (R176, R184), and its first scale. -/
def outOffset (x : TileCtx) (i : Nat) : Nat :=
  (ownOffset x.core x.chain.place).getD 0 + i * x.chain.rowStride + x.tile * fmtBytes x.chain.outFmt 64
def scaleIndex (x : TileCtx) (i : Nat) : Nat := i * (2 * max 1 x.chain.tpr) + 2 * x.tile

/-- The offset of the scale region that a part's quantise stage names. -/
def scaleBase (sts : List Stage) : Nat :=
  match stageOfKind 8 sts with
  | some q => q.param % 2 ^ 23
  | none => 0

/-- The element range and the scale range that a row of a tile writes to the bench; a tile of width 0 puts nothing out
(R120). -/
def elemOut (x : TileCtx) (i : Nat) : List (Nat × Nat) :=
  if x.chain.outNone || x.cols = 0 then [] else [(outOffset x i, fmtBytes x.chain.outFmt x.cols)]
def scaleOut (sts : List Stage) (x : TileCtx) (i : Nat) : List (Nat × Nat) :=
  if x.chain.outNone || x.cols = 0 || !(isBlock x.chain.outFmt) then []
  else [(scaleBase sts + scaleIndex x i, scaleCount x.chain.outFmt x.cols)]

/-- Bytes written where the last one holds bits of a gated column too, which keep their value (R170). -/
def writeBits (c o bits : Nat) (bs : List Byte) (s : State) : State :=
  let k := bits % 8
  if k = 0 then writeBench s c o bs
  else
    let last := o + bs.length - 1
    let old := (benchByte s c last).toNat
    let new := (bs.getD (bs.length - 1) 0).toNat
    writeBench s c o (setAt bs (bs.length - 1) (BitVec.ofNat 8 (old / 2 ^ k * 2 ^ k + new % 2 ^ k)))

/-- One row to the bench: its scales before its elements (R184). -/
def writeOutRow (sts : List Stage) (x : TileCtx) (i : Nat) (f : List Nat × List Nat × ConvFlags) (s : State) : State :=
  let fmt := x.chain.outFmt
  let s1 := if isBlock fmt then
      writeBench s x.core (scaleBase sts + scaleIndex x i) ((f.2.1.take (scaleCount fmt x.cols)).map (BitVec.ofNat 8))
    else s
  writeBits x.core (outOffset x i) (fmtBits fmt * x.cols) (rowBytesOf fmt x.cols f.1) s1

/-! ### Tile posts (R430, R431) -/

/-- A post descriptor. -/
structure PostDesc where
  window : Nat
  rank : Nat
  tagged : Bool
  fill : Bool
  offset : Nat
  rowStride : Nat
  tileStride : Nat
  tally : Nat
  delta : Nat
  tallyEn : Bool
  perTile : Bool
  scaleOff : Nat
  deriving DecidableEq, Repr

def postOf (ws : List W64) : PostDesc :=
  let a := wordAt ws 0
  let b := wordAt ws 1
  let e := wordAt ws 2
  { window := fieldOf a 63 56, rank := fieldOf a 55 50, tagged := bitOf a 49, fill := bitOf a 48, offset := fieldOf a 47 0
    rowStride := fieldOf b 63 32, tileStride := fieldOf b 31 0, tally := fieldOf e 63 47, delta := fieldOf e 46 32
    tallyEn := bitOf e 31, perTile := bitOf e 30, scaleOff := fieldOf (wordAt ws 3) 47 0 }

/-- Whether an RSV field of a post descriptor is not zero. -/
def postRsv (ws : List W64) : Bool :=
  fieldOf (wordAt ws 2) 29 0 ≠ 0 || fieldOf (wordAt ws 3) 63 48 ≠ 0 || (ws.drop 4).any fun w => w ≠ 0

/-- The words of the post descriptor that a chain names; none for a chain without a tile post. -/
def postWords (s : State) (c : Nat) (d : Chain) : List W64 :=
  match stageOfKind 12 d.stages with
  | some st => benchWords s c (128 * (st.param % 65536)) 8
  | none => []

/-- Bytes cut at the 1 KiB slots of the target. -/
def cutSlots : Nat → Nat → List Byte → List (Nat × List Byte)
  | 0, _, _ => []
  | k + 1, o, bs =>
    let n := 1024 - o % 1024
    if bs.isEmpty then [] else (o, bs.take n) :: cutSlots k (o + n) (bs.drop n)

/-- Where a post puts the elements of row `i` of a tile. -/
def postRange (p : PostDesc) (x : TileCtx) (i : Nat) : Nat × Nat :=
  (p.offset + x.tile * p.tileStride + i * p.rowStride, fmtBytes x.chain.outFmt x.cols)

/-- The writes of a list of pieces, the last byte in part when `bits` of it alone belong to the row (R170). The fill mark
stands on the last write to each slot, unless a later row writes the slot too (R294). -/
def pieceOps (tagged fill : Bool) (later : List Nat) (bits : Fin 8) : List (Nat × List Byte) → List (Nat × RemoteOp)
  | [] => []
  | p :: ps =>
    let slot := p.1 / 1024
    let mark : TagMark :=
      if !tagged then .plain
      else if fill && !((ps.any fun q => q.1 / 1024 = slot) || later.contains slot) then .pass else .hold
    if !ps.isEmpty || bits = 0 then (p.1, .write p.2 mark (some (crc32c p.2))) :: pieceOps tagged fill later bits ps
    else
      let n := p.2.length - 1
      let last : Nat × RemoteOp := (p.1 + n, .part (p.2.getD n 0) bits mark)
      if n = 0 then [last] else [(p.1, .write (p.2.take n) (if tagged then .hold else .plain) (some (crc32c (p.2.take n)))), last]

/-- The writes of a row's post: its scales, always untagged (R184), then its elements; `later` are the slots that the item
still posts to. -/
def rowPost (p : PostDesc) (sat : Bool) (x : TileCtx) (i : Nat) (vs : List Num) (later : List Nat) : List (Nat × RemoteOp) :=
  let fmt := x.chain.outFmt
  let f := formRow fmt sat vs
  let bits : Fin 8 := Fin.ofNat 8 (fmtBits fmt * x.cols % 8)
  (if isBlock fmt then
    [(p.scaleOff + scaleIndex x i, .write ((f.2.1.take (scaleCount fmt x.cols)).map (BitVec.ofNat 8)) .plain
      (some (crc32c ((f.2.1.take (scaleCount fmt x.cols)).map (BitVec.ofNat 8)))))]
  else []) ++
  pieceOps p.tagged p.fill later bits (cutSlots 64 (postRange p x i).1 (rowBytesOf fmt x.cols f.1))

/-- Writes sent to a window, while the task is live. -/
def sendWrites (e : Engine) (k rank w : Nat) : List (Nat × RemoteOp) → State → State
  | [], s => s
  | p :: ps, s => sendWrites e k rank w ps (if taskLive s k then windowAccess e k rank w p.1 p.2 s else s)

/-- Whether a request is a write with the fill mark: a release, which follows every earlier access of its engine (R310). -/
def marksFill : RemoteOp → Bool
  | .write _ .pass _ | .part _ _ .pass => true
  | _ => false

/-- Whether a list of writes cannot all be presented now. The last may stand in a wait register of its target. -/
def writesWait (s : State) (e : Engine) (k rank w : Nat) (ps : List (Nat × RemoteOp)) : Bool :=
  (accessOut s e && ps.any fun p => marksFill p.2) || stuckIn ps
where
  /-- The memory and the order of the writes. -/
  stuckIn : List (Nat × RemoteOp) → Bool
  | [] => false
  | [p] => windowStuck s e k rank w p.1 (opBytes p.2) p.2
  | p :: ps => windowWaits s e k rank w p.1 p.2 || stuckIn ps

/-- The tally add that R431 asks for after a tile: it follows every write of the window, through the net port. -/
def postTally (c : CoreId) (k : Nat) (p : PostDesc) (x : TileCtx) (s : State) : State :=
  let e : Engine := .netPort c
  let due := (coreAt s c).net.due
  if !(p.tallyEn && (p.perTile || x.tile + 1 = max 1 x.chain.tpr) && taskLive s k) then s
  else if due.isEmpty && !(windowOut s e p.rank p.window) then
    windowAccess e k p.rank p.window 0 (.tallyAdd p.tally (BitVec.ofNat 32 p.delta)) s
  else modCore s c fun q =>
    { q with net := { q.net with due := due ++ [.rtally p.window p.rank p.tally p.delta true] } }

/-! ### Hands (R492, R493, R496) -/

def streamAt (s : State) (n : Nat) : HaulStream := tget {} s.haul.streams n

/-- The module stream of a claim-relative number (R486). -/
def streamNo (s : State) (k n : Nat) : Option Nat :=
  if n < (claimAt s k).streamCount then some ((claimAt s k).streamBase + n) else none

/-- Record a fault of the haul engine (R515): the fields hold the first until the flag is cleared. -/
def recordHaul (code reason k stream qp : Nat) (s : State) : State :=
  { s with haul := { s.haul with
      fault := if s.haul.fault.fault then s.haul.fault else ⟨true, code, reason, k, stream, qp⟩ } }

/-- HAUL_DESC that aborts a task. -/
def haulDesc (k reason stream : Nat) (s : State) : State :=
  raiseFor k .haul { name := .haulDesc, reason := reason } (recordHaul 1 reason k stream 0 s)

/-- The HAUL_DESC that a hand stage raises at its chain's start (R493, R496), if any: a format other than the stream's, or
a first block that is no multiple of D ÷ 64; a stream that cannot be handed to raises it at the hand. -/
def handFault (s : State) (k outFmt : Nat) (st : Stage) : Option Nat :=
  match streamNo s k (st.param % 4096) with
  | none => none
  | some n =>
    let v := streamAt s n
    let q := fieldOf v.w0 49 46
    if v.state ≠ 1 then none
    else if st.variant = 1 && !(outFmt = 3 || outFmt = 4) then some 4
    else if q ≠ 0 && 1 < outFmt then some 4
    else if q = 0 && outFmt ≠ fieldOf v.w0 53 50 then some 4
    else if st.variant = 1 && st.param / 2 ^ 24 % 2 ^ fieldOf v.w0 23 22 ≠ 0 then some 5
    else none

/-- The group scale of the per-head form, and the elements' factor (R496). -/
def headScale (outFmt : Nat) (a : W32) : W32 × W32 :=
  let fmax : W32 := if outFmt = 3 then 0x43E00000 else 0x47600000
  let s := if isZero32 a || isNan32 a || isInf32 a then fpOne else mul32 a (recipOf fmax)
  (s, recipOf s)

/-- The piece of a row (R490, R492), and what the per-head conversion records. -/
def rowPiece (st : Stage) (absReg : Nat) (wide : Table W32) (sat : Bool) (x : TileCtx) (i : Nat) (vs : List Num) :
    HandPiece × ConvFlags :=
  let fmt := x.chain.outFmt
  let r := selNum st.o0
  let sc := headScale fmt (tget 0 wide (statKey absReg i))
  let f := if st.variant = 1 then formRow fmt true (vs.map fun v => num32 (mul32 (round32 v) sc.2)) else formRow fmt sat vs
  ({ stream := st.param % 4096, isV := st.param / 2 ^ 23 % 2 = 1, layer := (laneAt wide r 1).toNat
     token := (laneAt wide r 0).toNat + i, block := st.param / 2 ^ 24 + x.tile, format := fmt, sat := sat
     data := packElems fmt f.1
     scales := if st.variant = 1 then leBytes 4 sc.1.toNat else f.2.1.map (BitVec.ofNat 8) },
   if st.variant = 1 then f.2.2 else {})

/-- The hand stage of a part, on a row: its piece goes to the haul engine. -/
def handRow (sts : List Stage) (sat : Bool) (x : TileCtx) (i : Nat) (vs : List Num) (s : State) : State :=
  match stageOfKind 13 sts with
  | none => s
  | some st =>
    let absReg := match x.chain.stages.find? fun g => isGather g && g.variant = 4 with
      | some g => selNum g.o0
      | none => 0
    let r := rowPiece st absReg (coreAt s x.core).drs.wide sat x i vs
    modDrs (noteConv x.core r.2 s) x.core fun q => { q with hands := q.hands ++ [r.1] }

/-! ### The whole output of a row -/

/-- Whether a part of a chain forms its rows in out_format: for the bench, a post, or a hand that is no per-head one, which
forms its own (R697). -/
def formsRows (d : Chain) (sts : List Stage) : Bool :=
  !d.outNone || (stageOfKind 12 sts).isSome || (match stageOfKind 13 sts with
    | some st => st.variant = 0
    | none => false)

/-- The post of a part of a chain whose post descriptor has these words. -/
def partPost (sts : List Stage) (ws : List W64) : Option PostDesc := (stageOfKind 12 sts).map fun _ => postOf ws

/-- A row put out: counted and written to the bench, posted and handed; `later` are the slots that the item still posts
to. -/
def putRow (c : CoreId) (k : Nat) (sts : List Stage) (post : List W64) (sat : Bool) (x : TileCtx) (i : Nat) (vs : List Num)
    (later : List Nat) (s : State) : State :=
  if x.cols = 0 then s
  else
    let f := formRow x.chain.outFmt sat vs
    let s1 := if formsRows x.chain sts then noteConv c f.2.2 s else s
    let s2 := if x.chain.outNone then s1 else writeOutRow sts x i f s1
    let s3 := match partPost sts post with
      | some p => sendWrites (.netPort c) k p.rank p.window (rowPost p sat x i vs later) s2
      | none => s2
    handRow sts sat x i vs s3

/-- What an item meets before it runs. -/
inductive Ready where
  | go
  | stay
  /-- A tagged access must wait at a slot. -/
  | hold (slot : Nat) (isWrite : Bool)
  | err (f : FaultInfo)
  deriving DecidableEq, Repr

def Ready.and : Ready → Ready → Ready
  | .go, r => r
  | r, _ => r

def readyGate : Gate → Ready
  | .go => .go
  | .wait => .stay
  | .err f => .err f

/-- Whether reads may go: the bench's gates, then the tags of the tagged ones. -/
def readsReady (s : State) (c : Nat) (all tagged : List (Nat × Nat)) : Ready :=
  (readyGate (gates (fun o n => benchGate s c o n true) all)).and
    (match slotsBlock s c (.dressing (Fin.ofNat 128 c)) false (slotsOf tagged) with
      | some slot => .hold slot false
      | none => .go)

/-- The POST_DESC or HAUL_DESC that a chain raises at its start (R431, R493), as the state after it. -/
def netFaults (c : CoreId) (k : Nat) (d : Chain) (post : List W64) (s : State) : Option State :=
  if (stageOfKind 12 d.stages).isSome && postRsv post then
    let p := postOf post
    some (raise (.netPort c) { name := .postDesc } (recordNet c 2 0 p.window p.rank s))
  else hand
where
  /-- The hand stage's part. -/
  hand : Option State := match stageOfKind 13 d.stages with
    | some st => (handFault s k d.outFmt st).map fun r => haulDesc k r (st.param % 4096) s
    | none => none

end Sys2Proof.Machine
end

