-- ==== Sys2Proof/Machine/Dressing.lean ====
section
/-! DEFINITION. The items of the dressing queue: drains, prologues, passes, closing passes and the dressing instructions
(05 R168 to R206; 09 R350, R354, R355). A chain runs row by row, as far as nothing stands before the next one. -/

namespace Sys2Proof.Machine

/-! ### Parts of a chain and their rows -/

/-- Where the rows of a part come from. -/
inductive RowSource where
  /-- Accumulator rows (R174). -/
  | acc (r : DrainRows)
  /-- Bench rows of elements in in_format, one tile after another (R175, R176). -/
  | bench (start stride : Nat)
  /-- The hold region of a marker (R196). -/
  | held (st : Stage)
  /-- Normalised rows of an attention call (R220). -/
  | given (rows : List (List W32))
  deriving DecidableEq, Repr

/-- Where the rows of a part go. -/
inductive RowSink where
  | out
  /-- The hold region of a marker (R195). -/
  | hold (st : Stage)
  /-- The activation chutes of a prologue's MMA (R175). -/
  | slices (op : MmaOp)
  deriving DecidableEq, Repr

/-- A part of a chain that runs as an item: its stages, and those of a later part; `no` is the item's number, `more` the
tiles that later items bring, `main` whether its tiles count (R194), `call` whether it closes an attention call. -/
structure RowJob where
  ref : ChainRef
  no : Nat
  chain : Chain
  post : List W64
  sts : List Stage
  later : List Stage := []
  src : RowSource
  sink : RowSink
  sat : Bool
  more : List Nat := []
  main : Bool := false
  call : Bool := false
  deriving DecidableEq, Repr

/-- A step of an item: a row of a tile, or the end of a tile with its rows. -/
inductive RowUnit where
  | row (x : TileCtx) (i : Nat)
  | tile (x : TileCtx) (rows : List Nat)
  deriving DecidableEq, Repr

/-- The steps of an item that takes tile after tile. -/
def tileUnits (xs : List TileCtx) (rows : List Nat) : List RowUnit :=
  xs.flatMap fun x => rows.map (RowUnit.row x) ++ [.tile x rows]

/-- The steps of a prologue, which takes the tiles of a slice together (R170). -/
def sliceUnits (xs : List TileCtx) (rows : List Nat) : List RowUnit :=
  (rows.flatMap fun i => xs.map fun x => RowUnit.row x i) ++ xs.map fun x => .tile x rows

/-- The rows of a list of steps. -/
def unitRows (us : List RowUnit) : List (TileCtx × Nat) :=
  us.filterMap fun u => match u with
    | .row x i => some (x, i)
    | .tile _ _ => none

/-- Whether every earlier-issued MMA that writes rows `base` to `base + m - 1` of the arrays of a mask is complete (R105,
R190). -/
def rowsComplete (s : State) (c no mask base m : Nat) : Bool :=
  let k := (coreAt s c).mat
  let meets (op : MmaOp) : Bool :=
    op.mask &&& mask ≠ 0 && op.base < base + m && base < op.base + op.m
  !(k.queue.any fun e => e.no < no && (match e.item with
    | .mma op => meets op
    | _ => false)) &&
    !(k.run.any fun q => q.no < no && meets { q.op with base := q.op.base + q.row, m := q.op.m - q.row }) &&
    !(k.flight.any fun f => f.no < no && meets { f.op with base := f.op.base + f.row, m := 1 })

/-- Whether row `i` of a drain, and every partner row that gates it, is complete (R105, R190). -/
def rowDue (s : State) (c no : Nat) (d : Chain) (r : DrainRows) (i : Nat) : Bool :=
  let mask := 2 ^ (i / r.m)
  rowsComplete s c no mask (r.base + i % r.m) 1 &&
    d.stages.all fun st => !(st.kind = 4 && selSrc st.o0 = 3) ||
      rowsComplete s c no mask (st.param % 256 + i % r.m) 1

/-! ### The hold region (R195 to R197) -/

/-- Where row `i` of a tile is held, as an offset in the hold region. A dressing pass has no M; its row count stands for 4M
(DESIGN CHOICE, log entry 124: R195 gives the offset by 4M alone). -/
def heldOffset (rows t i : Nat) : Nat := (t * rows + i) * 256

/-- The hold region of a marker: its bench offset and its size. -/
def holdBase (st : Stage) : Nat := st.o1 * 65536
def holdSize (st : Stage) : Nat := st.o2 * 65536

/-- The bench range that a row of a tile is held in. -/
def heldRange (st : Stage) (x : TileCtx) (i : Nat) : Nat × Nat := (holdBase st + heldOffset x.rows x.tile i, 4 * x.cols)

/-- Whether a row of a tile would pass the end of the hold region (R197). -/
def pastHold (j : RowJob) (x : TileCtx) (i : Nat) : Bool :=
  match j.sink with
  | .hold st => holdSize st < heldOffset x.rows x.tile i + 4 * x.cols
  | _ => false

/-! ### What a row reads and writes -/

/-- The bench range of a row's own input. -/
def inputRange (j : RowJob) (x : TileCtx) (i : Nat) : List (Nat × Nat) :=
  let e := fmtBytes j.chain.inFmt 1
  match j.src with
  | .bench start stride => [(start + i * stride + 64 * e * x.tile, 64 * e)]
  | .held st => [heldRange st x i]
  | _ => []

/-- The numbers of a row as they enter the first stage. -/
def inputNums (s : State) (j : RowJob) (x : TileCtx) (i : Nat) : List Num :=
  match j.src with
  | .acc r => (upFrom 0 r.n).map fun n => accNum s x.core (i / r.m) (r.base + i % r.m) n
  | .bench _ _ => (inputRange j x i).flatMap fun r => readNums j.chain.inFmt (benchBytes s x.core r.1 r.2) [] 0 64
  | .held st => readNums 0 (benchBytes s x.core (heldRange st x i).1 (4 * x.cols)) [] 0 x.cols
  | .given rows => (((rows.getD i []).drop (64 * x.tile)).take 64).map num32

/-- The bench ranges that a row writes: its elements, and all it writes. -/
def rowElems (j : RowJob) (x : TileCtx) (i : Nat) : List (Nat × Nat) :=
  match j.sink with
  | .out => elemOut x i
  | _ => []
def rowWrites (j : RowJob) (x : TileCtx) (i : Nat) : List (Nat × Nat) :=
  match j.sink with
  | .out => elemOut x i ++ scaleOut j.sts x i
  | .hold st => [heldRange st x i]
  | .slices _ => []

/-- The slots that the steps of a list still write with tagged writes, and those that they still post to (R294). -/
def laterWrites (j : RowJob) (us : List RowUnit) : List Nat :=
  if j.chain.outTagged then slotsOf ((unitRows us).flatMap fun u => rowElems j u.1 u.2) else []
def laterPosts (j : RowJob) (us : List RowUnit) : List Nat :=
  match partPost j.sts j.post with
  | some p => if p.tagged && p.fill then slotsOf ((unitRows us).map fun u => postRange p u.1 u.2) else []
  | none => []

/-- The slots that a step empties: those of its streams marked release that nothing of the chain reads later (R180, R294):
no later step, no tile that a later item brings, and no closing part. The width of a tile to come is taken to be 64. -/
def releasedBy (j : RowJob) (us : List RowUnit) (rows : List Nat) (x : TileCtx) (i : Nat) : List Nat :=
  let free (y : TileCtx) (sts : List Stage) (rs : List Nat) : List (Nat × Nat) :=
    readsWhere y (fun sl => sl.tagged && sl.release) (streamReads y sts rs)
  let mine := slotsOf (free x j.sts [i])
  if mine.isEmpty then []
  else
    let wide (t : Nat) : TileCtx := { x with tile := t, cols := 64 }
    let rest := slotsOf (((unitRows us).flatMap fun u => free u.1 j.sts [u.2]) ++
      (j.more.flatMap fun t => free (wide t) j.sts rows) ++
      if j.later.isEmpty then [] else (upFrom 0 (max 1 j.chain.tpr)).flatMap fun t => free (wide t) j.later rows)
    mine.filter fun y => !(rest.contains y)

/-- What stands before a row (R105, R204, R251, R296): its accumulator rows or chutes, then the bench's gates, the tags of
its streams and of its output, and the target of its post. -/
def rowReady (s : State) (c : CoreId) (k : Nat) (j : RowJob) (us : List RowUnit) (busy : Bool) (x : TileCtx) (i : Nat) :
    Ready :=
  let reads := streamReads x j.sts [i]
  let due := match j.src with
    | .acc r => rowDue s c j.no j.chain r i
    | _ => !busy
  let elems := rowElems j x i
  if !due then .stay
  else
    ((readsReady s c (inputRange j x i ++ reads.map fun r => r.2) (readsWhere x (fun sl => sl.tagged) reads)).and
      (readyGate (gates (fun o n => benchGate s c o n false) (rowWrites j x i)))).and
      ((tagReady (if j.chain.outTagged then slotsBlock s c (.dressing c) true (slotsOf elems) else none)).and
        (postReady (partPost j.sts j.post)))
where
  /-- The tags of the output slots. -/
  tagReady : Option Nat → Ready
    | some slot => .hold slot true
    | none => .go
  /-- The target of the post. -/
  postReady : Option PostDesc → Ready
    | some p =>
      if x.cols ≠ 0 && writesWait s (.netPort c) k p.rank p.window
          (rowPost p j.sat x i (inputNums s j x i) (laterPosts j us)) then .stay else .go
    | none => .go

/-- Whether a sealed tile that the item's streams read whole, and that this row touches, has another CRC than its seal
(R204, R639). -/
def rowBroken (s : State) (j : RowJob) (all : List RowUnit) (x : TileCtx) (i : Nat) : Bool :=
  let mine := (streamReads x j.sts [i]).flatMap fun r => unitsIn 4096 r.2.1 r.2.2
  (sealedWhole s x.core ((unitRows all).flatMap fun u => (streamReads u.1 j.sts [u.2]).map fun r => r.2)).any fun t =>
    mine.contains t.1 && crc32c (benchBytes s x.core (4096 * t.1) 4096) != t.2

/-! ### What a row does -/

/-- The values of a row after the stages of its part, with the wide registers. A chain with no stage leaves the numbers as
they are; with one or more they are FP32 first (R178). -/
def rowValues (s : State) (j : RowJob) (x : TileCtx) (i : Nat) : List Num × Table W32 :=
  let q := (coreAt s x.core).drs
  let vs := inputNums s j x i
  if j.chain.count = 0 then (vs, q.wide)
  else
    let v := runStages s x i j.sts ⟨vs.map round32, q.wide, q.cols⟩
    (v.xs.map num32, v.wide)

/-- Part of a dressed slice written to its chute, data and scales in the layout of R695. -/
def writeSlice (op : MmaOp) (fmt : Nat) (x : TileCtx) (i : Nat) (vs : List Num) (s : State) : State :=
  let pos := 64 * slicePositions op.sfmt
  let sc := sliceScales op.sfmt
  let f := convertRow fmt op.sat vs
  let o := actSize * (i / op.m) + 64 * op.source
  modMat (noteConv x.core f.2.2 s) x.core fun m =>
    { m with act := tputN 0 (tputN 0 m.act (o + pos * (i % op.m) + fmtBytes fmt 64 * x.tile) (packElems fmt f.1))
               (o + pos * op.m + sc * (i % op.m) + scaleCount fmt 64 * x.tile) (f.2.1.map (BitVec.ofNat 8)) }

/-- A row held in FP32 (R195). -/
def holdRow (st : Stage) (x : TileCtx) (i : Nat) (vs : List Num) (s : State) : State :=
  modDrs (writeBench s x.core (heldRange st x i).1 (vs.flatMap fun v => leBytes 4 (round32 v).toNat)) x.core fun q =>
    { q with holdBytes := q.holdBytes + 256 }

/-- A row through the stages of its part, and to its sink. -/
def doRow (c : CoreId) (k : Nat) (j : RowJob) (us : List RowUnit) (rows : List Nat) (x : TileCtx) (i : Nat) (s : State) :
    State :=
  let v := rowValues s j x i
  let free := releasedBy j us rows x i
  let s0 := modDrs (unhold s c (.dressing c)) c fun q => { q with wide := v.2 }
  let s1 := setTags s0 c false free
  match j.sink with
  | .hold st => holdRow st x i v.1 s1
  | .slices op => writeSlice op j.chain.outFmt x i v.1 s1
  | .out =>
    let s2 := putRow c k j.sts j.post j.sat x i v.1 (laterPosts j us) s1
    if j.chain.outTagged then
      let rest := laterWrites j us
      setTags s2 c true ((slotsOf (elemOut x i)).filter fun y => !(rest.contains y))
    else s2

/-! ### What the end of a tile does -/

/-- The tile that a chain's next item takes (R194). -/
def nextTile (s : State) (c handle : Nat) (d : Chain) : Nat := tget 0 (coreAt s c).drs.tiles handle % max 1 d.tpr

/-- Count a tile of a chain. The count stands until the row set is full, across the end of a task and a move to another
claim; only an abort clears it (DESIGN CHOICE, log entry 125: R194 is silent). -/
def countTile (c handle : Nat) (x : TileCtx) (s : State) : State :=
  let last := x.tile + 1 = max 1 x.chain.tpr
  modDrs s c fun q =>
    { q with tiles := tput 0 q.tiles handle (if last then 0 else x.tile + 1)
             widths := tput [] q.widths handle
               (if last && (markerOf x.chain).isNone then [] else
                 (if x.tile = 0 then [] else tget [] q.widths handle) ++ [x.cols]) }

/-- Row pairs of a tile, doubled by a partner multiply, and the beats that the P-dress limit adds (R190, R206). -/
def countBeats (c : Nat) (d : Chain) (bytes rows : Nat) (s : State) : State :=
  let twice := d.stages.any fun st => st.kind = 4 && selSrc st.o0 = 3
  let pairs := (rows + 1) / 2 * (if twice then 2 else 1)
  modDrs s c fun q =>
    { q with beats := wrapAdd 64 q.beats pairs
             portBeats := wrapAdd 64 q.portBeats ((bytes + 511) / 512 - pairs) }

/-- Bytes of a list of ranges. -/
def bytesIn (rs : List (Nat × Nat)) : Nat := rs.foldl (fun n r => n + r.2) 0

/-- The ranges that a tile moves through P-dress; a column vector is read once (R188). -/
def tileRanges (j : RowJob) (x : TileCtx) (rows : List Nat) : List (Nat × Nat) :=
  (rows.flatMap fun i => inputRange j x i) ++ ((streamReads x j.sts rows).map fun r => r.2) ++
    rows.flatMap fun i => rowWrites j x i

/-- The end of a tile: what it counts, the columns it gathered, and the tally of its post. -/
def endTile (c : CoreId) (k : Nat) (j : RowJob) (x : TileCtx) (rows : List Nat) (s : State) : State :=
  let rs := tileRanges j x rows
  let s1 := countPort c .pDress (lineCount rs) (countBeats c j.chain (bytesIn rs) rows.length s)
  let s2 := if j.main then countTile c j.ref.handle x s1 else s1
  let s3 := modDrs s2 c fun q => { q with cols := tileCols x j.sts q.cols }
  match j.sink, partPost j.sts j.post with
  | .out, some p => if x.cols = 0 then s3 else postTally c k p x s3
  | _, _ => s3

/-! ### The steps of an item -/

/-- Whether an earlier fill or MMA that uses the activation chutes is not through yet (R251). -/
def chutesBusy (m : MatState) (no : Nat) : Bool :=
  m.queue.any (fun e => e.no < no && (match e.item with
    | .mma op => op.m ≠ 0
    | .fill op => op.target < 5
    | _ => false)) || m.run.any fun q => q.no < no

/-- The attention call is over without its closing: its task aborts. -/
def dropCall (c : Nat) (s : State) : State :=
  modDrs (modAtt s c fun a => { a with call := none, kvWait := false }) c fun d =>
    { d with prog := none, position := 3, handle := 0 }

/-- The item is over, done or not. -/
def dropPart (c : Nat) (j : RowJob) (s : State) : State := if j.call then dropCall c s else popDressing c s

/-- One step more. -/
def stepDone (c : Nat) (s : State) : State :=
  modDrs s c fun q => { q with prog := q.prog.map fun g => { g with done := g.done + 1 } }

/-- The steps of an item, as far as nothing stands before them; true when all are through. A held write past the end of the
hold region raises CHAIN_HOLD, recorded with stage index 0 (DESIGN CHOICE, log entry 123: R206 names none). -/
def runUnits (c : CoreId) (k : Nat) (j : RowJob) (rows : List Nat) (all : List RowUnit) :
    List RowUnit → State → Bool × State
  | [], s => (unitLive s c, s)
  | .tile x is :: us, s =>
    if unitLive s c then runUnits c k j rows all us (stepDone c (endTile c k j x is s)) else (false, s)
  | .row x i :: us, s =>
    let busy := match j.sink with
      | .slices _ => chutesBusy (coreAt s c).mat j.no
      | _ => false
    if !(unitLive s c) then (false, s)
    else if pastHold j x i then
      (false, raise (.dressing c) { name := .chainHold } (recordDressing c 2 0 0 j.ref.handle (dropPart c j s)))
    else match rowReady s c k j us busy x i with
      | .stay => (false, s)
      | .hold slot w => (false, holdItem s c (.dressing c) .pDress slot w j.ref.cls)
      | .err f => (false, raiseBench (.dressing c) .pDress c (fieldOf f.address 51 0) f (dropPart c j s))
      | .go =>
        if rowBroken s j all x i then
          (false, raise (.dressing c) { name := .tileCrc, reason := 2 } (dropPart c j s))
        else runUnits c k j rows all us (stepDone c (doRow c k j us rows x i s))

/-- The aligned 4 KiB tiles that an item has written whole are sealed, in its own bench and where it posts (R638). -/
def sealItem (c : CoreId) (k : Nat) (j : RowJob) (all : List RowUnit) (s : State) : State :=
  let rows := unitRows all
  let s1 := sealWritten s c (rows.flatMap fun u => rowWrites j u.1 u.2)
  match partPost j.sts j.post with
  | some p => sealPost (.netPort c) k p.rank p.window (rows.map fun u => postRange p u.1 u.2) s1
  | none => s1

/-- An item goes on from its first step that is not through; with the last it ends as `finish` says. The module's answer is
the caller's. -/
def runPart (c : CoreId) (k : Nat) (j : RowJob) (rows : List Nat) (all : List RowUnit) (finish : State → State) (s : State) :
    State :=
  match (coreAt s c).drs.prog with
  | some g =>
    let r := runUnits c k j rows all (all.drop g.done) s
    { (if r.1 then finish (sealItem c k j all r.2) else r.2) with answer := s.answer }
  | none => s

/-- A unit's item that is not ready: it waits, stands in a wait register, or faults and is gone. -/
def notReady (c : CoreId) (cls : Nat) (r : Ready) (s t : State) : State :=
  match r with
  | .go => t
  | .stay => s
  | .hold slot w => holdItem s c (.dressing c) .pDress slot w cls
  | .err f => raiseBench (.dressing c) .pDress c (fieldOf f.address 51 0) f (popDressing c s)

/-! ### Starting a chain -/

/-- An item begins: its descriptors, its tile, and the position and handle that CORE_DRS_STATUS shows. -/
def beginPart (c : Nat) (handle position : Nat) (ws post : List W64) (tile : Nat) (s : State) : State :=
  modDrs s c fun q => { q with prog := some ⟨ws, post, tile, 0⟩, position := position, handle := handle }

/-- A chain starts: its descriptor is read and checked, then its post and hand (R203, R431, R493). -/
def startChain (c : CoreId) (k : Nat) (ref : ChainRef) (position sfmt rows m : Nat) (s : State) : State :=
  let o := 128 * ref.handle
  if benchSize < o + 128 then chainDesc c ref.handle (9, 15) (popDressing c s)
  else match benchGate s c o 128 true with
    | .err f => raiseBench (.dressing c) .pDress c o f (popDressing c s)
    | .wait => s
    | .go =>
      let ws := benchWords s c o 16
      let d := chainOf ws
      let post := postWords s c d
      match chainFault c d position sfmt rows m with
      | some r => chainDesc c ref.handle r (popDressing c s)
      | none => match netFaults c k d post (popDressing c s) with
        | some t => t
        | none => beginPart c ref.handle position ws post (nextTile s c ref.handle d) s

/-- The end of an item's main part: with the last tile of a chain that holds its tiles, the closing pass takes the item's
place in the queue (R196). -/
def finishMain (c : CoreId) (j : RowJob) (words : List W64) (rows : List Nat) (count : Nat) (s : State) : State :=
  let q := (coreAt s c).drs
  let t := popDressing c s
  if (markerOf j.chain).isSome && tget 0 q.tiles j.ref.handle = 0 then
    modDrs t c fun q => { q with
      queue := ⟨j.no, .closing j.ref words j.post rows count (tget [] q.widths j.ref.handle) j.sat⟩ :: q.queue
      widths := tput [] q.widths j.ref.handle [] }
  else t

/-- The sink of a chain's main part. -/
def mainSink (d : Chain) : RowSink := match markerOf d with
  | some st => .hold st
  | none => .out

/-! ### Epilogues and drains (R174, R350) -/

/-- The part that a drain runs. -/
def drainJob (no : Nat) (ref : ChainRef) (r : DrainRows) (sat : Bool) (g : ItemProg) : RowJob :=
  let d := chainOf g.words
  { ref := ref, no := no, chain := d, post := g.post, sts := mainPart d, later := closingPart d, src := .acc r
    sink := mainSink d, sat := sat, more := upFrom (g.tile + 1) (max 1 d.tpr - (g.tile + 1)), main := true }

/-- A drain that has started goes on. -/
def drainOn (c : CoreId) (k no : Nat) (ref : ChainRef) (r : DrainRows) (sat : Bool) (s : State) : State :=
  match (coreAt s c).drs.prog with
  | some g =>
    let j := drainJob no ref r sat g
    let rows := rowIndices r.mask r.m
    runPart c k j rows (tileUnits [⟨c, j.chain, 4 * r.m, g.tile, r.n, r.m⟩] rows)
      (finishMain c j g.words rows (4 * r.m)) s
  | none => s

/-- A drain starts or goes on. With M = 0 no row runs and the chain has no effect (R119). -/
def drainItem (c : CoreId) (k no : Nat) (ref : ChainRef) (r : DrainRows) (sat isDrain : Bool) (s : State) : State :=
  if (coreAt s c).drs.prog.isSome then drainOn c k no ref r sat s
  else if isDrain && 256 < r.base + r.m then raise (.dressing c) { name := .mmaRange } (popDressing c s)
  else if r.m = 0 then popDressing c s
  else drainOn c k no ref r sat (startChain c k ref 0 0 (4 * r.m) r.m s)

/-! ### Prologues (R175) -/

/-- The part that a prologue runs. -/
def prologueJob (c no : Nat) (ref : ChainRef) (op : MmaOp) (g : ItemProg) : RowJob :=
  let d := chainOf g.words
  { ref := ref, no := no, chain := d, post := [], sts := mainPart d
    src := .bench ((ownOffset c d.place).getD 0) d.rowStride, sink := .slices op, sat := op.sat }

/-- A prologue that has started goes on: 64 columns to a tile, two tiles for a packed slice. -/
def prologueOn (c : CoreId) (k no : Nat) (ref : ChainRef) (op : MmaOp) (s : State) : State :=
  match (coreAt s c).drs.prog with
  | some g =>
    let j := prologueJob c no ref op g
    let rows := rowIndices op.mask op.m
    let xs := (upFrom 0 (if isPacked op.sfmt op.wfmt then 2 else 1)).map fun t =>
      (⟨c, j.chain, 4 * op.m, t, 64, op.m⟩ : TileCtx)
    runPart c k j rows (sliceUnits xs rows) (popDressing c) s
  | none => s

/-- A prologue whose MMA breaks R91 or R113 writes nothing: the MMA raises its fault when it starts. With M = 0 it has no
effect (R119). -/
def prologueItem (c : CoreId) (k no : Nat) (ref : ChainRef) (op : MmaOp) (s : State) : State :=
  if (coreAt s c).drs.prog.isSome then prologueOn c k no ref op s
  else if op.m = 0 || !(pairAllowed op.sfmt op.wfmt) || 256 < op.m || actSize < 64 * op.source + streamBytes op then
    popDressing c s
  else prologueOn c k no ref op (startChain c k ref 1 op.sfmt (4 * op.m) op.m s)

/-! ### Passes (R176) -/

/-- The part that a pass runs. -/
def passJob (no : Nat) (ref : ChainRef) (start stride : Nat) (sat : Bool) (g : ItemProg) : RowJob :=
  let d := chainOf g.words
  { ref := ref, no := no, chain := d, post := g.post, sts := mainPart d, later := closingPart d
    src := .bench start stride, sink := mainSink d, sat := sat, main := true }

/-- A pass that has started goes on: each row is max(1, tiles_per_row) tiles of 64 elements, with no gaps. -/
def passOn (c : CoreId) (k no : Nat) (ref : ChainRef) (rows start stride : Nat) (sat : Bool) (s : State) : State :=
  match (coreAt s c).drs.prog with
  | some g =>
    let j := passJob no ref start stride sat g
    let width := 64 * fmtBytes j.chain.inFmt 1 * max 1 j.chain.tpr
    let xs := (upFrom 0 (max 1 j.chain.tpr)).map fun t => (⟨c, j.chain, rows, t, 64, rows⟩ : TileCtx)
    if (upFrom 0 rows).any fun i => benchSize < start + i * stride + width then
      chainDesc c ref.handle (8, 15) (popDressing c s)
    else runPart c k j (upFrom 0 rows) (tileUnits xs (upFrom 0 rows)) (finishMain c j g.words (upFrom 0 rows) rows) s
  | none => s

def passItem (c : CoreId) (k no : Nat) (ref : ChainRef) (rows start stride : Nat) (sat : Bool) (s : State) : State :=
  if (coreAt s c).drs.prog.isSome then passOn c k no ref rows start stride sat s
  else passOn c k no ref rows start stride sat (startChain c k ref 2 0 rows rows s)

/-! ### DOT, CONV, wide loads and stores, LANE (R202, R354, R355) -/

/-- The dot product of one row and one column, with the chunks of an MMA of N = 1 (R202). -/
def dotValue (afmt wfmt k : Nat) (a w : List Num) (sa sw : Nat → Num) : W32 :=
  (upFrom 0 ((k + 63) / 64)).foldl (fun acc j =>
    let ps := (upFrom (64 * j) (min 64 (k - 64 * j))).map fun i =>
      scaledProduct (a.getD i .nan) (w.getD i .nan) (sa i) (sw i)
    if afmt = 5 then BitVec.ofInt 32 (acc.toInt + chunkSumInt ps)
    else add32 acc (if isHalf afmt && isHalf wfmt then chunkSum16 ps else chunkSum ps)) 0

/-- The elements of a packed vector, before any scale. -/
def rawNums (fmt n : Nat) (bs : List Byte) : List Num := (upFrom 0 n).map fun i => decodeElem fmt (elemCode fmt bs i)

def dotItem (c : CoreId) (rows cols k afmt wfmt wd : Nat) (r0 r1 r2 : W64) (s : State) : State :=
  let an := fmtBytes afmt k
  let wn := fmtBytes wfmt k
  let sn := (k + 31) / 32
  let aAt (r : Nat) : Nat := fieldOf r0 22 0 + r * fieldOf r1 31 0
  let wAt (x : Nat) : Nat := fieldOf r0 54 32 + x * fieldOf r1 63 32
  let aS (r : Nat) : Nat := fieldOf r2 22 0 + r * sn
  let wS (x : Nat) : Nat := fieldOf r2 54 32 + x * sn
  let reads := (upFrom 0 rows).map (fun r => (aAt r, an)) ++ (upFrom 0 cols).map (fun x => (wAt x, wn)) ++
    (if isBlock afmt then (upFrom 0 rows).map fun r => (aS r, sn) else []) ++
    (if isBlock wfmt then (upFrom 0 cols).map fun x => (wS x, sn) else [])
  if !(pairAllowed afmt wfmt) then raise (.dressing c) { name := .mmaFormat } (popDressing c s)
  else if reads.any fun r => benchSize < r.1 + r.2 then chainDesc c 0 (8, 15) (popDressing c s)
  else notReady c 0 (readsReady s c reads []) s
    (let scaleOf (fmt o i : Nat) : Num :=
      if isBlock fmt then decodeScale fmt (benchByte s c (o + i / 32)).toNat else .fin false 1 0
    let lanes := (upFrom 0 rows).flatMap fun r => (upFrom 0 cols).map fun x =>
      dotValue afmt wfmt k (rawNums afmt k (benchBytes s c (aAt r) an)) (rawNums wfmt k (benchBytes s c (wAt x) wn))
        (scaleOf afmt (aS r)) (scaleOf wfmt (wS x))
    modDrs (countPort c .pDress (lineCount reads) (popDressing c s)) c fun q =>
      { q with wide := tputN 0 q.wide (128 * wd) lanes })

def convItem (c : CoreId) (sfmt dfmt : Nat) (sat : Bool) (count : Nat) (r0 r1 : W64) (s : State) : State :=
  let src := fieldOf r0 22 0
  let dst := fieldOf r0 54 32
  let ss := fieldOf r1 22 0
  let ds := fieldOf r1 54 32
  let blocks := count / 32
  let reads := (src, fmtBytes sfmt count) :: (if isBlock sfmt then [(ss, blocks)] else [])
  let writes := (dst, fmtBytes dfmt count) :: (if isBlock dfmt then [(ds, blocks)] else [])
  notReady c 0 ((readsReady s c reads []).and (readyGate (gates (fun o n => benchGate s c o n false) writes))) s
    (let vs := readNums sfmt (benchBytes s c src (fmtBytes sfmt count)) (if isBlock sfmt then benchBytes s c ss blocks else [])
      0 count
    let f := convertRow dfmt sat vs
    let s1 := noteConv c f.2.2 (countPort c .pDress (lineCount (reads ++ writes)) (popDressing c s))
    let s2 := if isBlock dfmt then writeBench s1 c ds (f.2.1.map (BitVec.ofNat 8)) else s1
    writeBits c dst (fmtBits dfmt * count) (packElems dfmt f.1) s2)

/-- WLD and WST: 512 B at a bench offset. -/
def wldItem (c : CoreId) (wd o : Nat) (s : State) : State :=
  notReady c 0 (readsReady s c [(o, 512)] []) s
    (modDrs (countPort c .pDress 1 (popDressing c s)) c fun q =>
      { q with wide := tputN 0 q.wide (128 * wd) ((upFrom 0 128).map fun i => word32 (benchBytes s c (o + 4 * i) 4)) })

def wstItem (c : CoreId) (wd o : Nat) (s : State) : State :=
  notReady c 0 (readyGate (benchGate s c o 512 false)) s
    (writeBench (countPort c .pDress 1 (popDressing c s)) c o
      ((tgetN 0 (coreAt s c).drs.wide (128 * wd) 128).flatMap fun w => leBytes 4 w.toNat))

/-- The result of a LANE on one lane (R355). -/
def laneResult (funct : Nat) (a b k : W32) (p : Bool) : W32 :=
  match funct with
  | 0 => add32 a b | 1 => sub32 a b | 2 => mul32 a b | 3 => fma32 a b k | 4 => max32 a b | 5 => min32 a b
  | 6 => exp2Of a | 7 => log2Of a | 8 => recipOf a | 9 => rsqrtOf a | 10 => tanhOf a
  | 13 => if p then a else b
  | _ => a

/-- A predicate from its 128 bits, bit 0 first. -/
def predOf (bits : List Bool) : Pred := BitVec.ofNat 128 (bits.foldr (fun b n => b2n b + 2 * n) 0)

def laneItem (c : CoreId) (funct wd wa wb wc p : Nat) (pen bsc : Bool) (imm : W32) (s : State) : State :=
  let q := (coreAt s c).drs
  let pr := predAt s c p
  let b (i : Nat) : W32 := if bsc then imm else laneAt q.wide wb i
  let s1 := popDressing c s
  if funct = 11 || funct = 12 then
    let old := predAt s c (wd % 8)
    setPred s1 c (wd % 8) (predOf ((upFrom 0 128).map fun i =>
      if pen && !(pr.getLsbD i) then old.getLsbD i
      else if funct = 11 then lt32 (laneAt q.wide wa i) (b i) else eq32 (laneAt q.wide wa i) (b i)))
  else
    modDrs s1 c fun d => { d with wide := tputN 0 d.wide (128 * wd) ((upFrom 0 128).map fun i =>
      if pen && !(pr.getLsbD i) then laneAt q.wide wd i
      else laneResult funct (laneAt q.wide wa i) (b i) (laneAt q.wide wc i) (pr.getLsbD i)) }

/-! ### Starting an item -/

/-- The item at the head of the dressing queue starts, when the previous one is through with its hands (R171, R494), or goes
on; an attention call and a closing pass start by their own commands. -/
def dressingStart (c : CoreId) (s : State) : State :=
  let k := coreAt s c
  match k.drs.queue, coreOwner s c with
  | e :: _, some cl =>
    if !(unitLive s c) || k.att.call.isSome || (k.drs.prog.isNone && !k.drs.hands.isEmpty) then s
    else match e.item with
      | .drain ref rows sat isDrain => drainItem c cl e.no ref rows sat isDrain s
      | .prologue ref op => prologueItem c cl e.no ref op s
      | .pass ref rows start stride sat => passItem c cl e.no ref rows start stride sat s
      | .dot rows cols kk afmt wfmt wd r0 r1 r2 => dotItem c rows cols kk afmt wfmt wd r0 r1 r2 s
      | .conv sfmt dfmt sat count r0 r1 => convItem c sfmt dfmt sat count r0 r1 s
      | .wld wd o => wldItem c wd o s
      | .wst wd o => wstItem c wd o s
      | .lane funct wd wa wb wc p pen bsc imm => laneItem c funct wd wa wb wc p pen bsc imm s
      | .attend _ => s
      | .closing _ _ _ _ _ _ _ => s
  | _, _ => s

def execDressingItemStart (c : CoreId) (s : State) : Host.Outcome State Fault Refusal :=
  .next (coincide (.dressing c) (dressingStart c) s)

/-! ### Closing passes (R196) -/

/-- The part that a closing pass runs. -/
def closingJob (no : Nat) (ref : ChainRef) (st : Stage) (d : Chain) (post : List W64) (sat : Bool) : RowJob :=
  { ref := ref, no := no, chain := d, post := post, sts := closingPart d, src := .held st, sink := .out, sat := sat }

/-- The end of a closing pass: it is counted, and its tiles are held no more. -/
def closed (c : Nat) (rows tiles : Nat) (s : State) : State :=
  modDrs (popDressing c s) c fun q =>
    { q with closes := wrapAdd 32 q.closes 1, closeWait := false, holdBytes := q.holdBytes - 256 * rows * tiles }

/-- The held tiles through the closing part, in tile order, and out. -/
def runClosing (c : CoreId) (k no : Nat) (ref : ChainRef) (st : Stage) (words post : List W64) (rows : List Nat)
    (count : Nat) (ws : List Nat) (sat : Bool) (s : State) : State :=
  let d := chainOf words
  let j := closingJob no ref st d post sat
  let xs := ws.zipIdx.map fun p => (⟨c, d, count, p.2, p.1, max 1 (count / 4)⟩ : TileCtx)
  let t := if (coreAt s c).drs.prog.isSome then s else beginPart c ref.handle d.position words post 0 s
  runPart c k j rows (tileUnits xs rows) (closed c rows.length ws.length) t

/-- A closing pass waits on its tally (R196, R206, R331). -/
def closeWaits (c : Nat) (s : State) : State :=
  modSync (modDrs s c fun q => { q with closeWait := true }) c fun y => { y with otherWaits := wrapAdd 32 y.otherWaits 1 }

/-- The closing pass at the head of the queue waits on its tally, or runs. -/
def closeOn (c : CoreId) (k no : Nat) (ref : ChainRef) (st : Stage) (words post : List W64) (rows : List Nat)
    (count : Nat) (ws : List Nat) (sat : Bool) (s : State) : State :=
  let q := (coreAt s c).drs
  let n := st.param / 2 ^ 15
  if q.prog.isSome || st.variant = 0 then runClosing c k no ref st words post rows count ws sat s
  else if !(ownsTally s k n) then
    raise (.dressing c) { name := .syncRange } (recordSync (popDressing c s) c 2 2 1 n 0)
  else if q.closeWait then modDrs s c fun q => { q with closeWaitBeats := wrapAdd 32 q.closeWaitBeats 1 }
  else
    let w : WaitEntry := ⟨n, BitVec.ofNat 32 (st.param % 2 ^ 15), .closing c, ref.cls⟩
    match tallyWait s w with
    | (.done, _) => runClosing c k no ref st words post rows count ws sat s
    | (.waits, t) => closeWaits c t
    | (.refused, t) => closeWaits c (backOff t (.wait w) 2)

/-- CLOSING_PASS_START: the closing pass at the head of the queue starts once the tally it waits on is reached, or goes on;
one that waits counts a beat of waiting. -/
def closingStart (c : CoreId) (s : State) : State :=
  let k := coreAt s c
  match k.drs.queue, coreOwner s c with
  | e :: _, some cl =>
    if !(unitLive s c) || k.att.call.isSome || (k.drs.prog.isNone && !k.drs.hands.isEmpty) then s
    else match e.item with
      | .closing ref words post rows count ws sat =>
        match markerOf (chainOf words) with
        | none => popDressing c s
        | some st => closeOn c cl e.no ref st words post rows count ws sat s
      | _ => s
  | _, _ => s

def execClosingPassStart (c : CoreId) (s : State) : Host.Outcome State Fault Refusal :=
  .next (coincide (.dressing c) (closingStart c) s)

end Sys2Proof.Machine
end

