-- ==== Sys2Proof/Machine/Attention.lean ====
section
/-! DEFINITION. Attention calls (06 R208 to R232): the steps of a call, then its closing. -/

namespace Sys2Proof.Machine

/-- An attention descriptor (R224). -/
structure AttDesc where
  mergeIn : Bool
  last : Bool
  mask : Nat
  dimCode : Nat
  rowCode : Nat
  qFmt : Nat
  kFmt : Nat
  vFmt : Nat
  group : Nat
  kvTagged : Bool
  kvRelease : Bool
  h0 : Nat
  keys : Nat
  kPlace : W64
  vPlace : W64
  stride : Nat
  scaleOff : Nat
  qPos : Nat
  kPos : Nat
  window : Nat
  sigma : W32
  stateReg : Nat
  outHandle : Nat
  tally : Nat
  lseOff : Nat
  lseEn : Bool
  outEn : Bool
  tallyEn : Bool
  qOff : Nat
  pOff : Nat
  stateOff : Nat
  deriving DecidableEq, Repr

def attOf (ws : List W64) : AttDesc :=
  let f (i hi lo : Nat) : Nat := fieldOf (wordAt ws i) hi lo
  let b (i k : Nat) : Bool := bitOf (wordAt ws i) k
  { mergeIn := b 0 63, last := b 0 62, mask := f 0 61 60, dimCode := f 0 59 58, rowCode := f 0 57 56, qFmt := f 0 55 52
    kFmt := f 0 51 48, vFmt := f 0 47 44, group := f 0 43 40, kvTagged := b 0 39, kvRelease := b 0 38, h0 := f 0 35 32
    keys := f 0 31 0, kPlace := wordAt ws 1, vPlace := wordAt ws 2, stride := f 3 63 32, scaleOff := f 3 31 0
    qPos := f 4 63 32, kPos := f 4 31 0, window := f 5 63 32, sigma := BitVec.ofNat 32 (f 5 31 0), stateReg := f 6 63 58
    outHandle := f 6 57 42, tally := f 6 41 25, lseOff := f 6 22 0, lseEn := b 7 63, outEn := b 7 62, tallyEn := b 7 61
    qOff := f 7 60 50, pOff := f 7 49 39, stateOff := f 7 38 16 }

def AttDesc.dim (d : AttDesc) : Nat := 64 * 2 ^ d.dimCode
def AttDesc.blocks (d : AttDesc) : Nat := 2 ^ d.dimCode
def AttDesc.mq (d : AttDesc) : Nat := 16 * 2 ^ d.rowCode

/-- The format of P (R212). -/
def AttDesc.pFmt (d : AttDesc) : Nat := if isHalf d.vFmt then d.vFmt else 3

/-- Slice bytes of a format in a chute (R212, R225). -/
def attSlice (fmt : Nat) : Nat := if isHalf fmt then 128 else 64

/-- Bytes of the Q region with its scales. -/
def AttDesc.qBytes (d : AttDesc) : Nat := d.blocks * d.mq * (attSlice d.qFmt + (if isBlock d.qFmt then 2 else 0))

/-- Bytes of the state region (R219). -/
def AttDesc.stateBytes (d : AttDesc) : Nat := 4 * d.mq * (d.dim + 2) * 4

/-- Whether an output chain breaks R220 or R203. -/
def outChainBad (c : Nat) (d : AttDesc) (x : Chain) : Bool :=
  (x.stages.any fun st => isGather st || isMarker st) || (chainFault c x 0 0 (4 * d.mq) d.mq).isSome

/-- The reason of ATT_DESC, if any: the rules of R232 in the order of R240's reasons. The state region is checked only when the
call merges or saves, the lse region only with lse_en, the output chain only with last and out_en (DESIGN CHOICE, log entry
127: R232 exempts an unused window field and is silent on these). -/
def attFault (c : Nat) (ws : List W64) (out : Chain) : Option Nat :=
  let d := attOf ws
  let q0 := 64 * d.qOff
  let p0 := 64 * d.pOff
  let pBytes := 2 * d.mq * attSlice d.pFmt
  let rsv := fieldOf (wordAt ws 0) 37 36 ≠ 0 || fieldOf (wordAt ws 6) 24 23 ≠ 0 || fieldOf (wordAt ws 7) 15 0 ≠ 0
  if rsv || d.dimCode = 3 || d.rowCode = 3 || d.qFmt = 15 || d.kFmt = 15 || d.vFmt = 15 then some 1
  else if d.dimCode = 2 && d.rowCode = 2 then some 2
  else if !([1, 2, 3, 4, 7, 8, 9, 10].contains d.qFmt) || !(pairAllowed d.qFmt d.kFmt) || !([1, 2, 3, 4].contains d.vFmt) ||
      (isHalf d.vFmt && d.qFmt ≠ d.vFmt) then some 3
  else if d.group = 0 || d.group ≤ d.h0 then some 4
  else if (ownOffset c d.kPlace).isNone || (ownOffset c d.vPlace).isNone then some 5
  else if actSize < q0 + d.qBytes || actSize < p0 + pBytes || (q0 < p0 + pBytes && p0 < q0 + d.qBytes) then some 6
  else if ((d.mergeIn || !d.last) && benchSize < d.stateOff + d.stateBytes) ||
      (d.lseEn && benchSize < d.lseOff + 16 * d.mq) then some 7
  else if d.last && d.outEn && outChainBad c d out then some 8
  else if 60 < d.stateReg then some 9
  else if 2 ≤ d.mask && d.window = 0 then some 10
  else none

/-! ### Rows, keys and visibility (R228 to R230) -/

/-- The token position of row `i`. -/
def rowPos (d : AttDesc) (i : Nat) : Nat := d.qPos + (d.h0 + i) / d.group

/-- Whether a key position is visible to a token position (R229). -/
def visible (d : AttDesc) (qp kp : Nat) : Bool :=
  match d.mask with
  | 0 => true
  | 1 => kp ≤ qp
  | 2 => qp < kp + d.window && kp < qp + d.window
  | _ => qp < kp + d.window && kp ≤ qp

/-- Whether tile `j` has a key that is visible to some row of the block (R230): the tokens of a block are consecutive. -/
def tileRuns (d : AttDesc) (j : Nat) : Bool :=
  let lo := d.kPos + 64 * j
  let hi := d.kPos + min (64 * j + 63) (d.keys - 1)
  let qlo := rowPos d 0
  let qhi := rowPos d (4 * d.mq - 1)
  match d.mask with
  | 0 => true
  | 1 => lo ≤ qhi
  | 2 => qlo < hi + d.window && lo < qhi + d.window
  | _ => qlo < hi + d.window && lo ≤ qhi

def tileCount (d : AttDesc) : Nat := (d.keys + 63) / 64
def runTileList (d : AttDesc) : List Nat := (upFrom 0 (tileCount d)).filter (tileRuns d)

/-- The keys of tile `j`. -/
def tileKeys (d : AttDesc) (j : Nat) : Nat := min 64 (d.keys - 64 * j)

/-! ### Tiles of K and V (R211, R226) -/

def keyOffset (c : Nat) (d : AttDesc) (n : Nat) : Nat := (ownOffset c d.kPlace).getD 0 + n * d.stride
def valueOffset (c : Nat) (d : AttDesc) (n : Nat) : Nat := (ownOffset c d.vPlace).getD 0 + n * d.stride
def keyScales (c : Nat) (d : AttDesc) (n : Nat) : Nat :=
  (ownOffset c d.kPlace).getD 0 + d.scaleOff + n * (d.dim / 32)

/-- What a tile reads: keys and values, and the keys' scales. -/
def tileReads (c : Nat) (d : AttDesc) (j : Nat) : List (Nat × Nat) :=
  (upFrom (64 * j) (tileKeys d j)).flatMap fun n =>
    [(keyOffset c d n, fmtBytes d.kFmt d.dim), (valueOffset c d n, fmtBytes d.vFmt d.dim)]
def tileScaleReads (c : Nat) (d : AttDesc) (j : Nat) : List (Nat × Nat) :=
  if isBlock d.kFmt then (upFrom (64 * j) (tileKeys d j)).map fun n => (keyScales c d n, d.dim / 32) else []

/-- What the loads of column block `h` of a tile's keys, or values, read. -/
def keyLoad (c : Nat) (d : AttDesc) (j h : Nat) : List (Nat × Nat) :=
  let e := fmtBytes d.kFmt 64
  (upFrom (64 * j) (tileKeys d j)).map fun n => (keyOffset c d n + e * h, e)
def valueLoad (c : Nat) (d : AttDesc) (j h : Nat) : List (Nat × Nat) :=
  let e := fmtBytes d.vFmt 64
  (upFrom (64 * j) (tileKeys d j)).map fun n => (valueOffset c d n + e * h, e)

/-- Whether some load of a tile reads a sealed tile whole whose CRC is not its seal (R134, R239, R639). -/
def loadsBroken (s : State) (c : Nat) (d : AttDesc) (j : Nat) (values : Bool) : Bool :=
  (upFrom 0 d.blocks).any fun h => sealBroken s c (if values then valueLoad c d j h else keyLoad c d j h)

/-- The K^T tile of tile `j`, dimensions 64h to 64h + 63: row k holds element k of every key. -/
def keyTile (s : State) (c : Nat) (d : AttDesc) (j h : Nat) : Tile :=
  let n := tileKeys d j
  let keys := (upFrom (64 * j) n).map fun x => benchBytes s c (keyOffset c d x) (fmtBytes d.kFmt d.dim)
  withChecks 64
    { fmt := d.kFmt
      rows := (upFrom 0 64).flatMap fun k =>
        let bs := packElems d.kFmt (padTo 0 64 (keys.map fun key => elemCode d.kFmt key (64 * h + k)))
        bs ++ copies (rowBytes d.kFmt false - bs.length) 0
      scales := if isBlock d.kFmt then (upFrom (64 * j) n).flatMap fun x => benchBytes s c (keyScales c d x + 2 * h) 2
        else [] }

/-- The V tile of tile `j`, columns 64h to 64h + 63; rows of keys that do not exist are free bytes and gated (R228). -/
def valueTile (s : State) (c : Nat) (d : AttDesc) (j h : Nat) : Tile :=
  let e := fmtBytes d.vFmt 64
  let n := tileKeys d j
  withChecks n
    { fmt := d.vFmt
      rows := ((upFrom (64 * j) n).flatMap fun x => benchBytes s c (valueOffset c d x + e * h) e) ++
        (upFrom (s.draws + 8192 * h) (e * (64 - n))).map Config.freeByte }

/-! ### One step (R210, R213, R215, R699) -/

/-- The streaming slice of row `m` of array `a`, chunk `h` of Q (R225). -/
def querySlice (t : MatState) (d : AttDesc) (h a m : Nat) : Slice :=
  let z := attSlice d.qFmt
  let o := actSize * a + 64 * d.qOff
  { array := a
    data := tgetN 0 t.act (o + (h * d.mq + m) * z) z
    scales := if isBlock d.qFmt then tgetN 0 t.act (o + d.blocks * d.mq * z + (h * d.mq + m) * 2) 2 else [] }

/-- An MMA of a call. -/
def attOp (d : AttDesc) (n k base : Nat) (acc : Bool) (sf wf : Nat) : MmaOp :=
  { mask := 15, m := d.mq, n := n, k := k, base := base, acc := acc, swap := true, sfmt := sf, wfmt := wf, sat := true
    source := 0 }

/-- The matrix unit in a step, and the first row whose checks fail, with its failures (R127, R239). -/
structure StepAcc where
  m : MatState
  stop : Option (FlightRow × List ChkFail) := none
  deriving DecidableEq, Repr

/-- What a fault of the hardware does in the S MMAs and in the PV MMAs of a call. -/
structure CallErrors where
  scores : List AttError
  values : List AttError
  deriving DecidableEq, Repr

/-- The errors that strike row `r` of the MMA of column block `h` in step `x`. -/
def errorsAt (errs : List AttError) (x h r : Nat) : List ArrayFault :=
  (errs.filter fun e => e.step = x && e.block.val = h && e.row.val = r).map fun e => e.error

/-- Every row of an MMA of a call through the arrays, with the slices that `f` gives, up to the first whose checks fail. -/
def attPass (d : AttDesc) (op : MmaOp) (t : Tile) (f : MatState → Nat → Nat → Slice) (errs : Nat → List ArrayFault)
    (y : StepAcc) : StepAcc :=
  if y.stop.isSome then y
  else
    (upFrom 0 d.mq).foldl (fun y r =>
      if y.stop.isSome then y
      else
        let x : FlightRow := ⟨0, op, r, (upFrom 0 4).map fun a => f y.m a r, t⟩
        let m1 := x.slices.foldl (writeRow x (errs r) 0) y.m
        match rowFails x (errs r) (rowAccs y.m x) with
        | [] => ⟨m1, none⟩
        | xs => ⟨m1, some (x, xs)⟩)
      { y with m := { y.m with
          validBeats := wrapAdd 64 y.m.validBeats (d.mq * slicePositions op.sfmt)
          wideTiles := wrapAdd 32 y.m.wideTiles (b2n t.wide), active := t, activeValid := true } }

/-- The score region of the `x`-th step that runs (R210). -/
def scoreBase (d : AttDesc) (x : Nat) : Nat := if x % 2 = 0 then 0 else d.mq

/-- The S MMAs of tile `j`. -/
def scorePass (s : State) (c : Nat) (d : AttDesc) (x j : Nat) (errs : CallErrors) (y : StepAcc) : StepAcc :=
  (upFrom 0 d.blocks).foldl (fun y h =>
    attPass d (attOp d (tileKeys d j) 64 (scoreBase d x) (h ≠ 0) d.qFmt d.kFmt) (keyTile s c d j h)
      (fun m a r => querySlice m d h a r) (errorsAt errs.scores x h) y) y

/-- The ceiling of an FP32 number; a result of zero keeps the sign. The ceiling of +infinity is NaN: R239's table has m
become NaN for a score of +infinity (DEDUCED, log entry 115). -/
def ceil32 (w : W32) : W32 :=
  match num32 w with
  | .fin n m e =>
    if isInteger m e then w
    else
      let v := floorOf n m e + 1
      round32 (.fin n v.natAbs 0)
  | .inf false => nan32
  | _ => w

/-- The running values of a row: m and l (R214). -/
structure SoftRow where
  m : W32 := inf32 true
  l : W32 := 0
  deriving DecidableEq, Repr

/-- The softmax of one row of a step: the new m and l, the correction factor, and the codes of P (R215). -/
def softmaxRow (t : MatState) (d : AttDesc) (x j i : Nat) (r : SoftRow) : SoftRow × W32 × List Nat × ConvFlags :=
  let a := i / d.mq
  let row := scoreBase d x + i % d.mq
  let sc := (upFrom 0 64).map fun k =>
    if k < tileKeys d j && visible d (rowPos d i) (d.kPos + 64 * j + k) then
      mul32 d.sigma (tget 0 t.acc (accKey a row k))
    else inf32 true
  let mNew := max32 r.m (ceil32 (treeOf max32 6 sc))
  let none_ := mNew = inf32 true
  let f := if none_ then fpOne else exp2Of (sub32 r.m mNew)
  let p := sc.map fun v => if none_ then (0 : W32) else exp2Of (sub32 v mNew)
  let q := convertRow d.pFmt true (p.map num32)
  let lt := treeOf add32 6 (q.1.map fun code => round32 (decodeElem d.pFmt code))
  (⟨mNew, add32 (mul32 r.l f) lt⟩, f, q.1, q.2.2)

/-- What the softmax of a step gives: the unit with P written, the rows' m and l, what its conversions record, and the
correction factors. -/
structure SoftAcc where
  m : MatState
  rows : List SoftRow := []
  flags : ConvFlags := {}
  factors : List W32 := []
  deriving DecidableEq, Repr

/-- The softmax of every row, with P written to the step's buffer (R212). -/
def softmaxRows (d : AttDesc) (x j : Nat) : Nat → List SoftRow → SoftAcc → SoftAcc
  | _, [], y => y
  | i, r :: rs, y =>
    let v := softmaxRow y.m d x j i r
    let z := attSlice d.pFmt
    let o := actSize * (i / d.mq) + 64 * d.pOff + (x % 2) * d.mq * z + (i % d.mq) * z
    softmaxRows d x j (i + 1) rs
      { m := { y.m with act := tputN 0 y.m.act o (packElems d.pFmt v.2.2.1) }
        rows := y.rows ++ [v.1], flags := addConv y.flags v.2.2.2, factors := y.factors ++ [v.2.1] }

/-- The first output row of column block `h` (R210). -/
def outBase (d : AttDesc) (h : Nat) : Nat := 2 * d.mq + h * d.mq

/-- A word of the accumulator times a row's factor (R213); it can become infinite or NaN (R165). -/
def correctWord (f : W32) (m : MatState) (key : Nat) : MatState :=
  let old := tget 0 m.acc key
  let new := mul32 old f
  { m with acc := tput 0 m.acc key new, arith := floatFlags old new m.arith }

/-- The correction of R213: columns 0 to 63 of the output rows times the rows' factors. -/
def correctRows (d : AttDesc) (h : Nat) (fs : List W32) (m : MatState) : MatState :=
  fs.zipIdx.foldl (fun m p => (upFrom 0 64).foldl (fun m n =>
    correctWord p.1 m (accKey (p.2 / d.mq) (outBase d h + p.2 % d.mq) n)) m) m

/-- The P slice of row `m` of array `a`. -/
def weightSlice (t : MatState) (d : AttDesc) (x a m : Nat) : Slice :=
  let z := attSlice d.pFmt
  ⟨a, tgetN 0 t.act (actSize * a + 64 * d.pOff + (x % 2) * d.mq * z + m * z) z, []⟩

/-- The PV MMAs of a step: overwrite in the first, corrected accumulate in the later ones (R213). -/
def valuePass (s : State) (c : Nat) (d : AttDesc) (x j : Nat) (fs : List W32) (errs : CallErrors) (y : StepAcc) : StepAcc :=
  (upFrom 0 d.blocks).foldl (fun y h =>
    attPass d (attOp d 64 (tileKeys d j) (outBase d h) (x ≠ 0) d.pFmt d.vFmt) (valueTile s c d j h)
      (fun m a r => weightSlice m d x a r) (errorsAt errs.values x h)
      (if x = 0 || y.stop.isSome then y else { y with m := correctRows d h fs y.m })) y

/-! ### The call -/

/-- The wide-register lanes that hold m and l of row `i` (R227). -/
def maxKey (d : AttDesc) (i : Nat) : Nat := 128 * (d.stateReg + i / 128) + i % 128
def sumKey (d : AttDesc) (i : Nat) : Nat := 128 * (d.stateReg + 2 + i / 128) + i % 128

/-- m and l of every row, kept in the state registers. -/
def keepRows (d : AttDesc) (rows : List SoftRow) (w : Table W32) : Table W32 :=
  rows.zipIdx.foldl (fun w p => tput 0 (tput 0 w (maxKey d p.2) p.1.m) (sumKey d p.2) p.1.l) w
def keptRows (d : AttDesc) (w : Table W32) : List SoftRow :=
  (upFrom 0 (4 * d.mq)).map fun i => ⟨tget 0 w (maxKey d i), tget 0 w (sumKey d i)⟩

/-- Take the call's entries off both queues. -/
def popCall (c : Nat) (s : State) : State := popDressing c (popMatrix c s)

/-- ATT_DESC (R232, R240). -/
def attDesc (c : CoreId) (handle reason : Nat) (s : State) : State :=
  raise (.matrix c) { name := .attDesc, reason := reason }
    (modAtt (popCall c s) c fun a =>
      { a with fault := if a.fault.fault then a.fault else ⟨true, 1, reason, handle⟩ })

/-- The slots that the loads of a tile empty: those that no later tile of the call reads (R224 kv_release, R294). -/
def freedSlots (c : Nat) (d : AttDesc) (j : Nat) (later : List Nat) : List Nat :=
  let rest := slotsOf (later.flatMap (tileReads c d))
  if d.kvTagged && d.kvRelease then (slotsOf (tileReads c d j)).filter fun x => !(rest.contains x) else []

/-- The arrays' part of step `x` of a call, on tile `j`: S, the softmax, then PV, up to the first check that fails. -/
def stepArrays (s : State) (c : Nat) (d : AttDesc) (x j : Nat) (errs : CallErrors) : StepAcc × SoftAcc :=
  let y := scorePass s c d x j errs ⟨(coreAt s c).mat, none⟩
  let z := softmaxRows d x j 0 (keptRows d (coreAt s c).drs.wide) { m := y.m }
  if y.stop.isSome then (y, { m := y.m }) else (valuePass s c d x j z.factors errs ⟨z.m, none⟩, z)

/-- One step of a call on tile `j` (R210 to R215); a failed check or the CRC of a sealed tile aborts the task (R127, R239). -/
def runStep (c : CoreId) (call : AttCall) (j : Nat) (later : List Nat) (errs : CallErrors) (s : State) : State :=
  let d := attOf call.words
  let s1 := countPort c .pArray (lineCount (tileReads c d j ++ tileScaleReads c d j)) (unhold s c (.matrix c))
  let crc (t : State) : State := raise (.matrix c) { name := .tileCrc, reason := 2 } (dropCall c t)
  if loadsBroken s1 c d j false then crc s1
  else
    let r := stepArrays s1 c d call.steps j errs
    let s2 := noteConv c r.2.flags { (modMat s1 c fun _ => r.1.m) with draws := s1.draws + 32768 }
    match r.1.stop with
    | some x => mismatches c x.1 x.2 (dropCall c s2)
    | none =>
      if loadsBroken s1 c d j true then crc s2
      else
        let s3 := modDrs s2 c fun q => { q with wide := keepRows d r.2.rows q.wide }
        let s4 := modAtt s3 c fun a =>
          { a with call := some { call with steps := call.steps + 1, tiles := later }, kvWait := false, tile := j }
        setTags s4 c false (freedSlots c d j later)

/-- A fault of the loader's own reads. -/
def loadFault (c : CoreId) (f : FaultInfo) (s : State) : State :=
  raiseBench (.matrix c) .pArray c (fieldOf f.address 51 0) f s

/-- The steps of a call as far as their keys and values are there (R209, R236, R294). -/
def runSteps (c : CoreId) (call : AttCall) (errs : CallErrors) : List Nat → State → State
  | [], s => s
  | j :: js, s =>
    match (coreAt s c).att.call with
    | none => s
    | some now =>
      let d := attOf call.words
      let reads := tileReads c d j
      match gates (fun o n => benchGate s c o n true) (reads ++ tileScaleReads c d j) with
      | .err f => loadFault c f (dropCall c s)
      | .wait => modAtt s c fun a => { a with tile := j }
      | .go => match if d.kvTagged then slotsBlock s c (.matrix c) false (slotsOf reads) else none with
        | some slot =>
          holdItem (modAtt s c fun a => { a with kvWait := true, tile := j }) c (.matrix c) .pArray slot false call.ref.cls
        | none => runSteps c call errs js (runStep c now j js errs s)

/-- The call leaves both queues and its steps begin: m is −infinity and l +0.0 in every row (R215); arrays that are idle
ramp up when a tile runs (R109); the tiles skipped are counted (R230). -/
def beginAttend (c : CoreId) (call : AttCall) (s : State) : State :=
  let d := attOf call.words
  let s1 := modDrs (popCall c s) c fun q =>
    { q with wide := keepRows d ((upFrom 0 (4 * d.mq)).map fun _ => {}) q.wide, position := 0, handle := call.ref.handle }
  let s2 := modMat s1 c fun m => if call.tiles.isEmpty then m else rampUp m
  modAtt s2 c fun a => { a with call := some call, kvWait := false, tile := 0
                                skipped := wrapAdd 32 a.skipped (tileCount d - call.tiles.length) }

/-- ATTENTION_CALL_START: the call at the head of both queues starts once earlier matrix work is through, and runs its steps
as far as its keys and values are there; a call that waits for some goes on (R208, R209, R230, R232, R236). The errors that a
fault of the hardware makes in its MMAs are the command's input. -/
def attentionStart (c : CoreId) (errors : CallErrors) (s : State) : State :=
  let k := coreAt s c
  match k.att.call with
  | some call => if unitLive s c then runSteps c call errors call.tiles s else s
  | none => match k.mat.queue, k.drs.queue with
    | ⟨no, .attend ref⟩ :: _, ⟨no', .attend _⟩ :: _ =>
      if no ≠ no' || !(unitLive s c) || k.mat.run.isSome || !k.mat.flight.isEmpty || !k.drs.hands.isEmpty then s
      else if benchSize < 64 * ref.handle + 64 then
        loadFault c { name := .addrFault, reason := 2, address := benchPlace c (64 * ref.handle) } (popCall c s)
      else match benchGate s c (64 * ref.handle) 64 true with
        | .err f => loadFault c f (popCall c s)
        | .wait => s
        | .go =>
          let ws := benchWords s c (64 * ref.handle) 8
          let d := attOf ws
          let tiles := runTileList d
          match attFault c ws (chainOf (benchWords s c (128 * d.outHandle) 16)) with
          | some r => attDesc c ref.handle r s
          | none =>
            if k.mat.fenced % 16 ≠ 0 then matrixFault c .arrFenced 0 (popCall c s)
            else if k.mat.shadow ≠ .empty && !tiles.isEmpty then s
            else
              let call : AttCall := ⟨no, ref, ws, 0, tiles⟩
              runSteps c call errors tiles (beginAttend c call s)
    | _, _ => s

def execAttentionCallStart (c : CoreId) (scoreErrors valueErrors : List AttError) (s : State) :
    Host.Outcome State Fault Refusal :=
  .next (coincide (.matrix c) (attentionStart c ⟨scoreErrors, valueErrors⟩) s)

/-! ### The closing (R218 to R221) -/

/-- A row's partial: O, m and l. -/
structure Partial where
  o : List W32
  m : W32
  l : W32
  deriving DecidableEq, Repr

/-- The merge of R218; the saved partial is the first operand. -/
def mergePartial (s n : Partial) : Partial :=
  if n.m = inf32 true then s
  else if s.m = inf32 true then n
  else
    let m := max32 s.m n.m
    let fs := exp2Of (sub32 s.m m)
    let fn := exp2Of (sub32 n.m m)
    { m := m, l := add32 (mul32 s.l fs) (mul32 n.l fn)
      o := (s.o.zip n.o).map fun p => add32 (mul32 p.1 fs) (mul32 p.2 fn) }

/-- The partial that the call computed for row `i`. -/
def computedRow (s : State) (c : Nat) (d : AttDesc) (i : Nat) : Partial :=
  let k := coreAt s c
  { o := (upFrom 0 d.blocks).flatMap fun h => (upFrom 0 64).map fun n =>
      tget 0 k.mat.acc (accKey (i / d.mq) (outBase d h + i % d.mq) n)
    m := tget 0 k.drs.wide (maxKey d i), l := tget 0 k.drs.wide (sumKey d i) }

/-- The saved partial of row `i` (R219). -/
def savedRow (s : State) (c : Nat) (d : AttDesc) (i : Nat) : Partial :=
  let at_ (o : Nat) : W32 := word32 (benchBytes s c o 4)
  let ml := d.stateOff + 16 * d.mq * d.dim
  { o := (upFrom 0 d.dim).map fun k => at_ (d.stateOff + i * d.dim * 4 + 4 * k)
    m := at_ (ml + 4 * i), l := at_ (ml + 16 * d.mq + 4 * i) }

/-- Every row's partial after the merge. -/
def closedRows (s : State) (c : Nat) (d : AttDesc) : List Partial :=
  (upFrom 0 (4 * d.mq)).map fun i =>
    if d.mergeIn then mergePartial (savedRow s c d i) (computedRow s c d i) else computedRow s c d i

/-- A row normalised, and its log-sum-exp (R218). -/
def normalised (p : Partial) : List W32 × W32 :=
  if isZero32 p.l then (p.o.map fun _ => 0, inf32 true)
  else
    let r := recipOf p.l
    (p.o.map fun x => mul32 x r, add32 p.m (log2Of p.l))

/-- The state region's bytes: O, then m, then l (R219). -/
def stateImage (ps : List Partial) : List Byte :=
  let w (x : W32) : List Byte := leBytes 4 x.toNat
  ps.flatMap (fun p => p.o.flatMap w) ++ ps.flatMap (fun p => w p.m) ++ ps.flatMap fun p => w p.l

/-- What the closing writes beside the chain's output: lse, or the state region. -/
def closingWrites (d : AttDesc) (ps : List Partial) : List (Nat × List Byte) :=
  if d.last then
    (if d.lseEn then [(d.lseOff, ps.flatMap fun p => leBytes 4 (normalised p).2.toNat)] else [])
  else [(d.stateOff, stateImage ps)]

/-- The bench ranges that the closing itself reads and writes. -/
def closingReads (d : AttDesc) : List (Nat × Nat) := if d.mergeIn then [(d.stateOff, d.stateBytes)] else []
def closingRanges (d : AttDesc) (ps : List Partial) : List (Nat × Nat) :=
  (closingWrites d ps).map fun w => (w.1, w.2.length)

/-- The call ends: no tile is active, the shadow is EMPTY, chutes and accumulators are undefined (R133), its registers are
undefined (R227), and the tally is added to (R221). -/
def endCall (c : CoreId) (k : Nat) (d : AttDesc) (s0 : State) : State :=
  let s := looseArrays c (dropCall c s0)
  let s1 := modDrs s c fun q =>
    { q with wide := tputN 0 q.wide (128 * d.stateReg) ((upFrom s.draws 512).map Config.freeWord) }
  let s2 := modAtt { s1 with draws := s.draws + 512 } c fun a => { a with calls := wrapAdd 32 a.calls 1 }
  if !d.tallyEn then s2
  else if ownsTally s2 k d.tally then tallyAdd s2 d.tally 1
  else raise (.dressing c) { name := .syncRange } (recordSync s2 c 2 2 1 d.tally 0)

/-- The closing's own writes, and the end of the call. -/
def closeCall (c : CoreId) (k : Nat) (d : AttDesc) (ps : List Partial) (s : State) : State :=
  let ranges := closingRanges d ps
  let s1 := countPort c .pDress (lineCount (closingReads d ++ ranges)) (unhold s c (.dressing c))
  endCall c k d (sealWritten ((closingWrites d ps).foldl (fun t w => writeBench t c w.1 w.2) s1) c ranges)

/-- The output chain of a call as a part: column block h is tile h; it saturates (R220). -/
def outputJob (call : AttCall) (d : AttDesc) (ps : List Partial) (g : ItemProg) : RowJob :=
  let x := chainOf g.words
  { ref := { call.ref with handle := d.outHandle }, no := call.no, chain := x, post := g.post, sts := x.stages
    src := .given (ps.map fun p => (normalised p).1), sink := .out, sat := true, call := true }

/-- The output chain goes on; then the closing's own writes follow. -/
def outputOn (c : CoreId) (k : Nat) (call : AttCall) (s : State) : State :=
  let d := attOf call.words
  let ps := closedRows s c d
  let rows := upFrom 0 (4 * d.mq)
  match (coreAt s c).drs.prog with
  | some g =>
    let j := outputJob call d ps g
    let xs := (upFrom 0 d.blocks).map fun h => (⟨c, j.chain, 4 * d.mq, h, 64, d.mq⟩ : TileCtx)
    runPart c k j rows (tileUnits xs rows) (closeCall c k d ps) s
  | none => s

/-- The closing of the call that has run: its gates, the output chain, its own writes (R218 to R221). -/
def attentionClose (c : CoreId) (s : State) : State :=
  match (coreAt s c).att.call, coreOwner s c with
  | some call, some k =>
    if !(unitLive s c) || !call.tiles.isEmpty then s
    else if (coreAt s c).drs.prog.isSome then outputOn c k call s
    else
      let d := attOf call.words
      let ps := closedRows s c d
      let ready := (readsReady s c (closingReads d) []).and
        (readyGate (gates (fun o n => benchGate s c o n false) (closingRanges d ps)))
      match ready with
      | .err f => raiseBench (.dressing c) .pDress c (fieldOf f.address 51 0) f (dropCall c s)
      | .go =>
        if d.last && d.outEn then
          let ws := benchWords s c (128 * d.outHandle) 16
          let post := postWords s c (chainOf ws)
          match netFaults c k (chainOf ws) post (dropCall c s) with
          | some t => t
          | none => outputOn c k call (beginPart c d.outHandle 0 ws post 0 s)
        else { (closeCall c k d ps s) with answer := s.answer }
      | _ => s
  | _, _ => s

def execAttentionClosing (c : CoreId) (s : State) : Host.Outcome State Fault Refusal := .next (coincide (.dressing c) (attentionClose c) s)

end Sys2Proof.Machine
end

