-- ==== Sys2Proof/Machine/Access.lean ====
section
/-! DEFINITION. Host accesses to BAR0 that have no effect (01 R46, R49; 14 R519; 17 R659). -/

namespace Sys2Proof.Machine

/-- An access that R49 or R519 counts; the fields hold the first until `seen` is cleared, and the log names it (R660). -/
def noteBar (f : FnId) (offset : Nat) (isWrite : Bool) (s : State) : State :=
  let b := s.ras.bar
  let n := wrapAdd 32 b.count 1
  if b.seen then modRas s fun r => { r with bar := { b with count := n } }
  else addLog { kind := 16 } (modRas s fun r => { r with bar := ⟨n, f.val, isWrite, true, offset % 2 ^ 26⟩ })

/-- A write that the table of R518 does not allow the function (R519). -/
def denied (f : FnId) (offset : Nat) (s : State) : State := noteBar f offset true s

/-! Offsets of BAR0 (R46) of the registers that commands write. -/

def claimsBase : Nat := 0x100000
def powerBase : Nat := 0x200000
def hubMoverBase : Nat := 0x700000
def windowReg (w i : Nat) : Nat := 0xA00000 + 0x40 * w + 8 * i
def streamReg (n i : Nat) : Nat := 0x610000 + 0x40 * n + 8 * i
def qpReg (n i : Nat) : Nat := 0x650000 + 0x40 * n + 8 * i
def coreBase (c : Nat) : Nat := 0x1000000 + 0x40000 * c

/-- The claim that a function is bound to (R525): its own, or one that it has taken over. -/
def boundClaim (s : State) (f : FnId) : Option Nat := firstSome (fun k => if actsFor s f k then some k else none) claimNos

def functionAt (s : State) (f : FnId) : Function := tget {} s.functions f.val

/-- Whether a function is a control function (R518). -/
def isControl (s : State) (f : FnId) : Bool := (functionAt s f).present && (functionAt s f).control

/-- Whether the registers of a C-die are in reach: the die is up and above L3 (R50). -/
def dieInReach (s : State) (d : Nat) : Bool :=
  let x := tget ({} : DieState) s.dies d
  x.present && !(x.mode = .keep) && !(x.mode = .off)

def modDie (s : State) (d : Nat) (f : DieState → DieState) : State := { s with dies := tmod {} s.dies d f }

/-- An access to a register of a C-die that is off or in L3: no effect, and the die's powered-off bit is set (R50). -/
def poweredOff (d : Nat) (s : State) : State := modDie s d fun x => { x with offAccess := true }

/-- A write by function `f` to a register of core `c` that only its claim's function may write (R50, R518). -/
def coreWrite (f : FnId) (c : CoreId) (off : Nat) (go : Nat → State → State) (s : State) : State :=
  match coreOwner s c with
  | some k =>
    if !(actsFor s f k) then denied f (coreBase c + off) s
    else if !(dieInReach s (dieOf c)) then poweredOff (dieOf c) s
    else go k s
  | none => denied f (coreBase c + off) s

end Sys2Proof.Machine
end

