-- ==== Sys2Proof/Machine/Paths.lean ====
section
/-! DEFINITION. Where units stand and the fixed paths between them: the ring of C-dies, the mesh, the junction's ports, the
slices' ports (01 R23, R26, R27, R29, R31, R33, R34, R40, R42; 07 R263, R276). -/

namespace Sys2Proof.Machine

/-! ### The ring (R23) -/

/-- The dies next to die `d` in the ring. -/
def dieNext (d : Nat) : Nat := (d + 1) % 8
def diePrev (d : Nat) : Nat := (d + 7) % 8

/-- Whether two C-dies are adjacent (R23). -/
def adjacentDies (a b : Nat) : Bool := b = dieNext a || b = diePrev a

/-! ### Where a transfer starts and ends -/

/-- Where a unit stands: a core of a C-die, or a unit of the H-die at its junction port (R29). -/
inductive Site where
  | core (c : Nat)
  | hub (port : Nat)
  deriving DecidableEq, Repr

/-- Junction ports (R29). -/
def linkPort (l : Nat) : Nat := l
def bridgePort (d : Nat) : Nat := 12 + d
def stackPort (n : Nat) : Nat := 20 + n
def hostPort (h : Nat) : Nat := 22 + h
def haulPort : Nat := 24
def moverHubPort : Nat := 25
def sumpPort : Nat := 26
def controlPort : Nat := 27

/-- Where an engine stands; one of another module reaches this one on a link. Collective movers stand with the hub movers, in
whose register block they lie (DESIGN CHOICE, log entry 130: R29 gives them no port). -/
def engineSite (e : Engine) (inbound : Option LinkId) : Site :=
  match e with
  | .sequencer c | .matrix c | .dressing c | .coreMover c _ | .netPort c => .core c
  | .hubMover _ | .collMover _ => .hub moverHubPort
  | .haul => .hub haulPort
  | .sump => .hub sumpPort
  | .firmware => .hub controlPort
  | .remote _ _ => .hub (match inbound with
      | some l => linkPort l
      | none => controlPort)

/-- Where a destination stands: a C-die, or a junction port; none where no link leads to it (R31, R40). -/
inductive Target where
  | die (d : Nat)
  | port (p : Nat)
  deriving DecidableEq, Repr

def destTarget (s : State) (e : Engine) : JctDest → Option Target
  | .bench c => some (.die (dieOf c))
  | .gallery b => some (.die (b.val / 64))
  | .tally n => some (.die (tallyHome n))
  | .conveyor n => some (.die (convHome n))
  | .dram o => some (.port (stackPort (dramStack o)))
  | .host h => some (.port (hostPort h))
  | .module r o => (linkFor s (engineId e) (o / 4096) r).map fun l => .port (linkPort l.1)
  | .sump _ => some (.port sumpPort)
  | .haul => some (.port haulPort)
  | .control => some (.port controlPort)

/-! ### The path (R26) -/

/-- The slot table that a transfer crosses, with its input port; none within one die. Two dies use the ring bridge between them
when they are adjacent, else the two hub bridges through the junction. At a ring bridge the inputs are the rows of the
mesh: traffic runs along its row first (R33, R34, R451). -/
def crossing (src : Site) (dst : Target) : Option (Nat × Nat) :=
  match src, dst with
  | .core c, .die d =>
    if d = dieOf c then none
    else if d = dieNext (dieOf c) then some (28 + dieOf c, c % 16 / 4)
    else if d = diePrev (dieOf c) then some (36 + dieOf c, c % 16 / 4)
    else some (bridgePort d, bridgePort (dieOf c))
  | .core c, .port p => some (p, bridgePort (dieOf c))
  | .hub p, .die d => some (bridgePort d, p)
  | .hub p, .port q => some (q, p)

/-- The slice port by which a request enters a gallery slice: its core's router on that die, a ring bridge, or the hub bridge
(R34, R263). -/
def slicePort (src : Site) (d : Nat) : Nat :=
  match src with
  | .core c =>
    if dieOf c = d then c % 16
    else if dieOf c = dieNext d then 16
    else if dieOf c = diePrev d then 17 else 18
  | .hub _ => 18

/-- The gallery bank or sump slot that a request goes to. -/
def destUnit : JctDest → Nat
  | .gallery b => b
  | .sump n => n
  | _ => 0

/-- The ports that a request reaches on its way, in order, each with the input by which it comes. -/
def pathOf (s : State) (e : Engine) (dst : JctDest) (inbound : Option LinkId) : List (PortRef × Nat) :=
  let src := engineSite e inbound
  match destTarget s e dst with
  | none => []
  | some t =>
    let cross := match crossing src t with
      | some x => [(PortRef.table (Fin.ofNat 44 x.1), x.2)]
      | none => []
    match dst with
    | .gallery b => cross ++ [(.slice (Fin.ofNat 8 (b.val / 64)) (Fin.ofNat 19 (slicePort src (b.val / 64))), 0)]
    | _ => cross

/-! ### Bridges of dies that are off (R27) -/

/-- The C-dies that the bridge of a table joins. -/
def tableDies (t : Nat) : List Nat :=
  if 12 ≤ t && t < 20 then [t - 12]
  else if 28 ≤ t && t < 36 then [t - 28, dieNext (t - 28)]
  else if 36 ≤ t then [t - 36, diePrev (t - 36)] else []

/-- The C-dies that a port needs. -/
def portDies : PortRef → List Nat
  | .table t => tableDies t
  | .slice d _ => [d]

/-- Whether a port carries traffic: no die that it needs is off. -/
def portCarries (s : State) (p : PortRef) : Bool := (portDies p).all fun d => (tget {} s.dies d).present

end Sys2Proof.Machine
end

