-- ==== Sys2Proof/Machine/PowerOps.lean ====
section
/-! DEFINITION. Pace and voltage of a C-die, the low-power states of cores and dies, forces and caps
(02 R61 to R77; 15 R557 to R560, R566 to R571, R586 to R589, R594, R595). Voltages are in units of 0.5 mV. -/

namespace Sys2Proof.Machine

/-! ### The part (00 R2, 02 R64, R67, 15 R588) -/

def isA600 (s : State) : Bool := s.sys.ident.part = 0x0600
/-- The envelope in W. -/
def envelope (s : State) : Nat := if isA600 s then 600 else 750
/-- The part's ceiling code. -/
def topCode (s : State) : Nat := if isA600 s then 56 else 64
/-- The part's top-point voltage, 0.75 V or 0.85 V. -/
def topVolt (s : State) : Nat := if isA600 s then 1500 else 1700
/-- The rail current limit in A. -/
def railLimit (s : State) : Nat := if isA600 s then 110 else 130
/-- 0.55 V, 0.45 V, and one step. -/
def lowVolt : Nat := 1100
def keepVolt : Nat := 900
def voltStep : Nat := 25

/-! ### Pace (R66 to R68, R77) -/

def dieAt (s : State) (d : Nat) : DieState := tget {} s.dies d

/-- Whether the beats of a die run: up, in L0 or L1 (R593). -/
def dieRuns (x : DieState) : Bool := x.present && decide (x.mode = .run)

/-- The governor target that the pace controller uses (R571, R586). -/
def govTarget (x : DieState) : Nat := if x.forced then x.floorCode else max 10 (x.fwTarget - x.assistCut)

/-- The lower of a pace and an input that limits it unless it is 0 (R68). -/
def limited (n clamp : Nat) : Nat := if clamp = 0 then n else min n clamp

/-- The applied pace: the lowest of the active inputs, between code 10 and the ceiling (R67, R68). -/
def appliedPace (s : State) (x : DieState) : Nat :=
  max 10 (min (topCode s) (limited (limited (limited (govTarget x) x.droopClamp) x.thermalClamp) x.matchTarget))

/-! ### The characterised rates (R566, R567) -/

/-- The number of the 12.5 mV step of a voltage, from 0.55 V. -/
def stepOf (v : Nat) : Nat := (v - lowVolt) / voltStep

/-- The corrected natural rate of a step, rounded down to a whole code. -/
def rateAt (x : DieState) (i : Nat) : Nat := x.rates.getD i 0 * x.scaleNum / x.scaleDen

/-- Whether the corrected rate of a step is at least code `n`. -/
def stepServes (x : DieState) (n i : Nat) : Bool := n * x.scaleDen ≤ x.rates.getD i 0 * x.scaleNum

/-- The voltage for a pace code: the lowest step that serves it, else the top-point voltage (R566). -/
def voltFor (s : State) (x : DieState) (n : Nat) : Nat :=
  match (upFrom 0 (stepOf (topVolt s) + 1)).find? fun i => stepServes x n i with
  | some i => lowVolt + voltStep * i
  | none => topVolt s

/-- The floor code: the highest code that the corrected rate at 0.55 V supports (R567). -/
def floorCodeOf (s : State) (x : DieState) : Nat := max 10 (min (topCode s) (rateAt x 0))

/-! ### Voltage steps (R74, R566) -/

/-- The rail has reached the voltage it was sent to: a pace that waits for it is written (R566). -/
def voltReached (x : DieState) : DieState :=
  if x.vSet = x.vGoal then
    match x.raiseTo with
    | some n => { x with fwTarget := n, assistCut := 0, raiseTo := none }
    | none => x
  else x

/-- A voltage request: held while the droop clamp is active, of which only the latest is kept (R74). -/
def requestVolt (v : Nat) (x : DieState) : DieState :=
  if x.droopClamp ≠ 0 then { x with deferred := some v } else voltReached { x with vGoal := v }

/-- The die's control core takes the lowest of the eight monitors as the natural rate (R61); a die whose beats do not run shows
0 (R77). -/
def takeNatural (ms : List Nat) (x : DieState) : DieState :=
  match ms with
  | [] => x
  | m :: rest => { x with monitors := ms, natural := if dieRuns x && x.control then rest.foldl min m else x.natural }

/-- One settled step toward the voltage asked for. -/
def settleStep (x : DieState) : DieState :=
  let v := if x.vSet < x.vGoal then min x.vGoal (x.vSet + voltStep) else max x.vGoal (x.vSet - voltStep)
  voltReached { x with vSet := v }

/-- The loop's new target and voltage of a die: the pace first when the rail suffices, else the voltage first (R566). A
forced die keeps its voltage, and the target takes effect after the release (R586, R597). -/
def writeTarget (n v : Nat) (x : DieState) : DieState :=
  if x.forced then { x with fwTarget := n, assistCut := 0, raiseTo := none }
  else if v ≤ x.vSet || n ≤ x.fwTarget then
    requestVolt v { x with fwTarget := n, assistCut := 0, raiseTo := none }
  else requestVolt v { x with assistCut := 0, raiseTo := some n }

/-! ### Forces (R586, R587) -/

/-- The force to the lowest operating point: the floor code, then 0.55 V. -/
def forceDie (x : DieState) : DieState :=
  if dieRuns x then requestVolt lowVolt { x with forced := true, raiseTo := none } else { x with forced := true }

def mapDies (f : DieState → DieState) (s : State) : State :=
  (upFrom 0 8).foldl (fun t d => modDie t d f) s

def forceAll (s : State) : State := mapDies forceDie s
def releaseAllDies (s : State) : State := mapDies (fun x => { x with forced := false }) s

/-! ### Caps (R557 to R560) -/

/-- The rack cap in force: the fail-safe cap replaces it (R559). -/
def rackNow (p : PowerState) : Nat := if p.failsafe then p.failsafeCap else p.rackCap

/-- The effective cap: the lower of the rack cap and the host limit. -/
def applyCap (p : PowerState) : PowerState := { p with effCap := min (rackNow p) p.hostLimit }

def modPower (s : State) (f : PowerState → PowerState) : State := { s with power := f s.power }

/-- The limit λ (R560). -/
def limitOf (cap : Nat) : Nat := 95 * cap / 100

def capInRange (s : State) (w : Nat) : Bool := 300 ≤ w && w ≤ envelope s

/-! ### Thermal ceilings (R583, R584) -/

def stackTherm (s : State) (n : Nat) : StackTherm := tget {} s.therm.stackSet n

/-- The DRAM ceiling in force and the haul ceiling in force: the lowest of the budget's and the thermal ones. -/
def dramCeiling (s : State) : Nat :=
  min s.power.dramM (min s.therm.hubDram (min (stackTherm s 0).ceiling (stackTherm s 1).ceiling))
def haulCeiling (s : State) : Nat := min s.power.haulGbs s.therm.hubHaul

/-- Whether a thermal ceiling is below the budget's. -/
def thermalCeiling (s : State) : Bool := dramCeiling s < s.power.dramM || haulCeiling s < s.power.haulGbs

/-! ### Throttle reasons (R589) -/

def anyDie (s : State) (f : DieState → Bool) : Bool := (upFrom 0 8).any fun d => f (dieAt s d)

/-- Whether the host limit is the effective cap. -/
def hostBinds (p : PowerState) : Bool := p.hostLimit < rackNow p

/-- A claim is shed or parked: a governor hold is in effect (R598). -/
def shedNow (c : Claim) : Bool := (c.shed || c.parked) && c.heldHere

/-- The loop holds something below its preferred point, or a claim is shed or parked. -/
def capped (s : State) : Bool := s.power.below || claimNos.any fun k => shedNow (claimAt s k)

/-- Whether reason `i` is active. -/
def reasonActive (s : State) (i : Nat) : Bool :=
  match i with
  | 0 => capped s && !(hostBinds s.power)
  | 1 => anyDie s (fun x => x.present && x.thermalClamp ≠ 0 && x.thermalClamp = appliedPace s x) || thermalCeiling s
  | 2 => s.power.vrAlert
  | 3 => anyDie s fun x => x.droopClamp ≠ 0
  | 4 => anyDie s fun x => x.present && x.matchTarget ≠ 0 && x.matchTarget = appliedPace s x
  | 5 => anyDie s fun x => x.tripped
  | 6 => s.power.pwrBrake || s.power.inputLimit || s.power.iccDies ≠ 0
  | 7 => capped s && hostBinds s.power
  | _ => false

/-- The active bits of the reasons. -/
def reasonBits (s : State) : Nat := (upFrom 0 8).foldl (fun n i => n + (if reasonActive s i then 2 ^ i else 0)) 0

/-- ALERT_N is asserted (R562). -/
def alertPin (p : PowerState) : Bool := p.capUnmet || p.belowFloor || p.excursionRpt

/-! ### L1 and L2 of cores (R594) -/

def modPwr (s : State) (c : Nat) (f : CorePower → CorePower) : State := modCore s c fun k => { k with pwr := f k.pwr }

/-- The cores of a die. -/
def coresOfDie (d : Nat) : List Nat := upFrom (16 * d) 16

/-- A die whose rail leaves the retention voltage: back in one transition; cores in L2 are in L1 again. -/
def leaveRetain (d : Nat) (s : State) : State :=
  if (dieAt s d).mode = .retain then
    let s1 := modDie s d fun x => { x with mode := .run, vSet := x.vKept }
    (coresOfDie d).foldl (fun t c => if (coreAt t c).pwr.state = 2 then modPwr t c fun p => { p with state := 1 } else t) s1
  else s

/-- A die's rail goes to 0.45 V once every core of it is in L1 or L2 and one has been asked into L2. It goes at once even while
the droop clamp is active: R74 defers voltage steps, and the model takes the move of R594 for none (DESIGN CHOICE, log entry
138). -/
def enterRetain (d : Nat) (s : State) : State :=
  let cs := coresOfDie d
  if dieRuns (dieAt s d) && cs.all (fun c => (coreAt s c).pwr.state ≠ 0) && cs.any fun c => (coreAt s c).pwr.want = 2 then
    let s1 := modDie s d fun x => { x with mode := .retain, vKept := x.vSet, vSet := keepVolt, natural := 0 }
    cs.foldl (fun t c => if (coreAt t c).pwr.want = 2 then modPwr t c fun p => { p with state := 2 } else t) s1
  else s

/-- A core is asked into L1 or L2: its beats stop at a beat boundary, and it enters L1 at once. -/
def coreSleep (level : Nat) (gov : Bool) (c : Nat) (s : State) : State :=
  let up := (coreAt s c).pwr.state = 2 && level = 1
  let s1 := if up then leaveRetain (dieOf c) s else s
  enterRetain (dieOf c) (modPwr s1 c fun p => { p with
    state := max 1 (if up then 1 else p.state), want := level, govHeld := p.govHeld || gov })

/-- A core returns to L0, its die's rail with it. -/
def coreWake (c : Nat) (s : State) : State :=
  modPwr (leaveRetain (dieOf c) s) c fun p => { p with state := 0, want := 0, govHeld := false }

/-- The cores of a claim go into L1, or into L2 for a parked claim, under a governor hold (R572). -/
def governorSleep (k : Nat) (s : State) : State :=
  let q := claimAt s k
  (coresOf q.quads).foldl (fun t c => coreSleep (if q.parked then 2 else 1) true c t) s

end Sys2Proof.Machine
end

