-- ==== Sys2Proof/Machine/Junction.lean ====
section
/-! DEFINITION. The junction's slot tables, pending queues and grants (11 R432 to R439). -/

namespace Sys2Proof.Machine

def tableAt (s : State) (t : Nat) : SlotTable := tget {} s.fabric.tables t
def setTable (s : State) (t : Nat) (v : SlotTable) : State :=
  modFabric s fun x => { x with tables := tput {} x.tables t v }

/-- The owner that an engine's requests belong to at a port (R432). -/
def portOwner (s : State) (e : Engine) (transit : Bool) : Owner :=
  if transit then .transit
  else match e with
    | .remote _ k => .claim k
    | _ => match engineClaim s e with
      | some k => .claim k
      | none => .firmware

/-! ### Pending queues (R436) -/

def sliceAt (s : State) (n : Nat) : SlicePort := tget {} s.fabric.slices n
def setSlice (s : State) (n : Nat) (v : SlicePort) : State :=
  modFabric s fun x => { x with slices := tput {} x.slices n v }

/-- The number of a slice port. -/
def sliceNo (d : DieId) (p : Fin 19) : Nat := 19 * d.val + p.val

/-- The pending queue of a port. -/
def pendingAt (s : State) : PortRef → List PortReq
  | .table t => (tableAt s t).pending
  | .slice d p => (sliceAt s (sliceNo d p)).pending

def setPending (s : State) (p : PortRef) (xs : List PortReq) : State :=
  match p with
  | .table t => setTable s t { tableAt s t with pending := xs }
  | .slice d n => setSlice s (sliceNo d n) { sliceAt s (sliceNo d n) with pending := xs }

/-- A request refused at a port is counted there (R451). -/
def countRefused (p : PortRef) (s : State) : State :=
  match p with
  | .table t => setTable s t { tableAt s t with refused := wrapAdd 32 (tableAt s t).refused 1 }
  | .slice d n =>
    let v := sliceAt s (sliceNo d n)
    setSlice s (sliceNo d n) { v with refused := wrapAdd 32 v.refused 1 }

/-- Whether an entry of a pending queue is in use. -/
def entryUsed (xs : List PortReq) (n : Nat) : Bool := xs.any fun r => r.entry = n

/-- The entry that a request takes: its claim's own, else the lowest shared one that is free (R436). -/
def freeEntry (xs : List PortReq) (o : Owner) : Option Nat :=
  let shared := firstSome (fun n => if entryUsed xs n then none else some n) (upFrom 8 8)
  match o with
  | .claim k => if entryUsed xs k then shared else some k
  | _ => shared

/-- Whether an owner may present requests: a claim only while its task is live (R397). -/
def ownerLive (s : State) : Owner → Bool
  | .claim k => taskLive s k
  | _ => true

/-- Whether a port grants to an owner: not to a claim of the group during a re-formation (R615). -/
def ownerServed (s : State) : Owner → Bool
  | .claim k => !((claimAt s k).group && s.group.stage = .reforming)
  | _ => true

/-- Park a request at a port; none when the entries open to it are all in use. -/
def parkRequest (p : PortRef) (r : JctReq) (s : State) : Option State :=
  let xs := pendingAt s p
  let o := portOwner s r.eng r.transit
  (freeEntry xs o).map fun n => setPending s p (xs ++ [{ owner := o, eng := r.eng, input := r.input, bytes := r.bytes, entry := n, unit := r.unit }])

/-- A request at a port: parked, or refused and presented again after a backoff. -/
def presentRequest (p : PortRef) (r : JctReq) (s : State) : State :=
  match parkRequest p r s with
  | some t => { t with answer := .nothing }
  | none => { (backOff (countRefused p s) (.junction p r) 2) with answer := .waits }

/-- JUNCTION_REQUEST (R436): the request reaches a port of its path. A port of a bridge whose die is off takes none (R27). -/
def execJunctionRequest (eng : Engine) (dest : JctDest) (stage bytes : Nat) (inbound : Option LinkId) (s : State) :
    Host.Outcome State Fault Refusal :=
  .next (match (pathOf s eng dest inbound)[stage]? with
    | none => s
    | some (p, input) =>
      let transit := inbound.isSome && (match dest with
        | .module _ _ => true
        | _ => false)
      if 4096 < bytes || !(portCarries s p) || !(ownerLive s (portOwner s eng transit)) then s
      else presentRequest p ⟨eng, input, bytes, destUnit dest, transit⟩ s)

/-! ### Grants (R432, R433) -/

/-- The place of an owner in the round robin of R433: claims, then transit, then firmware. -/
def ownerIndex : Owner → Nat
  | .claim k => k
  | .transit => 8
  | .firmware => 9
  | .openSlot => 10

/-- The first of a list of numbers at or after `start`, else the smallest. -/
def nextInTurn (start : Nat) (xs : List Nat) : Option Nat :=
  let least (ys : List Nat) : Option Nat := ys.foldl (fun a y => match a with
    | some z => some (min z y)
    | none => some y) none
  match least (xs.filter fun x => start ≤ x) with
  | some x => some x
  | none => least xs

/-- The oldest request of an owner, its input ports taken in turn (R432). -/
def grantOwner (v : SlotTable) (o : Owner) : Option PortReq :=
  let mine := v.pending.filter fun r => r.owner = o
  let start := match v.nextInput.find? (fun x => x.1 = o) with
    | some x => x.2
    | none => 0
  match nextInTurn start (mine.map fun r => r.input) with
  | some n => mine.find? fun r => r.input = n
  | none => none

/-- The request that the background ranking takes (R433). -/
def grantBackground (v : SlotTable) : Option PortReq :=
  if v.ranking = 0 then
    match nextInTurn v.nextOwner (v.pending.map fun r => ownerIndex r.owner) with
    | some n => v.pending.find? fun r => ownerIndex r.owner = n
    | none => none
  else
    match nextInTurn v.nextPort (v.pending.map fun r => r.input) with
    | some n => v.pending.find? fun r => r.input = n
    | none => none

/-- Requests that a port may grant: of an owner that is served, not in a backoff, and none of an engine behind one that is
(R434, R438). -/
def readyRequests (s : State) (xs : List PortReq) : List PortReq :=
  xs.filter fun r => ownerServed s r.owner && !(xs.any fun x => x.eng = r.eng && x.lost)

/-- A request leaves its queue, granted. -/
def takeRequest (p : PortRef) (r : PortReq) (s : State) : State :=
  { (setPending s p ((pendingAt s p).filter fun x => x.entry ≠ r.entry)) with answer := .number (engineId r.eng) }

/-- A request that lost at its bank or slot backs off in its queue: 2, 4, 8, up to 1,024 (R437, R438). -/
def loseRequest (p : PortRef) (r : PortReq) (s : State) : State :=
  let d := min 1024 (2 * r.delay)
  backOff (setPending s p ((pendingAt s p).map fun x => if x.entry = r.entry then { x with lost := true, delay := d } else x))
    (.loser p r.entry) d

/-- Requests at one bank or slot in one beat, each with the number by which it takes its turn: one is served in rotating
priority, and the others back off (R438). Also the number that comes first next time. -/
def arbitrate (turn : Nat) (xs : List (Nat × PortRef × PortReq)) (s : State) : Nat × State :=
  match nextInTurn turn (xs.map fun x => x.1) with
  | none => (turn, s)
  | some n => (n + 1, xs.foldl (fun t x => if x.1 = n then takeRequest x.2.1 x.2.2 t else loseRequest x.2.1 x.2.2 t) s)

/-- The oldest request that a slice port presents: one of its queue that is not in a backoff. -/
def sliceHead (s : State) (d : DieId) (p : Fin 19) : Option PortReq := (readyRequests s (sliceAt s (sliceNo d p)).pending).head?

/-- The grant of a slice port's request at its bank, against the other ports of the die that reach the bank in that beat. -/
def sliceGrant (d : DieId) (p : Fin 19) (rivals : List Nat) (s : State) : State :=
  match sliceHead s d p with
  | none => s
  | some r =>
    let others := (upFrom 0 19).filterMap fun n =>
      let q := Fin.ofNat 19 n
      if q = p || !(rivals.contains n) then none
      else match sliceHead s d q with
        | some x => if x.unit = r.unit then some (n, PortRef.slice d q, x) else none
        | none => none
    let a := arbitrate (tget 0 s.fabric.bankTurn r.unit) ((p.val, .slice d p, r) :: others) s
    modFabric a.2 fun x => { x with bankTurn := tput 0 x.bankTurn r.unit a.1 }

/-- The request that the port grants next by its slot table, with the table after the grant (R432, R433). -/
def tableGrant (s : State) (t : TableId) : Option (PortReq × SlotTable) :=
  let v := tableAt s t
  let o := v.slots.getD v.next .openSlot
  let v1 := { v with next := (v.next + 1) % 64 }
  let w := { v with pending := readyRequests s v.pending }
  match grantOwner w o with
  | some r => some (r, { v1 with nextInput := (o, r.input + 1) :: v1.nextInput.filter fun x => x.1 ≠ o })
  | none => (grantBackground w).map fun r => (r, { v1 with nextOwner := ownerIndex r.owner + 1, nextPort := r.input + 1 })

/-- Whether a port can pass a burst on: that of a link stalls while the boundary FIFO is full (R413). -/
def portFlows (s : State) (t : TableId) : Bool :=
  !(t.val < 12) || decide ((linkAt s t.val).outFifo.length < fifoFlits)

/-- Whether a grant opportunity of a DRAM port is one of the m in 64 that the ceiling leaves, taken out uniformly (R565). -/
def ceilingLets (s : State) (t : TableId) : Bool :=
  let m := dramCeiling s
  let i := (tableAt s t).chance
  t.val / 2 ≠ 10 || decide (i * m / 64 < (i + 1) * m / 64)

/-- A grant opportunity of a DRAM port has passed. -/
def countChance (t : TableId) (s : State) : State :=
  if t.val / 2 = 10 then setTable s t { tableAt s t with chance := ((tableAt s t).chance + 1) % 64 } else s

/-- PORT_GRANT at a slot table: one burst of the port (R432). At the sump's port the requests that reach one slot in the beat
meet its arbiter (R438). -/
def portGrant (t : TableId) (rivals : List Nat) (s : State) : State :=
  if !(portCarries s (.table t)) || !(portFlows s t) then s
  else match tableGrant s t with
    | none => s
    | some (r, v) =>
      if !(ceilingLets s t) then countChance t s
      else
      let s1 := countChance t (setTable s t v)
      if t.val = sumpPort then
        let others := rivals.filterMap fun n =>
          ((readyRequests s v.pending).find? fun x => x.input = n && x.unit = r.unit && n ≠ r.input).map fun x =>
            (n, PortRef.table t, x)
        let a := arbitrate (tget 0 s.fabric.sumpTurn r.unit) ((r.input, .table t, r) :: others) s1
        modFabric a.2 fun x => { x with sumpTurn := tput 0 x.sumpTurn r.unit a.1 }
      else takeRequest (.table t) r s1

def execPortGrant (g : GrantEvent) (s : State) : Host.Outcome State Fault Refusal :=
  .next (match g.port with
    | .table t => portGrant t g.rivals s
    | .slice d n => if portCarries s g.port then sliceGrant d n g.rivals s else s)

/-- The backoff of a request that lost is over: its port presents it again. -/
def presentLoser (p : PortRef) (entry : Nat) (s : State) : State :=
  setPending s p ((pendingAt s p).map fun x => if x.entry = entry then { x with lost := false } else x)

/-- A C-die is off: what waits at the ports of its bridges and of its slice is gone (R27). -/
def dropDie (d : Nat) (s : State) : State :=
  let gone (p : PortRef) : Bool := (portDies p).contains d
  let s1 := (List.finRange 44).foldl (fun t n => if gone (.table n) then setPending t (.table n) [] else t) s
  let s2 := (List.finRange 19).foldl (fun t n => setPending t (.slice (Fin.ofNat 8 d) n) []) s1
  { s2 with backoffs := s2.backoffs.filter fun b => match b.req with
      | .junction p _ | .loser p _ => !(gone p)
      | _ => true }

/-- Whether a request of an engine waits at a port on its way to a gallery bank or to a DRAM stack, so that the bank or stack
cannot serve it yet (R436, R438). -/
def parkedFor (s : State) (e : Engine) (dst : JctDest) : Bool :=
  let mine (r : JctReq) : Bool := r.eng = e && r.unit = destUnit dst
  (pathOf s e dst none).any fun p => (pendingAt s p.1).any (fun r => r.eng = e && r.unit = destUnit dst) ||
    s.backoffs.any fun b => match b.req with
      | .junction q r => q = p.1 && mine r
      | _ => false

/-! ### Slot tables (R439) -/

/-- The claims that exist with the quads each counts for: 1 each when none owns a quad (R439). -/
def quadCounts (s : State) : List (Nat × Nat) :=
  let qs := (claimNos.filter fun k => (claimAt s k).created).map fun k => (k, setCount 32 (claimAt s k).quads)
  if qs.all (fun q => q.2 = 0) then qs.map fun q => (q.1, 1) else qs

/-- Slots of each claim out of `n`: the floors, and one more each in order of largest remainder, ties to the lower claim. -/
def shareSlots (n : Nat) (qs : List (Nat × Nat)) : List (Nat × Nat) :=
  let sum := qs.foldl (fun a q => a + q.2) 0
  if sum = 0 then [] else
    let base := qs.map fun q => (q.1, n * q.2 / sum, n * q.2 % sum)
    let left := n - base.foldl (fun a b => a + b.2.1) 0
    let ahead (a b : Nat × Nat × Nat) : Bool := b.2.2 < a.2.2 || (a.2.2 = b.2.2 && a.1 < b.1)
    base.map fun b => (b.1, b.2.1 + (if (base.filter fun a => ahead a b).length < left then 1 else 0))

/-- The owners of a table with their slot counts, in the order in which ties fall (R439). -/
def slotCounts (s : State) (t : Nat) : List (Owner × Nat) :=
  let tr := if t < 12 && s.group.stage ≠ .none then 16 else 0
  let qs := quadCounts s
  let n := 62 - tr
  [(.firmware, 2), (.transit, tr)] ++ (shareSlots n qs).map (fun q => (.claim q.1, q.2)) ++
    [(.openSlot, if qs.isEmpty then n else 0)]

/-- Place the owners by their credits (R439). -/
def placeSlots (counts : List (Owner × Nat)) : Nat → List (Owner × Nat × Int) → List Owner
  | 0, _ => []
  | k + 1, cr =>
    let cr1 := cr.map fun c => (c.1, c.2.1, c.2.2 + Int.ofNat c.2.1)
    match cr1 with
    | [] => []
    | c :: cs =>
      let best := cs.foldl (fun a b => if a.2.2 < b.2.2 then b else a) c
      best.1 :: placeSlots counts k (cr1.map fun x => if x.1 = best.1 then (x.1, x.2.1, x.2.2 - 64) else x)

/-- The slots of table `t` as firmware computes them. -/
def tableSlots (s : State) (t : Nat) : List Owner :=
  let cs := slotCounts s t
  placeSlots cs 64 (cs.map fun c => (c.1, c.2, 0))

/-- Firmware recomputes every slot table (R439). -/
def recomputeSlots (s : State) : State :=
  (upFrom 0 44).foldl (fun x t => setTable x t { tableAt x t with slots := tableSlots s t }) s

end Sys2Proof.Machine
end

