-- ==== Sys2Proof/Machine/Memory.lean ====
section
/-! DEFINITION. Accesses to benches, gallery and DRAM, and powering memory down (07 R252 to R286; 17 R630 to R635). -/

namespace Sys2Proof.Machine

/-! ### Bench accesses -/

/-- Whether an engine reaches the bench of core `c` through a port, in one direction: P-array only reads (R253). -/
def portServes (c : CoreId) (e : Engine) (p : Port) (isWrite : Bool) : Bool :=
  match e, p with
  | .matrix d, .pArray => d = c && !isWrite
  | .dressing d, .pDress | .sequencer d, .pDress => d = c
  | .coreMover d _, .pMove => d = c
  | .coreMover d _, .pNet => d ≠ c
  | .netPort _, .pNet | .hubMover _, .pNet | .collMover _, .pNet | .haul, .pNet | .remote _ _, .pNet => true
  | _, _ => false

/-- The ports in the order in which a clash records them (R287). -/
def portOrder (p q : Port × Nat) : Bool := portNo p.1 ≤ portNo q.1

/-- The two lowest-numbered ports of a clash, with the offsets they reach. -/
def clashPair (xs : List (Port × Nat)) : (Port × Nat) × (Port × Nat) :=
  let first := xs.foldl (fun a b => if portOrder a b then a else b) (xs.headD (.pNet, 0))
  let rest := xs.filter fun x => x.1 ≠ first.1
  let second := rest.foldl (fun a b => if portOrder a b then a else b) (rest.headD first)
  (first, second)

/-- An access by an engine of a claim that does not own the core is an address fault (R243). -/
def benchOwned (s : State) (c : CoreId) (e : Engine) : Bool :=
  match engineClaim s e with
  | some k => coreOwner s c == some k
  | none => true

/-- Length in bytes of a bench access. -/
def opLen : BenchOp → Nat
  | .read n => n
  | .write d => d.length

def opWrites : BenchOp → Bool
  | .read _ => false
  | .write _ => true

/-- A bench access that may go: data moved, tag changed, errors of a read noted (R255, R293, R631, R632). -/
def doBench (c : CoreId) (e : Engine) (p : Port) (o : Nat) (op : BenchOp) (mark : TagMark) (ecc : Ecc) (s : State) :
    State :=
  let s1 := countPort c p ((o + opLen op - 1) / 512 - o / 512 + 1) s
  match op with
  | .write d => tagAfter { writeBench s1 c o d with answer := .nothing } c o d.length mark true
  | .read n =>
    match ecc with
    | .uncorrectable =>
      raiseOwner (coreOwner s c) e { name := .memUe, reason := 2, address := benchPlace c o } (poisonBench c (o / 8) s1)
    | _ =>
      let s2 := if ecc = .corrected then correctedBench c (o / 8) s1 else s1
      tagAfter { s2 with answer := .data (benchBytes s c o n) } c o n mark false

/-- A bench access that a port presents, once its range is known to be legal and powered: a tagged one that must wait stands
in a wait register, any other behind an earlier access of its engine waits too (R291, R295 to R297); one that issues meets the
other ports that reach its bank in the beat (R256). -/
def presentAccess (c : CoreId) (e : Engine) (p : Port) (o : Nat) (op : BenchOp) (mark : TagMark)
    (others : List (Port × Nat)) (ecc : Ecc) (s : State) : State :=
  let clash := others.filter fun x => x.1 ≠ p && benchBank x.2 = benchBank o
  if accessWaits s c e p o (opLen op) (opWrites op) mark then
    { (if mark = .plain || !(canHold s c p e) then s
       else holdAccess s c { eng := e, port := p, offset := o, op := .access op, mark := mark, isWrite := opWrites op }) with
      answer := .waits }
  else if !clash.isEmpty then
    let q := clashPair ((p, o) :: clash)
    raiseOwner (coreOwner s c) e { name := .benchClash, address := benchPlace c o }
      (recordBenchFault c 1 (benchBank o) (portNo q.1.1) (portNo q.2.1) (slotOf q.1.2) (slotOf q.2.2) s)
  else doBench c e p o op mark ecc s

/-- BENCH_ACCESS (R252 to R258, R293 to R297): the gate, then what the port meets, one beat for each line. -/
def benchAccess (c : CoreId) (e : Engine) (p : Port) (o : Nat) (op : BenchOp) (mark : TagMark)
    (others : List (Port × Nat)) (ecc : Ecc) (s : State) : State :=
  let n := opLen op
  if !(portServes c e p (opWrites op)) || (engineClaim s e).any (fun k => !(taskLive s k)) then s
  else if n = 0 then s
  else if !(benchOwned s c e) then raise e { name := .addrFault, reason := 4, address := benchPlace c o } s
  else match benchGate s c o n (!(opWrites op)) with
    | .err f => raiseBench e p c o f s
    | .wait => { s with answer := .waits }
    | .go => presentAccess c e p o op mark others ecc s

def execBenchAccess (c : CoreId) (eng : Engine) (port : Port) (offset : Nat) (op : BenchOp) (mark : TagMark)
    (others : List (Port × Nat)) (ecc : Ecc) (s : State) : Host.Outcome State Fault Refusal :=
  .next (benchAccess c eng port offset op mark others ecc s)

/-! ### Gallery reads and writes (R264 to R266, R272 to R274) -/

/-- A gallery or DRAM request of an engine of a claim whose task is live (R397), with the claim. -/
def forClaim (e : Engine) (s : State) (f : Nat → State) : State :=
  match engineClaim s e with
  | some k => if taskLive s k then f k else s
  | none => s

/-- Such a request at a gallery bank or a DRAM stack; one that is still parked on its way waits (R436, R438). -/
def forUnit (e : Engine) (dst : JctDest) (s : State) (f : Nat → State) : State :=
  forClaim e s fun k => if parkedFor s e dst then { s with answer := .waits } else f k

/-- The bank of a gallery offset, as a destination. -/
def bankDest (o : Nat) : JctDest := .gallery (Fin.ofNat 512 (galBank o))

/-- A gallery read that may go, with what its first word's code finds. -/
def doGalRead (k : Nat) (e : Engine) (o : Nat) (ecc : Ecc) (data : List Byte) (s : State) : State :=
  match ecc with
  | .uncorrectable =>
    raiseFor k e { name := .memUe, reason := 4, address := galPlace o } (poisonGal (o / 8) s)
  | .corrected => { (correctedGal (o / 8) s) with answer := .data data }
  | .clean => { s with answer := .data data }

/-- What a gate lets happen: the effect, a wait, or a fault. -/
def gated (k : Nat) (e : Engine) (g : Gate) (s t : State) : State :=
  match g with
  | .go => t
  | .wait => { s with answer := .waits }
  | .err f => raiseFor k e f s

def execGalleryRead (eng : Engine) (offset len : Nat) (ecc : Ecc) (s : State) : Host.Outcome State Fault Refusal :=
  .next (forUnit eng (bankDest offset) s fun k =>
    gated k eng (galGate s (some k) offset len true) s (doGalRead k eng offset ecc (galBytes s offset len) s))

def execGalleryWrite (eng : Engine) (offset : Nat) (data : List Byte) (s : State) : Host.Outcome State Fault Refusal :=
  .next (forUnit eng (bankDest offset) s fun k =>
    gated k eng (galGate s (some k) offset data.length false) s { (writeGal s offset data) with answer := .nothing })

/-- Whether every range of a list lies in one gallery bank (R265). -/
def inOneBank (rs : List (Nat × Nat)) : Bool :=
  match rs with
  | [] => true
  | r :: _ => rs.all fun x => galBank x.1 = galBank r.1 && galBank (x.1 + x.2 - 1) = galBank r.1

/-- The rows of a transposing gallery read, as addresses. -/
def transRows (offset : Nat) (rowStride : Int) : List Int := (upFrom 0 64).map fun i => Int.ofNat offset + Int.ofNat i * rowStride

/-- TRANSPOSING_READ (R259, R264, R265): GAL_OP, reason 6, when the block leaves its bank. -/
def execTransposingRead (eng : Engine) (offset : Nat) (rowStride : Int) (elem : Fin 4) (s : State) :
    Host.Outcome State Fault Refusal :=
  .next (forUnit eng (bankDest offset) s fun k =>
    let rows := transRows offset rowStride
    let rb := transRowBytes elem.val
    if rows.any (fun a => a < 0) || !(inOneBank (elemRanges rb rows)) then raiseFor k eng (galOp 6 offset) s
    else gated k eng (gates (fun o n => galGate s (some k) o n true) (elemRanges rb rows)) s
      { s with answer := .data (transposed elem.val (rows.map fun a => galBytes s a.toNat rb)).flatten })

/-- STRIDED_READ (R260, R264, R265): GAL_OP, reason 6, when the walk leaves its bank. A walk whose strides or sizes R260 does not
allow is no request of a port, and has no effect (DESIGN CHOICE, log entry 129). -/
def execStridedRead (eng : Engine) (offset : Nat) (elem : Fin 4) (dims : List (Nat × Int)) (s : State) :
    Host.Outcome State Fault Refusal :=
  .next (forUnit eng (bankDest offset) s fun k =>
    let as := walkFrom dims (Int.ofNat offset)
    let es := elemSize elem.val
    if !(walkFits elem.val dims) || 4 < dims.length then s
    else if as.any (fun a => a < 0) || !(inOneBank (elemRanges es as)) then raiseFor k eng (galOp 6 offset) s
    else gated k eng (gates (fun o n => galGate s (some k) o n true) (elemRanges es as)) s
      { s with answer := .data (as.flatMap fun a => galBytes s a.toNat es) })

/-- GATHER (R266): GAL_OP, reason 7, for a row size that is not legal. -/
def execGather (eng : Engine) (list count base : Nat) (rowStride : Int) (rowSize : Nat) (s : State) :
    Host.Outcome State Fault Refusal :=
  .next (forUnit eng (bankDest list) s fun k =>
    if !(gatherFits rowSize) then raiseFor k eng (galOp 7 base) s
    else match galGate s (some k) list (4 * count) true with
      | .err f => raiseFor k eng f s
      | .wait => { s with answer := .waits }
      | .go =>
        let rows := gatherRows s list count (Int.ofNat base) rowStride
        gated k eng (gatherGate s k rows rowSize) s { s with answer := .data (gatherBytes s rows rowSize) })

/-- ACCUMULATE_IN_PLACE (R267, R269, R270, R282, R303, R645). -/
def execAccumulateInPlace (req : AccReq) (upset : Option AdderErr) (s : State) : Host.Outcome State Fault Refusal :=
  .next (forUnit req.engine (bankDest req.offset) s fun k =>
    if req.turn.any fun t => !(ownsTurn s k t.counter.val) then
      turnOutOfRange k req.engine ((req.turn.map fun t => t.counter.val).getD 0) s
    else
      let r := accumulate (some k) req upset s
      { r.2 with answer := match r.1 with
          | .done => r.2.answer
          | _ => .waits })

/-- QUANTISE_ON_WRITE (R272): GAL_OP, reason 10 for the target and reason 5 for the length. -/
def execQuantiseOnWrite (eng : Engine) (fromBf16 : Bool) (row : List Byte) (target dst scaleDst : Nat) (sat : Bool)
    (s : State) : Host.Outcome State Fault Refusal :=
  .next (forUnit eng (bankDest dst) s fun k =>
    if !(quantTarget target) then raiseFor k eng (galOp 10 dst) s
    else if !(quantFits fromBf16 row.length target) then raiseFor k eng (galOp 5 dst) s
    else
      let q := quantRow fromBf16 row target sat
      gated k eng ((galGate s (some k) dst q.1.length false).and
          (if isBlock target then galGate s (some k) scaleDst q.2.1.length false else .go)) s
        { (noteConvFor eng q.2.2 (writeGal (if isBlock target then writeGal s scaleDst q.2.1 else s) dst q.1)) with
          answer := .nothing })

/-- ZERO_FILL (R273): a range within one bank. -/
def execZeroFill (eng : Engine) (offset len : Nat) (s : State) : Host.Outcome State Fault Refusal :=
  .next (forUnit eng (bankDest offset) s fun k =>
    if !(inOneBank [(offset, len)]) then s
    else gated k eng (galGate s (some k) offset len false) s { (zeroGal s offset len) with answer := .nothing })

/-- TURN_SET (R268): the counter must belong to the claim (R303, R395). -/
def execTurnSet (eng : Engine) (t : Fin 512) (count tally : Nat) (tallyEn : Bool) (s : State) :
    Host.Outcome State Fault Refusal :=
  .next (forClaim eng s fun k =>
    if ownsTurn s k t.val then turnSet eng (some k) t.val count tally tallyEn s
    else turnOutOfRange k eng t.val s)

/-! ### DRAM (R276, R277) -/

/-- A uncorrectable DRAM unit met by a read: poison, and MEM_UE, reason 8 (R633). -/
def dramBroken (k : Nat) (e : Engine) (o : Nat) (s : State) : State :=
  raiseFor k e { name := .memUe, reason := 8, address := dramPlace o } (poisonDram (o / 64) s)

/-- The engines that reach DRAM: core movers, hub movers and the haul engine (R276). -/
def reachesDram : Engine → Bool
  | .coreMover _ _ | .hubMover _ | .haul => true
  | _ => false

/-- A read of DRAM, or a write; a write of part of a unit is a read-modify-write of it (R276, R277, R632). -/
def dramAccess (eng : Engine) (offset len : Nat) (data : List Byte) (ecc : Ecc) (s : State) : State :=
  forUnit eng (.dram offset) s fun k =>
    if !(reachesDram eng) then s
    else if data.isEmpty then
      gated k eng (dramGate s (some k) offset len true) s (match ecc with
        | .uncorrectable => dramBroken k eng offset s
        | .corrected => { (correctedDram (offset / 64) s) with answer := .data (dramBytes s offset len) }
        | .clean => { s with answer := .data (dramBytes s offset len) })
    else
      let partly := offset % 64 ≠ 0 || (offset + data.length) % 64 ≠ 0
      gated k eng (dramGate s (some k) offset data.length false) s
        (if partly && ecc = .uncorrectable then dramBroken k eng offset s
        else
          let s1 := if partly && ecc = .corrected then correctedDram (offset / 64) s else s
          { (writeDram s1 offset data) with answer := .nothing })

/-! ### Powering memory down (R280 to R282, R288, R289) -/

/-- Bench banks set off and on again (R280): contents of a bank that goes off are lost, and it is not ready until its
power-up zero-fill has ended (R282). -/
def benchPower (c : CoreId) (off : Nat) (s : State) : State :=
  modBench s c fun b => { b with off := off, ready := setMinus b.ready off }

/-- BENCH_BANK_POWER: a write of CORE_BENCH_POWER by the function of the claim that owns the core (R280, R288); a write
of 1 to bit 15 is ignored while the core belongs to a claim. -/
def execBenchBankPower (f : FnId) (c : CoreId) (off : BitVec 16) (s : State) : Host.Outcome State Fault Refusal :=
  .next (coreWrite f c 0x10000 (fun _ t =>
    if taskOn t c then modBench t c fun b => { b with refused := true }
    else benchPower c (off.toNat % 2 ^ 15) t) s)

/-- The bits of a power register that a function may change, among those its write changes (R281). -/
def mayChange (s : State) (f : FnId) (owner : Nat → Option Nat) (unit : Nat) : Bool :=
  match owner unit with
  | some k => actsFor s f k && (claimAt s k).task.isNone
  | none => false

/-- The new set of units that are off after a write of a word of 64 bits for the units from `base`, and whether any bit
was refused. -/
def powerWrite (s : State) (f : FnId) (owner : Nat → Option Nat) (base n : Nat) (value : W64) (old : Nat) : Nat × Bool :=
  (upFrom 0 n).foldl (fun (x : Nat × Bool) i =>
    let u := base + i
    if bitOf value i = inSet old u then x
    else if mayChange s f owner u then ((if bitOf value i then setWith x.1 u else setWithout x.1 u), x.2)
    else (x.1, true)) (old, false)

/-- A write of a memory power register, which control functions and functions bound to a claim may make (R281, R518). -/
def powerReg (f : FnId) (offset : Nat) (s t : State) : State :=
  if isControl s f || (boundClaim s f).isSome then t else denied f (powerBase + offset) s

/-- PWR_GAL_OFF_WRITE (R281, R289). -/
def execPwrGalOffWrite (f : FnId) (d : DieId) (off : W64) (s : State) : Host.Outcome State Fault Refusal :=
  let r := powerWrite s f (bankOwner s) (64 * d.val) 64 off s.gallery.off
  let s1 := { s with gallery := { s.gallery with
    off := r.1, ready := setMinus s.gallery.ready r.1 } }
  .next (powerReg f (0x3000 + 8 * d.val) s (if r.2 then { s1 with power := { s1.power with
      galRefused := true, memRefused := wrapAdd 32 s1.power.memRefused 1 } } else s1))

/-- PWR_DRAM_OFF_WRITE (R281, R289): in word 3 only bits [32:0] name regions. -/
def execPwrDramOffWrite (f : FnId) (w : Fin 4) (off : W64) (s : State) : Host.Outcome State Fault Refusal :=
  let r := powerWrite s f (regionOwner s) (64 * w.val) (if w.val = 3 then 33 else 64) off s.dram.off
  let s1 := { s with dram := { s.dram with off := r.1, ready := setMinus s.dram.ready r.1 } }
  .next (powerReg f (0x3080 + 8 * w.val) s (if r.2 then { s1 with power := { s1.power with
      dramRefused := true, memRefused := wrapAdd 32 s1.power.memRefused 1 } } else s1))

/-- A bench bank zeroed, its tags empty and its seals not valid (R282, R638). -/
def zeroBenchBank (c b : Nat) (s : State) : State :=
  let o := 0x80000 * b
  modBench s c fun x =>
    { x with
      bytes := tfill 0 x.bytes o 0x80000 0
      tags := tfill false x.tags (512 * b) 512 false
      seals := tfill none x.seals (128 * b) 128 none
      poison := x.poison.filter fun e => !(o ≤ 8 * e.1 && 8 * e.1 < o + 0x80000) }

/-- POWER_UP_ZERO_FILL_DONE (R282): the unit is zeroed and ready. -/
def execPowerUpZeroFillDone (u : MemUnit) (s : State) : Host.Outcome State Fault Refusal :=
  .next (match u with
    | .benchBank c b =>
      let x := (coreAt s c).bench
      if inSet x.off b || inSet x.ready b then s
      else modBench (zeroBenchBank c b s) c fun y => { y with ready := setWith y.ready b }
    | .galleryBank n =>
      if inSet s.gallery.off n || inSet s.gallery.ready n then s
      else
        let s1 := zeroGal s (galBankSize * n) galBankSize
        { s1 with gallery := { s1.gallery with ready := setWith s1.gallery.ready n } }
    | .dramRegion r =>
      if inSet s.dram.off r || inSet s.dram.ready r then s
      else
        let s1 := zeroDram s (regionSize * r) regionSize
        { s1 with dram := { s1.dram with ready := setWith s1.dram.ready r } })

/-- DRAM_REGION_ZEROED (R286): a region that a destroyed claim returned is zeroed and may be given to another claim. -/
def execDramRegionZeroed (r : Fin 225) (s : State) : Host.Outcome State Fault Refusal :=
  .next (if inSet s.dram.zeroing r then
    let s1 := zeroDram s (regionSize * r) regionSize
    { s1 with dram := { s1.dram with zeroing := setWithout s1.dram.zeroing r } } else s)

end Sys2Proof.Machine
end

