-- ==== Sys2Proof/Machine/Blocks.lean ====
section
/-! DEFINITION. Block descriptors: their fields, walks and checks (10 R380 to R385, R403). -/

namespace Sys2Proof.Machine

/-! ### Descriptors -/

/-- A block descriptor (R380), its counts with the 1 added; `ss` and `ds` are the strides of dimensions 1 to 4. -/
structure Block where
  src : W64
  dst : W64
  run : Nat
  n1 : Nat
  n2 : Nat
  n3 : Nat
  n4 : Nat
  ss : List Int
  ds : List Int
  op : Nat
  elem : Nat
  cmpl : Nat
  ckGen : Bool
  ckVer : Bool
  credit : Bool
  mark : Nat
  tagged : Bool
  rsv : Nat
  arg : Nat
  deriving DecidableEq, Repr

/-- The fields of a block descriptor. -/
def blockOf (w : List W64) : Block :=
  let f (i hi lo : Nat) : Nat := fieldOf (wordAt w i) hi lo
  let g (i hi lo : Nat) : Int := signedOf 32 (f i hi lo)
  { src := wordAt w 0, dst := wordAt w 1
    run := f 2 63 48 + 1, n1 := f 2 47 32 + 1, n2 := f 2 31 16 + 1, n3 := f 2 15 0 + 1, n4 := f 6 59 48 + 1
    ss := [g 3 63 32, g 4 63 32, g 5 63 32, g 6 31 0]
    ds := [g 3 31 0, g 4 31 0, g 5 31 0, g 7 63 32]
    op := f 6 47 44, elem := f 6 43 42, cmpl := f 6 41 40, ckGen := bitOf (wordAt w 6) 39
    ckVer := bitOf (wordAt w 6) 38, credit := bitOf (wordAt w 6) 37, mark := f 6 36 35
    tagged := bitOf (wordAt w 6) 34, rsv := f 6 33 32, arg := f 7 31 0 }

/-- The parameters that a parameter descriptor sets (R385). -/
def paramsOf (w : List W64) : MovParams :=
  let f (i hi lo : Nat) : Nat := fieldOf (wordAt w i) hi lo
  { cls := f 0 59 56, creditEn := bitOf (wordAt w 0) 55, creditTally := f 0 54 38
    creditBase := BitVec.ofNat 32 (f 1 63 32), creditIdx := 0, gatherList := wordAt w 2, ckSrc := wordAt w 3
    ckDst := wordAt w 4, scaleDst := wordAt w 5, turn := f 7 63 55, contributor := f 7 54 47
    turnEnd := bitOf (wordAt w 7) 46, accKind := f 7 45 43, turnOn := bitOf (wordAt w 7) 42, qFormat := f 7 41 38
    sat := bitOf (wordAt w 7) 37, turnCount := f 7 36 29, turnTally := f 7 28 12, turnTallyEn := bitOf (wordAt w 7) 11 }

/-- Whether a parameter descriptor has a nonzero RSV field (R385). -/
def paramsRsv (w : List W64) : Bool :=
  fieldOf (wordAt w 0) 63 60 ≠ 0 || fieldOf (wordAt w 0) 37 0 ≠ 0 || fieldOf (wordAt w 1) 31 0 ≠ 0 ||
    fieldOf (wordAt w 6) 59 0 ≠ 0 || fieldOf (wordAt w 7) 10 0 ≠ 0

/-- Whether the source walk, or the destination walk, of an operation exists (R383). -/
def hasSrc (op : Nat) : Bool := op ≤ 4 || op = 6
def hasDst (op : Nat) : Bool := op ≤ 6

/-- Bytes of the innermost run of one source row of a transposed block (R259, R383). -/
def transRun (elem : Nat) : Nat := if elem = 3 then 64 else 64 * elemSize elem

/-- The walk indices of run `r`: i1 fastest (R381). -/
def runIndex (b : Block) (r : Nat) : List Nat := [r % b.n1, r / b.n1 % b.n2, r / (b.n1 * b.n2) % b.n3, r / (b.n1 * b.n2 * b.n3)]

/-- A place address moved by a number of bytes (R381). -/
def movePlace (a : W64) (d : Int) : W64 := BitVec.ofInt 64 (Int.ofNat a.toNat + d)

/-- The address at walk indices. -/
def atIndex (a : W64) : List Int → List Nat → W64
  | st :: sts, i :: is => atIndex (movePlace a (st * Int.ofNat i)) sts is
  | _, _ => a

/-- Runs of a block. -/
def runCount (b : Block) : Nat := b.n1 * b.n2 * b.n3 * b.n4

/-- Whether a bench source row of a transposed block crosses a line, which no read of R259 does (entry 58). -/
def transCrosses (b : Block) : Bool :=
  b.op = 1 && (placeOf b.src).space = 0 &&
    (upFrom 0 (runCount b)).any fun r => (placeOf (atIndex b.src b.ss (runIndex b r))).off % 512 + b.run > 512

/-- Whether strides and shape are those of R381 and R383 (MOV_DESC, reason 3). -/
def shapeFits (b : Block) : Bool :=
  let es := Int.ofNat (elemSize b.elem)
  (!(hasSrc b.op) || b.ss.all fun x => x % es == 0) && (!(hasDst b.op) || b.ds.all fun x => x % es == 0) &&
  (match b.op with
   | 1 => b.run = transRun b.elem && b.n1 = 64 && !(transCrosses b)
   | 2 => b.n2 = 1 && b.n3 = 1 && b.n4 = 1
   | 3 => b.elem = 2 && b.run % 4 = 0 && b.dst.toNat % 4 = 0
   | 4 => (b.elem = 1 || b.elem = 2) && b.run % elemSize b.elem = 0
   | _ => true)

/-- Whether an operation takes its spaces (MOV_DESC, reason 4); an accumulate reaches the gallery also through a window
that opens it (R423, entry 57). -/
def spacesFit (b : Block) : Bool :=
  let s := (placeOf b.src).space
  let d := (placeOf b.dst).space
  match b.op with
  | 1 => s = 0 || s = 1
  | 2 | 6 => s = 1
  | 3 => d = 1 || d = 4
  | 4 | 8 => d = 1
  | _ => true

/-- The first reason of MOV_DESC, in the order of R403's reasons. -/
def blockReason (b : Block) (p : MovParams) : Option Nat :=
  if 9 ≤ b.op || b.mark = 3 || (b.op = 3 && 6 ≤ p.accKind) || (b.op = 6 && 2 ≤ p.accKind) ||
      (b.op = 4 && !(quantTarget p.qFormat)) then some 1
  else if b.rsv ≠ 0 then some 2
  else if !(shapeFits b) then some 3
  else if !(spacesFit b) then some 4
  else if (b.ckGen && !([0, 1, 2, 4, 5].contains b.op)) || (b.ckVer && !([0, 1, 3, 4, 6].contains b.op)) then some 5
  else if b.credit && !p.creditEn then some 6
  else if (b.cmpl = 0 && b.arg ≠ 0) || (b.cmpl = 2 && b.arg % 2 ^ 17 ≠ 0) ||
      (b.cmpl = 3 && (b.arg ≠ 0 || (placeOf b.dst).space ≠ 0 || b.op = 7)) then some 7
  else none

end Sys2Proof.Machine
end

