-- ==== Sys2Proof/Machine/CollPlan.lean ====
section
/-! DEFINITION. The fixed plan of a collective call: who sends what to whom, and in which order values are combined
(12 R466 to R473). A plan depends only on the sizes of the collective group's axes, the algorithm, and the member index. -/

namespace Sys2Proof.Machine

/-- A step of a member's plan, before it is cut into chunks. -/
inductive PlanStep where
  | send (peer stream : Nat) (regions : List (Nat × Nat))
  | recv (peer stream : Nat) (regions : List (Nat × Nat)) (mode : CollMode) (final : Bool)
  /-- The end of the rows for a member, and of the rows from one (R475). -/
  | mark (peer stream : Nat)
  | await (peer stream : Nat)
  /-- A local action, after every receive before it. -/
  | act (f : CollAct)
  deriving DecidableEq, Repr

/-! ### Coordinates -/

/-- The product of the sizes of the axes before axis `a`. -/
def axisStride (dims : List Nat) (a : Nat) : Nat := (dims.take a).foldl (fun x y => x * y) 1
def axisSize (dims : List Nat) (a : Nat) : Nat := dims.getD a 1
def memberCount (dims : List Nat) : Nat := dims.foldl (fun x y => x * y) 1

/-- The local coordinate of member `j` on axis `a` (R460). -/
def axisCoord (dims : List Nat) (j a : Nat) : Nat := j / axisStride dims a % axisSize dims a

/-- Member `j` with another coordinate on an axis. -/
def moveTo (dims : List Nat) (j a c : Nat) : Nat := j - axisCoord dims j a * axisStride dims a + c * axisStride dims a

/-- The axes of size greater than 1. -/
def wideAxes (dims : List Nat) : List Nat := (upFrom 0 dims.length).filter fun a => 1 < axisSize dims a

/-- The members of the line of `j` along an axis, in ascending coordinate. -/
def axisLine (dims : List Nat) (j a : Nat) : List Nat := (upFrom 0 (axisSize dims a)).map fun c => moveTo dims j a c

/-! ### Ring (R469) -/

/-- Part `p` of `parts` of a vector: each rounded up to 64 B, the last shorter. -/
def ringPart (len parts p : Nat) : Nat × Nat :=
  let z := (len + 64 * parts - 1) / (64 * parts) * 64
  (min len (p * z), min len ((p + 1) * z) - min len (p * z))

/-- Segment `x` of `n` of a range, on element boundaries. -/
def ringSeg (es : Nat) (r : Nat × Nat) (n x : Nat) : Nat × Nat :=
  let k := r.2 / es
  (r.1 + es * (x * k / n), es * ((x + 1) * k / n) - es * (x * k / n))

/-- Coordinate `c` moved by `t` in the direction of the part. -/
def along (plus : Bool) (n c t : Nat) : Nat := if plus then (c + t) % n else (c + n * (t + 1) - t) % n
def against (plus : Bool) (n c t : Nat) : Nat := along (!plus) n c t

/-- One axis of a reduce-scatter. -/
def ringReduce (es : Nat) (plus : Bool) (dims : List Nat) (j p a : Nat) (r : Nat × Nat) (final : Bool) : List PlanStep :=
  let n := axisSize dims a
  let c := axisCoord dims j a
  (upFrom 0 (n - 1)).flatMap fun t =>
    [.send (moveTo dims j a (along plus n c 1)) p [ringSeg es r n (against plus n c t)],
     .recv (moveTo dims j a (against plus n c 1)) p [ringSeg es r n (against plus n c (t + 1))] .ownLast
       (final && t + 2 = n)]

/-- The segment that a member finishes on an axis. -/
def ringOwn (es : Nat) (plus : Bool) (dims : List Nat) (j a : Nat) (r : Nat × Nat) : Nat × Nat :=
  ringSeg es r (axisSize dims a) (along plus (axisSize dims a) (axisCoord dims j a) 1)

/-- One axis of an all-gather after a reduce-scatter. -/
def ringGather (es : Nat) (plus : Bool) (dims : List Nat) (j p a : Nat) (r : Nat × Nat) : List PlanStep :=
  let n := axisSize dims a
  let c := axisCoord dims j a
  let first := along plus n c 1
  (upFrom 0 (n - 1)).flatMap fun t =>
    [.send (moveTo dims j a (along plus n c 1)) p [ringSeg es r n (against plus n first t)],
     .recv (moveTo dims j a (against plus n c 1)) p [ringSeg es r n (against plus n first (t + 1))] .copy true]

/-- A part of a ring all-reduce: reduce-scatter along the axes in turn, all-gather in the reverse order. -/
def ringAll (es : Nat) (plus : Bool) (dims : List Nat) (j p : Nat) : List Nat → Nat × Nat → List PlanStep
  | [], _ => []
  | a :: as, r =>
    ringReduce es plus dims j p a r as.isEmpty ++ ringAll es plus dims j p as (ringOwn es plus dims j a r) ++
      ringGather es plus dims j p a r

/-- The axes of part (i, ±): i, i + 1, … modulo d. -/
def ringAxes (dims : List Nat) (i : Nat) : List Nat := let w := wideAxes dims; w.drop i ++ w.take i

/-- The parts of a ring: stream 2i is (i, +), stream 2i + 1 is (i, −) (entry 70). -/
def ringParts (dims : List Nat) (f : Nat → Nat → Bool → List PlanStep) : List (List PlanStep) :=
  (upFrom 0 (2 * (wideAxes dims).length)).map fun p => f p (p / 2) (p % 2 = 0)

def ringAllReduce (es len : Nat) (dims : List Nat) (j : Nat) : List (List PlanStep) :=
  ringParts dims fun p i plus => ringAll es plus dims j p (ringAxes dims i) (ringPart len (2 * (wideAxes dims).length) p)

/-- The members whose blocks a member of the line knows once the axes of `done` are gathered: those that differ from `m`
on these axes alone. -/
def bundleOf (dims : List Nat) (done : List Nat) (m : Nat) : List Nat :=
  (upFrom 0 (memberCount dims)).filter fun x =>
    (upFrom 0 dims.length).all fun a => done.contains a || axisCoord dims x a = axisCoord dims m a

/-- The axes of a ring all-gather of separate blocks of `len` bytes. -/
def ringBlocks (len : Nat) (part : Nat × Nat) (plus : Bool) (dims : List Nat) (j p : Nat) :
    List Nat → List Nat → List PlanStep
  | [], _ => []
  | a :: as, done =>
    let n := axisSize dims a
    let c := axisCoord dims j a
    let regions (x : Nat) : List (Nat × Nat) :=
      (bundleOf dims done (moveTo dims j a x)).map fun m => (m * len + part.1, part.2)
    ((upFrom 0 (n - 1)).flatMap fun t =>
      [PlanStep.send (moveTo dims j a (along plus n c 1)) p (regions (against plus n c t)),
       .recv (moveTo dims j a (against plus n c 1)) p (regions (against plus n c (t + 1))) .copy true]) ++
      ringBlocks len part plus dims j p as (a :: done)

def ringAllGather (len : Nat) (dims : List Nat) (j : Nat) : List (List PlanStep) :=
  ringParts dims fun p i plus =>
    ringBlocks len (ringPart len (2 * (wideAxes dims).length) p) plus dims j p (ringAxes dims i).reverse []

/-! ### Halving and doubling (R468) -/

/-- The largest L with 2^L ≤ n, for n up to 64. -/
def powerLog (n : Nat) : Nat := if n < 2 then 0 else if n < 4 then 1 else if n < 8 then 2 else if n < 16 then 3 else
  if n < 32 then 4 else if n < 64 then 5 else 6

/-- The two halves of a range, on an element boundary. -/
def halves (es : Nat) (r : Nat × Nat) : (Nat × Nat) × (Nat × Nat) :=
  let m := es * (r.2 / es / 2)
  ((r.1, m), (r.1 + m, r.2 - m))

/-- Steps of bits `b - 1` down to 0: halve, and with `both` double back. -/
def halving (es j : Nat) (both : Bool) : Nat → Nat × Nat → List PlanStep
  | 0, _ => []
  | b + 1, r =>
    let peer := j ^^^ 2 ^ b
    let h := halves es r
    let keep := if j.testBit b then h.2 else h.1
    let give := if j.testBit b then h.1 else h.2
    [.send peer 0 [give], .recv peer 0 [keep] (if j.testBit b then .ownLast else .ownFirst) (b = 0)] ++
      halving es j both b keep ++ (if both then [.send peer 0 [keep], .recv peer 0 [give] .copy true] else [])

/-- All-reduce by halving and doubling, with the members above the largest power of two folded. -/
def doublingReduce (es len n j : Nat) : List PlanStep :=
  let p := 2 ^ powerLog n
  if p ≤ j then [.send (j - p) 0 [(0, len)], .recv (j - p) 0 [(0, len)] .copy true]
  else
    (if j + p < n then [.recv (j + p) 0 [(0, len)] .ownFirst (p = 1)] else []) ++
      halving es j true (powerLog n) (0, len) ++ (if j + p < n then [.send (j + p) 0 [(0, len)]] else [])

/-- Reduce-scatter by halving; a group that is no power of two folds and doubles, and each member keeps its segment
(entry 71). -/
def halvingScatter (es len n j : Nat) : List PlanStep :=
  if n = 2 ^ powerLog n then halving es j false (powerLog n) (0, len) else doublingReduce es len n j

/-- The blocks of `len` bytes that member `j` holds after the steps of bits 0 to `b` - 1. -/
def knownBlocks (len n j b : Nat) : List (Nat × Nat) :=
  let p := 2 ^ powerLog n
  ((upFrom 0 n).filter fun m => m % p / 2 ^ b = j / 2 ^ b).map fun m => (m * len, len)

def doublingSteps (len n j : Nat) : List PlanStep :=
  (upFrom 0 (powerLog n)).flatMap fun b =>
    let peer := j ^^^ 2 ^ b
    [.send peer 0 (knownBlocks len n j b), .recv peer 0 (knownBlocks len n peer b) .copy true]

/-- All-gather by doubling. -/
def doublingGather (len n j : Nat) : List PlanStep :=
  let p := 2 ^ powerLog n
  let others (i : Nat) : List (Nat × Nat) := ((upFrom 0 n).filter fun m => m ≠ i).map fun m => (m * len, len)
  if p ≤ j then [.send (j - p) 0 [(j * len, len)], .recv (j - p) 0 (others j) .copy true]
  else
    (if j + p < n then [.recv (j + p) 0 [((j + p) * len, len)] .copy true] else []) ++ doublingSteps len n j ++
      (if j + p < n then [.send (j + p) 0 (others (j + p))] else [])

/-! ### Broadcast, send and receive -/

/-- Whether member `j` takes part in the step along axis `a`: it lies on the root's coordinates on the later axes. -/
def treeMember (dims : List Nat) (root j a : Nat) : Bool :=
  (upFrom (a + 1) (dims.length - (a + 1))).all fun x => axisCoord dims j x = axisCoord dims root x

/-- One axis of a broadcast: a binomial tree, or a chain, from the root's coordinate. -/
def treeAxis (chain : Bool) (len : Nat) (dims : List Nat) (root j a : Nat) : List PlanStep :=
  let n := axisSize dims a
  let r := axisCoord dims root a
  let rel := (axisCoord dims j a + n - r) % n
  let at_ (x : Nat) : Nat := moveTo dims j a ((r + x) % n)
  if !(treeMember dims root j a) then []
  else if chain then
    (if rel = 0 then [] else [.recv (at_ (rel - 1)) 0 [(0, len)] .copy true]) ++
      (if rel + 1 < n then [.send (at_ (rel + 1)) 0 [(0, len)]] else [])
  else
    let t := powerLog rel
    let from_ := if rel = 0 then 0 else t + 1
    (if rel = 0 then [] else [PlanStep.recv (at_ (rel - 2 ^ t)) 0 [(0, len)] .copy true]) ++
      ((upFrom from_ (7 - from_)).filter fun b => rel + 2 ^ b < n).map fun b => .send (at_ (rel + 2 ^ b)) 0 [(0, len)]

def broadcastPlan (chain : Bool) (len : Nat) (dims : List Nat) (root j : Nat) : List PlanStep :=
  (upFrom 0 dims.length).flatMap fun a => treeAxis chain len dims root j a

/-! ### The sump tree, its core path, barriers, all-to-all -/

/-- The stream on which member `to` of a line receives from member `c`. -/
def lineStream (target c : Nat) : Nat := if c < target then c else c - 1

/-- The place in the vector of the value of coordinate `c` in the step of an axis, on the core path. -/
def foldOffset (len axis c : Nat) : Nat := (1 + 64 * axis + c) * len

/-- The core path: every member of the line sends its value to every other, and each combines (R472). -/
def corePath (len : Nat) (dims : List Nat) (j : Nat) : List PlanStep :=
  (wideAxes dims).flatMap fun a =>
    let n := axisSize dims a
    let c := axisCoord dims j a
    let rest := (upFrom 0 n).filter fun x => x ≠ c
    rest.map (fun x => PlanStep.send (moveTo dims j a x) (lineStream x c) [(0, len)]) ++
      rest.map (fun x => .recv (moveTo dims j a x) (lineStream c x) [(foldOffset len a x, len)] .copy false) ++
      [.act (.fold a n c ((wideAxes dims).getLast? = some a) [])]

/-- The sump tree (R471). -/
def sumpPlan (dims : List Nat) (j : Nat) : List PlanStep :=
  (wideAxes dims).flatMap fun a =>
    let line := (axisLine dims j a).filter fun x => x ≠ j
    [.act (.contribute a (axisSize dims a) (axisCoord dims j a) line),
     .act (.result a ((wideAxes dims).getLast? = some a))]

/-- A barrier (R473). -/
def barrierPlan (dims : List Nat) (j : Nat) : List PlanStep :=
  .act .home :: (wideAxes dims).flatMap fun a =>
    [.act (.arrive a (axisSize dims a) ((axisLine dims j a).filter fun x => x ≠ j)), .act (.leave a)]

/-- All-to-all and its return: the counts by doubling, the rows, and the end of the rows of every member (R475). -/
def rowsPlan (n j : Nat) : List PlanStep :=
  let rest := (upFrom 0 n).filter fun x => x ≠ j
  doublingGather (4 * n) n j ++ [.act (.rows []), .act .moveRows] ++ rest.map (fun x => .mark x (1 + j)) ++
    rest.map (fun x => .await x (1 + x))

/-- The plan of member `j`: its threads. `algo` is the algorithm used: 1 sump tree, 2 halving and doubling, 3 ring; 0 for an
operation with one algorithm by length alone, where `long` is whether the length is above t_ring (R466). -/
def planOf (op algo es len root : Nat) (long fallback : Bool) (dims : List Nat) (j : Nat) : List (List PlanStep) :=
  let n := memberCount dims
  match op with
  | 0 => [barrierPlan dims j]
  | 1 | 2 => [if fallback then corePath len dims j else sumpPlan dims j]
  | 3 => if algo = 1 then [if fallback then corePath len dims j else sumpPlan dims j]
    else if algo = 2 then [doublingReduce es len n j] else ringAllReduce es len dims j
  | 4 => if algo = 2 then [halvingScatter es len n j] else ringAllReduce es len dims j
  | 5 => if algo = 2 then [doublingGather len n j] else ringAllGather len dims j
  | 6 => [broadcastPlan long len dims root j]
  | 7 | 8 => [rowsPlan n j]
  | 9 => [[.send root 0 [(0, len)]]]
  | 10 => [[.recv root 0 [(0, len)] .copy true]]
  | _ => []

/-! ### Chunks (R459, R464) -/

/-- The first `z` bytes of a list of ranges, and the rest. -/
def splitRegions : Nat → List (Nat × Nat) → List (Nat × Nat) × List (Nat × Nat)
  | _, [] => ([], [])
  | z, (o, n) :: rs =>
    if n = 0 then splitRegions z rs
    else if z = 0 then ([], (o, n) :: rs)
    else if n ≤ z then
      let r := splitRegions (z - n) rs
      ((o, n) :: r.1, r.2)
    else ([(o, z)], (o + z, n - z) :: rs)

/-- Ranges cut into chunks of `z` bytes. -/
def collChunks (z : Nat) : Nat → List (Nat × Nat) → List (List (Nat × Nat))
  | 0, _ => []
  | fuel + 1, rs =>
    let r := splitRegions z rs
    if r.1.isEmpty then [] else r.1 :: collChunks z fuel r.2

def regionsLen (rs : List (Nat × Nat)) : Nat := rs.foldl (fun n r => n + r.2) 0

/-- The chunks of ranges. -/
def cutChunks (z : Nat) (rs : List (Nat × Nat)) : List (List (Nat × Nat)) := collChunks z (regionsLen rs / z + 1) rs

/-- The chunks that a thread expects on one stream; `stock` is whether its operation uses the stockpile. -/
def recvChunks (z : Nat) (stock : Bool) (stream : Nat) (t : List PlanStep) : List CollRecv :=
  t.flatMap fun x => match x with
    | .recv peer q rs mode final =>
      if q = stream then (cutChunks z rs).map fun c => ⟨peer, c, mode, final, stock⟩ else []
    | .await peer q => if q = stream then [⟨peer, [], .copy, false, false⟩] else []
    | _ => []

/-- The chunks that a whole plan expects on one stream. -/
def streamChunks (z : Nat) (stock : Bool) (plan : List (List PlanStep)) (stream : Nat) : List CollRecv :=
  plan.flatMap fun t => recvChunks z stock stream t

/-- The number, on its stream, of the `k`-th chunk that member `me` sends to a member whose plan is `plan`. -/
def chunkSlot (z : Nat) (plan : List (List PlanStep)) (stream me k : Nat) : Nat :=
  let cs := streamChunks z true plan stream
  (((upFrom 0 cs.length).zip cs).filter fun x => x.2.peer = me).map (fun x => x.1) |>.getD k 0

/-- A count in a list of (key, count). -/
def countOf (m : List (Nat × Nat)) (k : Nat) : Nat := ((m.find? fun x => x.1 = k).map fun x => x.2).getD 0
def addCount (m : List (Nat × Nat)) (k n : Nat) : List (Nat × Nat) := (k, countOf m k + n) :: m.filter fun x => x.1 ≠ k

/-- An action with what it needs set. -/
def withNeed (need : List (Nat × Nat)) : CollAct → CollAct
  | .fold a n p f _ => .fold a n p f need
  | .rows _ => .rows need
  | x => x

/-- The actions of a thread: `need` counts the chunks expected so far on each stream, `told` the chunks sent so far to each
member (keyed peer × 128 + stream); `peers` gives the plan of each member. -/
def threadActs (z me : Nat) (stock : Bool) (peers : Nat → List (List PlanStep)) :
    List PlanStep → List (Nat × Nat) → List (Nat × Nat) → List CollAct
  | [], _, _ => []
  | .send p q rs :: xs, need, told =>
    let cs := cutChunks z rs
    let k := countOf told (128 * p + q)
    ((upFrom 0 cs.length).zip cs).map (fun x => CollAct.send p q x.2 (chunkSlot z (peers p) q me (k + x.1)) stock need) ++
      threadActs z me stock peers xs need (addCount told (128 * p + q) cs.length)
  | .recv _ q rs _ _ :: xs, need, told =>
    threadActs z me stock peers xs (addCount need q (cutChunks z rs).length) told
  | .mark p q :: xs, need, told => .send p q [] 0 false need :: threadActs z me stock peers xs need told
  | .await _ q :: xs, need, told => threadActs z me stock peers xs (addCount need q 1) told
  | .act f :: xs, need, told => withNeed need f :: threadActs z me stock peers xs need told

/-- The number of incoming streams of an operation (*Algorithms*): d axes, n members on the longest axis. -/
def streamCount (op algo : Nat) (fallback : Bool) (dims : List Nat) : Nat :=
  let d := (wideAxes dims).length
  let top := dims.foldl (fun x y => max x y) 1
  match op with
  | 0 => 0
  | 1 | 2 => if fallback then top - 1 else 0
  | 3 => if algo = 1 then (if fallback then top - 1 else 0) else if algo = 2 then 1 else 2 * d
  | 4 | 5 => if algo = 2 then 1 else 2 * d
  | 6 | 9 | 10 => 1
  | 7 | 8 => 1 + memberCount dims
  | _ => 0

end Sys2Proof.Machine
end

