-- ==== Sys2Proof/Machine/Sump.lean ====
section
/-! DEFINITION. The sump (11 R440 to R446; 17 R647, R651). -/

namespace Sys2Proof.Machine

def sumpAt (s : State) (i : Nat) : SumpSlot := tget {} s.fabric.sump i
def setSump (s : State) (i : Nat) (v : SumpSlot) : State :=
  modFabric s fun x => { x with sump := tput {} x.sump i v }

/-- Whether a slot is a barrier slot of claim `k` or one it has acquired (R440, R445). -/
def sumpMine (s : State) (k i : Nat) : Bool :=
  if i < 512 then i / 64 = k && (claimAt s k).created else (sumpAt s i).acquired = some k

/-- Reduction slots that claim `k` has acquired (SMP_CLAIM.in_use, R452). -/
def sumpInUse (s : State) (k : Nat) : Nat := (s.fabric.sump.filter fun e => e.2.acquired = some k).length

/-- SMP_FAULT holds the first fault until cleared; the task aborts (R445, R446, R452). -/
def sumpFault (k i code reason : Nat) (s : State) : State :=
  let s1 := modFabric s fun x =>
    { x with sumpFault := if x.sumpFault.fault then x.sumpFault else ⟨true, code, reason, k, i⟩ }
  raiseFor k .sump { name := if code = 1 then .sumpOp else .sumpResidue, reason := if code = 1 then reason else 0 } s1

/-- A request of claim `k` to slot `i` while its task is live: SUMP_OP, reason 1, for a slot that is not its own. -/
def sumpOp (k i : Nat) (s : State) (f : SumpSlot → State) : State :=
  if !(taskLive s k) then s
  else if !(sumpMine s k i) then sumpFault k i 1 1 s
  else f (sumpAt s i)

/-- The adder that serves a slot: i mod 16, or the next that is not fenced (R651). -/
def sumpAdder (s : State) (i : Nat) : Nat :=
  (firstSome (fun n => let a := (i + n) % 16; if inSet s.ras.sumpFenced a then none else some a) (upFrom 0 16)).getD (i % 16)

/-- A residue mismatch: nothing is written, the adder is fenced, the task aborts (R446, R647). -/
def sumpResidue (k i : Nat) (s : State) : State :=
  let a := sumpAdder s i
  addLog { kind := 7, fault := 30, unit := a, claim := some k }
    (modRas (sumpFault k i 2 0 s) fun r => { r with sumpFenced := setWith r.sumpFenced a, fence := true })

/-- An operation that waited completes. -/
def sumpComplete (i : Nat) (v : List Byte) : List Nat → State → State
  | [], s => s
  | w :: ws, s => sumpComplete i v ws (modFabric s fun x => { x with sumpDone := ⟨i, w, v, false⟩ :: x.sumpDone })

/-- The lowest free slot of the reduction pool. -/
def freeSumpSlot (s : State) : Option Nat :=
  firstSome (fun i => if (sumpAt s i).acquired.isNone then some i else none) (upFrom 512 512)

/-- SUMP_ACQUIRE: the lowest free pool slot within the claim's reservation, or SUMP_FULL (R441, R442). -/
def execSumpAcquire (k : ClaimId) (s : State) : Host.Outcome State Fault Refusal :=
  .next (if !(taskLive s k) then s
    else if (claimAt s k).sump ≤ sumpInUse s k then
      { (modClaim s k fun q => { q with sumpFull := wrapAdd 32 q.sumpFull 1 }) with answer := .sumpFull }
    else match freeSumpSlot s with
      | some i => { (setSump s i { acquired := some k.val }) with answer := .number i }
      | none => s)

/-- SUMP_RELEASE: a reduction slot becomes free; a barrier slot cannot be released (R442, R445). -/
def execSumpRelease (k : ClaimId) (i : SlotId) (s : State) : Host.Outcome State Fault Refusal :=
  .next (sumpOp k i s fun _ => if i.val < 512 then sumpFault k i 1 2 s else setSump s i {})

/-- Whether a mode's parameters are ones R443 gives. -/
def modeFits : SumpMode → Bool
  | .reduction n _ _ => [1, 2, 4, 8, 16, 32, 64].contains n
  | _ => true

/-- SUMP_CONFIGURE: mode and parameters (R442); the round in progress begins again. -/
def execSumpConfigure (k : ClaimId) (i : SlotId) (mode : SumpMode) (s : State) : Host.Outcome State Fault Refusal :=
  .next (sumpOp k i s fun v =>
    if !(modeFits mode) then sumpFault k i 1 2 s
    else setSump s i { v with mode := mode, count := 0, written := 0, combined := none, results := 0 })

/-- An arrival (R442): at the target the count is 0 again, the generation moves on, and every waiting arrival completes. -/
def sumpArrive (k i g who : Nat) (s : State) : State :=
  sumpOp k i s fun v => match v.mode with
    | .barrier target =>
      if g ≠ v.gen then sumpFault k i 1 3 s
      else if v.count + 1 = target then
        sumpComplete i [] (v.waiting ++ [who]) (setSump s i { v with count := 0, gen := v.gen + 1, waiting := [] })
      else setSump s i { v with count := v.count + 1, waiting := v.waiting ++ [who] }
    | _ => sumpFault k i 1 2 s

/-- SUMP_ARRIVE. -/
def execSumpArrive (k : ClaimId) (i : SlotId) (g who : Nat) (s : State) : Host.Outcome State Fault Refusal :=
  .next (sumpArrive k i g who s)

/-! ### Combining -/

/-- BF16 sum of two codes, rounded once (R443). -/
def bf16Add (a b : Nat) : Nat :=
  match decodeFloat bf16 a, decodeFloat bf16 b with
  | .fin x m e, .fin y n g =>
    let d := addDyadic (dyadicOf x m e) (dyadicOf y n g)
    if d.m = 0 then (if x && y then 0x8000 else 0) else (convertPlain 1 false (.fin (decide (d.m < 0)) d.m.natAbs d.e)).1
  | x, y => (convertPlain 1 false (num32 (addNum x y))).1

/-- Bytes of an element. -/
def redBytes : RedType → Nat
  | .bf16 => 2
  | _ => 4

/-- One element of a combine (R443, R164). -/
def redElem (ty : RedType) (op : RedOp) (a b : Nat) : Nat :=
  match ty with
  | .fp32 =>
    let x := BitVec.ofNat 32 a
    let y := BitVec.ofNat 32 b
    (match op with | .add => add32 x y | .max => max32 x y | .min => min32 x y).toNat
  | .bf16 => match op with
    | .add => bf16Add a b
    | .max => (convertPlain 1 false (num32 (max32 (widenBf16 a) (widenBf16 b)))).1
    | .min => (convertPlain 1 false (num32 (min32 (widenBf16 a) (widenBf16 b)))).1
  | .int32 =>
    let x := signedOf 32 a
    let y := signedOf 32 b
    wrapNat 32 (match op with | .add => x + y | .max => if x < y then y else x | .min => if y < x then y else x)

/-- Two strings of elements combined, element by element. -/
def combineBytes (ty : RedType) (op : RedOp) : Nat → List Byte → List Byte → List Byte
  | 0, _, _ => []
  | n + 1, xs, ys =>
    let b := redBytes ty
    leBytes b (redElem ty op (leNat (xs.take b)) (leNat (ys.take b))) ++ combineBytes ty op n (xs.drop b) (ys.drop b)

/-- One element's sum by an adder that a fault strikes, and whether its residue check holds (R446); a special operand and an
operation without an adder meet no check. -/
def upsetElem (ty : RedType) (op : RedOp) (a b : Nat) (err : Int) : Nat × Bool :=
  match op, ty with
  | .add, .fp32 =>
    let r := addUpset32 (BitVec.ofNat 32 a) (BitVec.ofNat 32 b) err
    (r.1.toNat, r.2)
  | .add, .bf16 => match decodeFloat bf16 a, decodeFloat bf16 b with
    | .fin x m e, .fin y n g =>
      let d := adderDyadic (dyadicOf x m e) (dyadicOf y n g) err
      (if d.1.m = 0 then (if x && y then 0x8000 else 0)
        else (convertPlain 1 false (.fin (decide (d.1.m < 0)) d.1.m.natAbs d.1.e)).1, d.2)
    | _, _ => (bf16Add a b, true)
  | .add, .int32 =>
    let z := adderSum (signedOf 32 a) (signedOf 32 b) err
    (wrapNat 32 z.1, z.2)
  | _, _ => (redElem ty op a b, true)

/-- Two strings of `n` elements combined, with a fault of the adder in one element; none where its residue check does not hold
(R446, R474). -/
def combineUpset (ty : RedType) (op : RedOp) (n : Nat) (xs ys : List Byte) (u : Option AdderErr) : Option (List Byte) :=
  let r := combineBytes ty op n xs ys
  match u with
  | none => some r
  | some e =>
    let b := redBytes ty
    let at_ (zs : List Byte) : Nat := leNat ((zs.drop (b * e.elem)).take b)
    if n ≤ e.elem then some r
    else
      let y := upsetElem ty op (at_ xs) (at_ ys) e.err
      if y.2 then some (r.take (b * e.elem) ++ leBytes b y.1 ++ r.drop (b * (e.elem + 1))) else none

/-- The combined value of a slot's parts, in ascending part index (R443), with a fault of the adder where one part is added. -/
def combineParts (v : SumpSlot) (n : Nat) (ty : RedType) (op : RedOp) (u : Option AdderErr) : Option (List Byte) :=
  let size := 4096 / n
  let part (c : Nat) : List Byte := tgetN 0 v.bytes (size * c) size
  (upFrom 1 (n - 1)).foldl (fun r c => r.bind fun x =>
    combineUpset ty op (size / redBytes ty) x (part c) (u.filter fun e => e.part = c)) (some (part 0))

/-- Result operations served: after n the slot begins a new round (R443). -/
def afterResults (v : SumpSlot) (n served : Nat) : SumpSlot :=
  if n ≤ v.results + served then
    { v with written := 0, combined := none, results := 0, gen := v.gen + 1, waiting := [] }
  else { v with results := v.results + served, waiting := [] }

/-- Part `part` is written; the last part of a round combines (R443, R445, R446). -/
def sumpContribute (k i part : Nat) (data : List Byte) (upset : Option AdderErr) (s : State) : State :=
  sumpOp k i s fun v => match v.mode with
    | .reduction n ty op =>
      let size := 4096 / n
      if n ≤ part || size < data.length then sumpFault k i 1 5 s
      else if inSet v.written part then sumpFault k i 1 4 s
      else
        let v1 := { v with written := setWith v.written part, bytes := tputN 0 v.bytes (size * part) data }
        if setCount n v1.written < n then setSump s i v1
        else match combineParts v1 n ty op upset with
          | none => sumpResidue k i (setSump s i v1)
          | some r => sumpComplete i r v1.waiting
            (setSump s i (afterResults { v1 with combined := some r } n v1.waiting.length))
    | _ => sumpFault k i 1 2 s

/-- SUMP_RESULT: completes with the combined value once there is one, else waits (R442, R443). -/
def execSumpResult (k : ClaimId) (i : SlotId) (who : Nat) (s : State) : Host.Outcome State Fault Refusal :=
  .next (sumpOp k i s fun v => match v.mode, v.combined with
    | .reduction n _ _, some r =>
      { (sumpComplete i r [who] (setSump s i { afterResults v n 1 with waiting := v.waiting })) with answer := .data r }
    | .reduction _ _ _, none => { (setSump s i { v with waiting := v.waiting ++ [who] }) with answer := .waits }
    | _, _ => sumpFault k i 1 2 s)

/-- Each element of an atomic slot is updated on arrival (R442, R445, R446). -/
def sumpAtomic (k i : Nat) (op : RedOp) (ty : RedType) (data : List Byte) (upset : Option AdderErr) (s : State) : State :=
  sumpOp k i s fun v => match v.mode with
    | .atomic =>
      if 4096 < data.length then sumpFault k i 1 5 s
      else
        let old := tgetN 0 v.bytes 0 data.length
        match combineUpset ty op (data.length / redBytes ty) old data upset with
        | none => sumpResidue k i s
        | some r => setSump s i { v with bytes := tputN 0 v.bytes 0 r }
    | _ => sumpFault k i 1 2 s

end Sys2Proof.Machine
end

