-- ==== Sys2Proof/Machine/CollOps.lean ====
section
/-! DEFINITION. Collective calls: descriptors and their checks, the memory a call reads and writes, and how a call goes on
(12 R454 to R479; 17 R647, R652). -/

namespace Sys2Proof.Machine

/-! ### Fields of the descriptors (R457, R461) -/

def callField (v : CollCall) (i hi lo : Nat) : Nat := fieldOf (wordAt v.words i) hi lo
def callOp (v : CollCall) : Nat := callField v 0 63 60
def callRoot (v : CollCall) : Nat := callField v 0 36 31
def callSeq (v : CollCall) : Nat := callField v 0 30 15
def callClass (v : CollCall) : Nat := callField v 0 14 11
def callLen (v : CollCall) : Nat := callField v 1 63 32
def callCap (v : CollCall) : Nat := callField v 1 22 0
def callRow (v : CollCall) : Nat := 128 * (callField v 1 31 23 + 1)
def callOutWindow (v : CollCall) : Nat := callField v 2 30 23
def callCredit (v : CollCall) : Nat := callField v 3 30 14
def callZ (v : CollCall) : Nat := 0x4000 * 2 ^ fieldOf (wordAt v.group 0) 43 41
def callDepth (v : CollCall) : Nat := fieldOf (wordAt v.group 0) 47 44
def callCores (v : CollCall) : Nat := max 1 (fieldOf (wordAt v.group 0) 32 29)
def callWindow (v : CollCall) : Nat := fieldOf (wordAt v.group 0) 40 33
def callStock (v : CollCall) : Place := placeOf (wordAt v.group 1)
def callSize (v : CollCall) : Nat := v.ranks.length

/-- Element type and operation of a call (R457). -/
def redTypeOf (code : Nat) : RedType := match code with | 0 => .fp32 | 1 => .bf16 | _ => .int32
def redOpOf (code : Nat) : RedOp := match code with | 0 => .add | 1 => .max | _ => .min
def callType (v : CollCall) : RedType := redTypeOf (callField v 0 57 56)
def callRed (v : CollCall) : RedOp := redOpOf (callField v 0 55 54)

/-- Bytes of a call's input, where the vector holds them, and bytes and place in the vector of its output (*Operations*). -/
def isRows (op : Nat) : Bool := op = 7 || op = 8
def callInput (v : CollCall) : Nat :=
  match callOp v with
  | 0 | 10 => 0
  | 6 => if v.me = callRoot v then callLen v else 0
  | 7 | 8 => (v.inRuns.foldl (fun n r => n + r.2) 0)
  | _ => callLen v
def callInputAt (v : CollCall) : Nat := if callOp v = 5 then v.me * callLen v else 0
def callOutput (v : CollCall) : Nat :=
  match callOp v with
  | 1 | 3 => callLen v
  | 2 => if v.me = callRoot v then callLen v else 0
  | 4 => callLen v / callSize v
  | 5 => callSize v * callLen v
  | 6 => if v.me = callRoot v then 0 else callLen v
  | 7 => callCap v * callRow v
  | 8 => v.outRuns.foldl (fun n r => n + r.2) 0
  | 10 => callLen v
  | _ => 0
def callOutputAt (v : CollCall) : Nat := if callOp v = 4 then v.me * (callLen v / callSize v) else 0
def callVector (v : CollCall) : Nat :=
  match callOp v with
  | 5 => callSize v * callLen v
  | 7 | 8 => 4 * callSize v * callSize v
  | 0 => 0
  | _ => if v.fallback then foldOffset (callLen v) 3 0 else callLen v

/-! ### Collective groups (R460, R481) -/

/-- Local coordinate and block of a member's coordinate on axis `a`. -/
def groupExtent (s : State) (g : List W64) (a : Nat) : Nat :=
  if bitOf (wordAt g 0) 60 then 2 ^ fieldOf (wordAt g 0) (53 - 2 * a) (52 - 2 * a)
  else if s.group.stage = .none then 1 else dimSize s a
def groupOrigin (g : List W64) (a : Nat) : Nat :=
  if bitOf (wordAt g 0) 60 then fieldOf (wordAt g 0) (59 - 2 * a) (58 - 2 * a) else 0
def selectedAxes (g : List W64) : List Nat := (upFrom 0 3).filter fun a => bitOf (wordAt g 0) (63 - a)
def localCoord (s : State) (g : List W64) (r a : Nat) : Nat :=
  ((coordsOf s r).getD a 0 + 4 - groupOrigin g a) % 4 % groupExtent s g a
def blockCoord (s : State) (g : List W64) (r a : Nat) : Nat :=
  ((coordsOf s r).getD a 0 + 4 - groupOrigin g a) % 4 / groupExtent s g a

/-- Whether rank `r` belongs to this member's collective group. -/
def inCollGroup (s : State) (g : List W64) (r : Nat) : Bool :=
  let me := programRank s
  (upFrom 0 3).all fun a =>
    if (selectedAxes g).contains a then blockCoord s g r a = blockCoord s g me a
    else (coordsOf s r).getD a 0 = (coordsOf s me).getD a 0

/-- The members of the collective group, in ascending rank. -/
def collRanks (s : State) (g : List W64) : List Nat :=
  if s.group.stage = .none then [0] else (upFrom 0 s.group.members).filter fun r => inCollGroup s g r

/-- How many coordinates an axis has among the members. -/
def axisMembers (s : State) (g : List W64) (rs : List Nat) (a : Nat) : Nat :=
  ((upFrom 0 4).filter fun c => rs.any fun r => localCoord s g r a = c).length

/-- The sizes of the selected axes when the members fill a box, else one axis of all members (entry 72). -/
def collDims (s : State) (g : List W64) (rs : List Nat) : List Nat :=
  let ds := (selectedAxes g).map fun a => axisMembers s g rs a
  if memberCount ds = rs.length then ds else [rs.length]

/-- The sum that gives a member's index before a re-formation (R460). -/
def indexSum (s : State) (g : List W64) (r : Nat) : Nat :=
  ((selectedAxes g).foldl (fun (x : Nat × Nat) a => (x.1 + x.2 * localCoord s g r a, x.2 * groupExtent s g a)) (0, 1)).1

/-- The members by member index: the sum of R460; after a re-formation by ascending rank (R481). -/
def collOrder (s : State) (g : List W64) : List Nat :=
  let rs := collRanks s g
  if s.group.lost ≠ 0 || s.group.generation > 1 then rs
  else (upFrom 0 64).filterMap fun i => rs.find? fun r => indexSum s g r = i

/-! ### Faults of calls (R484, R485) -/

/-- A fault of the collective mover that runs a call. -/
def raiseColl (v : CollCall) (i : FaultInfo) (s : State) : State := raiseCollMover v.mover (callSeq v) i s

/-- COLL_DESC, code 1, and COLL_MISMATCH, code 2, in SMP_COLL_FAULT. -/
def collRefused (k : Nat) (v : CollCall) (code reason rank : Nat) (s : State) : State :=
  let s1 := modColl s fun x => { x with
    fault := if x.fault.fault then x.fault else ⟨true, code, reason, k, callSeq v, rank⟩ }
  raiseColl v { name := if code = 1 then .collDesc else .collMismatch, reason := reason } s1

/-! ### Block lists as byte streams (R458) -/

/-- The descriptors of a list. -/
def listBlocks (s : State) (c handle count : Nat) : List Block :=
  (upFrom 0 count).map fun i => blockOf (benchWords s c (64 * handle + 64 * i) 8)

/-- Whether Movers and Streams would refuse a list, or it holds another operation than a copy. -/
def listBad (s : State) (c handle count : Nat) : Bool :=
  benchSize < 64 * (handle + count) || (listBlocks s c handle count).any fun b => b.op ≠ 0 || (blockReason b {}).isSome

/-- The runs of the source walks, or of the destination walks, of a list. -/
def listRuns (s : State) (c handle count : Nat) (dst : Bool) : List (W64 × Nat) :=
  (listBlocks s c handle count).flatMap fun b => (upFrom 0 (runCount b)).map fun r =>
    (if dst then atIndex b.dst b.ds (runIndex b r) else atIndex b.src b.ss (runIndex b r), b.run)

/-- The pieces of bytes `lo` to `lo + n - 1` of a stream. -/
def streamPieces : List (W64 × Nat) → Nat → Nat → List (W64 × Nat)
  | [], _, _ => []
  | (a, m) :: rs, lo, n =>
    if n = 0 then []
    else if m ≤ lo then streamPieces rs (lo - m) n
    else
      let x := min n (m - lo)
      (movePlace a (Int.ofNat lo), x) :: streamPieces rs 0 (n - x)

/-- The gate of an access of claim `k` to a place: bench of its own cores, or gallery (R458). -/
def collGate (s : State) (k : Nat) (a : W64) (n : Nat) (isRead : Bool) : Gate :=
  let p := placeOf a
  match placeFault p with
  | some r => .err { name := .addrFault, reason := r, address := a }
  | none =>
    if p.space = 0 then
      if coreOwner s p.sel = some k then benchGate s p.sel p.off n isRead
      else .err { name := .addrFault, reason := 4, address := a }
    else if p.space = 1 then galGate s (some k) p.off n isRead
    else .err { name := .addrFault, reason := 3, address := a }

def piecesGate (s : State) (k : Nat) (isRead : Bool) : List (W64 × Nat) → Gate
  | [] => .go
  | (a, n) :: ps => match collGate s k a n isRead with
    | .go => piecesGate s k isRead ps
    | g => g

def piecesBytes (s : State) (ps : List (W64 × Nat)) : List Byte := ps.flatMap fun x => placeBytes s (placeOf x.1) x.2

/-- An access to a bench goes through its P-net (R253, R288). -/
def countPlace (p : Place) (n : Nat) (s : State) : State :=
  if p.space = 0 then countPort p.sel .pNet (linesIn p.off n) s else s
def countPieces (ps : List (W64 × Nat)) (s : State) : State := ps.foldl (fun t x => countPlace (placeOf x.1) x.2 t) s

def writeStream : List (W64 × Nat) → List Byte → State → State
  | [], _, s => s
  | (a, n) :: ps, data, s =>
    writeStream ps (data.drop n) (countPlace (placeOf a) n (writeAt (placeOf a) (data.take n) s))

/-- `n` free bytes, by the next draws. -/
def freeRun (s : State) (n : Nat) : List Byte := (upFrom s.draws n).map Config.freeByte

/-- Whether two runs share bytes. -/
def runsMeet (a b : W64 × Nat) : Bool :=
  let p := placeOf a.1
  let q := placeOf b.1
  p.space = q.space && p.sel = q.sel && p.off < q.off + b.2 && q.off < p.off + a.2

/-- An output stream that overlaps the input stream of a list that is not identical: its outputs are undefined (R458,
entry 156). -/
def outputsOpen (v : CollCall) : Bool := v.inRuns ≠ v.outRuns && v.outRuns.any fun o => v.inRuns.any (runsMeet o)

/-- Output bytes of a call, free where R458 leaves them undefined. -/
def writeOutput (v : CollCall) (ps : List (W64 × Nat)) (data : List Byte) (s : State) : State :=
  if outputsOpen v then { writeStream ps (freeRun s data.length) s with draws := s.draws + data.length }
  else writeStream ps data s

/-- The outputs of a call undefined (R458, R480): its output stream, and the arrival list of an all-to-all. Parts that the
claim may not write stay as they are. -/
def openOutputs (k : Nat) (v : CollCall) (s : State) : State :=
  let list := if callOp v = 7 then [(wordAt v.words 7, 4 * callCap v)] else []
  (v.outRuns ++ list).foldl (fun t r => match collGate t k r.1 r.2 false with
    | .err _ => t
    | _ => { writeStream [r] (freeRun t r.2) t with draws := t.draws + r.2 }) s

/-- A slice of the vector, and the vector with a slice replaced. -/
def vecSlice (v : List Byte) (o n : Nat) : List Byte := let x := (v.drop o).take n; x ++ copies (n - x.length) 0
def splice (v : List Byte) (o : Nat) (data : List Byte) : List Byte :=
  vecSlice v 0 o ++ data ++ v.drop (o + data.length)
def gatherRegions (v : List Byte) (rs : List (Nat × Nat)) : List Byte := rs.flatMap fun r => vecSlice v r.1 r.2

/-! ### Sending -/

/-- A note to a member (the model's own record of what the library sends). -/
def sendNote (k : Nat) (v : CollCall) (peer : Nat) (x : CollNote) (s : State) : State :=
  modColl s fun c => { c with sent := ⟨v.ranks.getD peer 0, k, callSeq v, x⟩ :: c.sent }

/-- What R462 compares: words 0 and 1 of the descriptor and the group descriptor. -/
def callParams (v : CollCall) : List W64 := [wordAt v.words 0, wordAt v.words 1] ++ v.group

/-- The parameters go with the first arrival at a member (R462). -/
def tell (k : Nat) (v : CollCall) (peer : Nat) (s : State) : CollCall × State :=
  if v.told.contains peer then (v, s)
  else ({ v with told := peer :: v.told }, sendNote k v peer (.params (callParams v)) s)

/-- Pieces of up to 4 KiB of a write, with their offsets. -/
def pagePieces : Nat → Nat → List Byte → List (Nat × List Byte)
  | 0, _, _ => []
  | fuel + 1, o, data =>
    if data.isEmpty then [] else (o, data.take 4096) :: pagePieces fuel (o + 4096) (data.drop 4096)

/-- Bytes written through a window of another member, and whether there was a way to it. -/
def remoteWrite (k m rank w off : Nat) (data : List Byte) (s : State) : Option State :=
  (pagePieces (data.length / 4096 + 1) off data).foldl (fun t x => match t with
    | some u => sendRemote ⟨.collMover (Fin.ofNat 16 m), k, rank, w, x.1, .write x.2 .plain none⟩ u
    | none => none) (some s)

/-- Blocks of a collective mover that are not performed yet. -/
def collBlocks (s : State) (m : Nat) : List (Nat × Nat) :=
  (collMoverAt s m).blocks.filter fun b => s.fabric.packets.any fun p => b.1 ≤ p.no && p.no < b.2

/-- What sending a block to another member comes to: sent, or waiting for one of 16 outstanding blocks (R373), or, with no way
to the member, WIN_REFUSED (R426) unless the group loses members (R480). -/
inductive BlockSent where
  | sent (s : State)
  | wait
  | refused
  deriving DecidableEq, Repr

def sendBlock (k m rank w off : Nat) (data : List Byte) (s : State) : BlockSent :=
  let before := collBlocks s m
  if 16 ≤ before.length then .wait
  else match remoteWrite k m rank w off data s with
    | some t => .sent (modCollMover m (fun x => { x with blocks := before ++ [(s.fabric.packetNo, t.fabric.packetNo)] }) t)
    | none => if absorbed s rank 8 then .wait else .refused

/-- Where chunk `i` of stream `q` lies: the stockpile core's number, and the offset from the stock offset (R464). -/
def chunkPlace (v : CollCall) (q i : Nat) : Nat × Nat :=
  (q % callCores v, (q / callCores v) * callDepth v * callZ v + (i % max 1 (callDepth v)) * callZ v)

/-- The offset of the stock in the window that exports it. -/
def stockInWindow (s : State) (v : CollCall) (q : Nat) : Nat :=
  (callStock v).off - (placeOf (winBase (windowAt s (callWindow v + q % callCores v)))).off

/-! ### How a call goes on -/

/-- Whether chunks have arrived as an action needs. -/
def needMet (v : CollCall) (need : List (Nat × Nat)) : Bool := need.all fun x => x.2 ≤ v.got.getD x.1 0

/-- How much of the input a list of ranges of the vector takes in. -/
def inputNeeded (v : CollCall) (rs : List (Nat × Nat)) : Nat :=
  let lo := callInputAt v
  let hi := lo + callInput v
  rs.foldl (fun n r => if r.1 < hi && lo < r.1 + r.2 then max n (min hi (r.1 + r.2) - lo) else n) 0

def inputReady (v : CollCall) (rs : List (Nat × Nat)) : Bool := isRows (callOp v) || inputNeeded v rs ≤ v.loaded

/-! ### Waits on tallies (R302, R328, R464, R479) -/

/-- A wait of a call on a tally, in the call's deadline class. -/
def callWait (v : CollCall) (n : Nat) (target : W32) : WaitEntry :=
  ⟨n, target, .coll (Fin.ofNat 16 v.mover) (callSeq v), callClass v⟩

/-- Whether a call's wait stands at its home, or in a backoff. -/
def waitStands (s : State) (w : WaitEntry) : Bool := s.waits.contains w || s.backoffs.any fun b => b.req = .wait w

/-- Whether a wait of a call is met. -/
def waitMet (s : State) (w : WaitEntry) : Bool := reached (tallyAt s w.tally) w.target && !(waitStands s w)

/-- The wait for the credit of the next chunk of a stream that the call sends on. -/
def creditWait (v : CollCall) (q : Nat) : WaitEntry :=
  callWait v (callCredit v + q) (BitVec.ofNat 32 (tget 0 v.issued q + 1))

/-- The wait for the next input chunk, with ready_en. -/
def readyWait (v : CollCall) : Option WaitEntry :=
  let w := wordAt v.words 4
  if bitOf w 46 && v.loaded < callInput v then
    some (callWait v (fieldOf w 63 47) (BitVec.ofNat 32 ((v.loaded / callZ v + 1) * fieldOf w 26 12)))
  else none

/-- Whether the next input chunk may be read (R459, R479). -/
def chunkReady (s : State) (v : CollCall) : Bool := (readyWait v).all (waitMet s)

/-- A wait goes to its home: entered, or refused and presented again after a backoff. -/
def enterWait (w : WaitEntry) (s : State) : State :=
  if waitStands s w then s
  else match tallyWait s w with
    | (.refused, t) => backOff t (.wait w) 2
    | (_, t) => t

/-- The waits of a call are withdrawn. -/
def dropCallWaits (v : CollCall) (s : State) : State :=
  let mine (w : WaitEntry) : Bool := w.who = .coll (Fin.ofNat 16 v.mover) (callSeq v)
  { s with
    waits := s.waits.filter fun w => !(mine w)
    backoffs := s.backoffs.filter fun b => match b.req with
      | .wait w => !(mine w)
      | _ => true }

/-- What a step of a call comes to. -/
inductive CollGo where
  | go (v : CollCall) (s : State)
  | wait (state : Nat)
  | fault (i : FaultInfo)

/-- Final ranges of the vector: the part of each that lies in the output is written (R459). -/
def writeFinal (k : Nat) (v : CollCall) (rs : List (Nat × Nat)) (s : State) : CollGo :=
  let lo := callOutputAt v
  let hi := lo + callOutput v
  let parts := rs.filterMap fun r =>
    let a := max r.1 lo
    let b := min (r.1 + r.2) hi
    if a < b then some (a, b - a) else none
  let pieces := parts.flatMap fun r => streamPieces v.outRuns (r.1 - lo) r.2
  match piecesGate s k false pieces with
  | .err i => .fault i
  | .wait => .wait 1
  | .go => .go { v with finals := v.finals ++ parts } (writeOutput v pieces (gatherRegions v.vec parts) s)

/-- Whether the output is final from `o` to `e`. -/
def finalTo (fs : List (Nat × Nat)) : Nat → Nat → Nat → Bool
  | 0, o, e => e ≤ o
  | fuel + 1, o, e =>
    if e ≤ o then true
    else match fs.find? fun r => r.1 ≤ o && o < r.1 + r.2 with
      | some r => finalTo fs fuel (r.1 + r.2) e
      | none => false

/-- Leading output chunks that are final. -/
def finalChunks (v : CollCall) : Nat → Nat → Nat
  | 0, n => n
  | fuel + 1, n =>
    let o := callOutputAt v + n * callZ v
    let e := min (callOutputAt v + callOutput v) (o + callZ v)
    if o < callOutputAt v + callOutput v && finalTo v.finals v.finals.length o e then finalChunks v fuel (n + 1) else n

/-- Output chunks of a call. -/
def outChunks (v : CollCall) : Nat := (callOutput v + callZ v - 1) / callZ v

/-- The done tally counts chunks that have become final (R459). -/
def countDone (v : CollCall) (s : State) : CollCall × State :=
  let w := wordAt v.words 4
  if !(bitOf w 28) || !(bitOf w 27) || isRows (callOp v) then (v, s)
  else
    let n := finalChunks v (outChunks v) v.doneChunks
    ({ v with doneChunks := n },
     if v.doneChunks < n then tallyAdd s (fieldOf w 45 29) (BitVec.ofNat 32 (n - v.doneChunks)) else s)

/-- Bytes that a collective mover has moved and combined. -/
def countColl (v : CollCall) (moved combined : Nat) (s : State) : State :=
  modCollMover v.mover (fun m => { m with
    moved := wrapAdd 48 m.moved moved, combined := wrapAdd 48 m.combined combined }) s

/-- The next input chunk is read. -/
def loadInput (k : Nat) (v : CollCall) (s : State) : CollGo :=
  if callInput v ≤ v.loaded then .wait 1
  else if !(chunkReady s v) then .wait 3
  else
    let n := min (callZ v) (callInput v - v.loaded)
    if isRows (callOp v) then .go { v with loaded := v.loaded + n } s
    else
      let ps := streamPieces v.inRuns v.loaded n
      match piecesGate s k true ps with
      | .err i => .fault i
      | .wait => .wait 1
      | .go =>
        let o := callInputAt v + v.loaded
        let v1 := { v with vec := splice v.vec o (piecesBytes s ps), loaded := v.loaded + n }
        let s1 := countPieces ps s
        if callOp v = 5 || callSize v = 1 then writeFinal k v1 [(o, n)] s1 else .go v1 s1

/-- A chunk is sent (R464); counts and the end of rows go as notes. -/
def sendChunk (k : Nat) (v : CollCall) (peer q : Nat) (rs : List (Nat × Nat)) (slot : Nat) (stock : Bool) (s : State) : CollGo :=
  let rank := v.ranks.getD peer 0
  let data := gatherRegions v.vec rs
  if !stock then
    let x := tell k v peer s
    .go x.1 (sendNote k x.1 peer (if rs.isEmpty then .rowsEnd else .counts data) x.2)
  else
    let tally := callCredit v + q
    let i := tget 0 v.issued q
    if !(ownsTally s k tally) then .fault { name := .syncRange }
    else if !(waitMet s (creditWait v q)) then .wait 2
    else
      let x := tell k v peer s
      let c := chunkPlace v q slot
      match sendBlock k v.mover rank (callWindow v + c.1) (stockInWindow s v q + c.2) data x.2 with
      | .wait => .wait 1
      | .refused => .fault { name := .winRefused, reason := 8 }
      | .sent t => .go { x.1 with issued := tput 0 x.1.issued q (i + 1) } (countColl v data.length 0 t)

/-- The core path's combine, in ascending coordinate (R468, R472). -/
def foldLine (v : CollCall) (axis n pos : Nat) : List Byte :=
  let len := callLen v
  let value (c : Nat) : List Byte := if c = pos then vecSlice v.vec 0 len else vecSlice v.vec (foldOffset len axis c) len
  (upFrom 1 (n - 1)).foldl
    (fun r c => combineBytes (callType v) (callRed v) (len / redBytes (callType v)) r (value c)) (value 0)

/-- Bytes of each part of a slot. -/
def partOf (v : CollCall) (n i : Nat) : List Byte := ((vecSlice v.vec 0 (callLen v)).drop (i * (4096 / n))).take (4096 / n)

/-- Whether an operation at group scope must wait: for every window that the call's mover has written, or its net port had
written before the CSTEP (R322, R444). -/
def groupScopeWaits (s : State) (v : CollCall) : Bool :=
  s.fabric.packets.any fun p => p.eng = some (.collMover (Fin.ofNat 16 v.mover)) ||
    (p.eng = some (.netPort (Fin.ofNat 128 v.core)) && p.no < v.fence)

/-- The own part of an axis step is written, and sent to the line (R471). -/
def contributeAxis (k : Nat) (v : CollCall) (axis n pos : Nat) (line : List Nat) (s : State) : CollGo :=
  let is := v.slots.getD axis []
  let s1 := ((upFrom 0 is.length).zip is).foldl (fun t x => sumpContribute k x.2 pos (partOf v n x.1) none t) s
  let r := line.foldl (fun (x : CollCall × State) p =>
    let y := tell k x.1 p x.2
    (y.1, sendNote k y.1 p (.part axis pos (vecSlice v.vec 0 (callLen v))) y.2)) (v, s1)
  .go r.1 r.2

/-- The combined value of an axis step is read once every slot has it (R443, R471). -/
def readResult (k : Nat) (v : CollCall) (axis : Nat) (final : Bool) (s : State) : CollGo :=
  let is := v.slots.getD axis []
  if is.all fun i => (sumpAt s i).combined.isSome then
    let r := (is.flatMap fun i => ((sumpAt s i).combined).getD []).take (callLen v)
    let v1 := { v with vec := splice v.vec 0 r }
    if final then writeFinal k v1 [(0, callLen v)] s else .go v1 s
  else .wait 1

/-- The issuing core arrives at the module slot of the group descriptor, the one core of the member that arrives (R454, R473;
DEDUCED, log entry 73); its completion starts the exchanges. -/
def arriveHome (k : Nat) (v : CollCall) (s : State) : CollGo :=
  let x := sumpAt s v.barrier
  let s1 := if x.mode = .barrier 1 then s else setSump s v.barrier { x with mode := .barrier 1, count := 0 }
  .go v (sumpArrive k v.barrier (sumpAt s1 v.barrier).gen v.core s1)

/-- The member arrives at the axis slots of its line (R473). -/
def arriveAxis (k : Nat) (v : CollCall) (axis n : Nat) (line : List Nat) (s : State) : CollGo :=
  let i := v.barrier + 1 + axis
  let x := sumpAt s i
  let s1 := if x.mode = .barrier n then s else setSump s i { x with mode := .barrier n, count := 0 }
  let g := (sumpAt s1 i).gen
  let r := line.foldl (fun (y : CollCall × State) p =>
    let z := tell k y.1 p y.2
    (z.1, sendNote k z.1 p (.arrive axis) z.2)) ({ v with gen := g }, s1)
  .go r.1 (sumpArrive k i g v.me r.2)

/-! ### All-to-all (R475 to R478) -/

/-- c(r, d): rows that member `r` sends to destination `d`. -/
def rowCount (v : CollCall) (r d : Nat) : Nat := leNat (vecSlice v.vec (4 * (callSize v * r + d)) 4)
/-- o(r, d), a(r, d) and the dropped count. -/
def rowOffset (v : CollCall) (r d : Nat) : Nat := (upFrom 0 r).foldl (fun n x => n + rowCount v x d) 0
def rowAccepted (v : CollCall) (r d : Nat) : Nat := min (rowCount v r d) (callCap v - rowOffset v r d)
def rowDropped (v : CollCall) (r d : Nat) : Nat := rowCount v r d - rowAccepted v r d
def acceptedAt (v : CollCall) (d : Nat) : Nat := (upFrom 0 (callSize v)).foldl (fun n r => n + rowAccepted v r d) 0
def droppedAt (v : CollCall) (d : Nat) : Nat := (upFrom 0 (callSize v)).foldl (fun n r => n + rowDropped v r d) 0
/-- The index in `r`'s input of its first row for `d`. -/
def rowIndex (v : CollCall) (r d : Nat) : Nat := (upFrom 0 d).foldl (fun n x => n + rowCount v r x) 0

def callDrops (v : CollCall) : CollDrops :=
  { own := (upFrom 0 (callSize v)).foldl (fun n d => n + rowDropped v v.me d) 0, here := droppedAt v v.me
    received := acceptedAt v v.me, padding := callCap v - acceptedAt v v.me
    table := (upFrom 0 (callSize v)).map fun d => droppedAt v d }

/-- The rows that this member sends. -/
def sentRows (v : CollCall) : List RowMove :=
  (upFrom 0 (callSize v)).flatMap fun d => (upFrom 0 (rowAccepted v v.me d)).map fun j =>
    ⟨rowIndex v v.me d + j, d, rowOffset v v.me d + j⟩

/-- The arrival entries of this member as destination (R476). -/
def arrivalList (v : CollCall) : List Nat :=
  ((upFrom 0 (callSize v)).flatMap fun r => (upFrom 0 (rowAccepted v r v.me)).map fun j =>
    r * 2 ^ 26 + (rowIndex v r v.me + j) % 2 ^ 26) ++ copies (callCap v - acceptedAt v v.me) 0xFFFFFFFF

/-- The rows that a return writes back, from the arrival list. -/
def returnedRows (entries : List Nat) : List RowMove :=
  ((upFrom 0 entries.length).zip entries).filterMap fun x =>
    if x.2 = 0xFFFFFFFF then none else some ⟨x.1, x.2 / 2 ^ 26, x.2 % 2 ^ 26⟩

/-- The rows of the own output that a return leaves to zero: those that were dropped (R476). -/
def rowsZeroed (v : CollCall) : List Nat :=
  if callOp v = 7 then upFrom (acceptedAt v v.me) (callCap v - acceptedAt v v.me)
  else (upFrom 0 (callSize v)).flatMap fun d => upFrom (rowIndex v v.me d + rowAccepted v v.me d) (rowDropped v v.me d)

/-- Pieces of row `i` of a stream. -/
def rowPieces (v : CollCall) (rs : List (W64 × Nat)) (i : Nat) : List (W64 × Nat) :=
  streamPieces rs (i * callRow v) (callRow v)

/-- The next row moved: within the module, or through out_window of its destination. -/
def moveRow (k : Nat) (v : CollCall) (s : State) : CollGo :=
  match v.rows with
  | [] => .go v s
  | x :: xs =>
    let from_ := rowPieces v v.inRuns x.src
    let to_ := rowPieces v v.outRuns x.target
    match (piecesGate s k true from_).and (if x.dest = v.me then piecesGate s k false to_ else .go) with
    | .err i => .fault i
    | .wait => .wait 1
    | .go =>
      let data := piecesBytes s from_
      let s1 := countPieces from_ s
      if x.dest = v.me then .go { v with rows := xs } (writeOutput v to_ data s1)
      else match sendBlock k v.mover (v.ranks.getD x.dest 0) (callOutWindow v) (x.target * callRow v) data s1 with
        | .wait => .wait 1
        | .refused => .fault { name := .winRefused, reason := 8 }
        | .sent t => .go { v with rows := xs } (countColl v data.length 0 t)

/-- The second phase begins: zero rows and the arrival list; its rows are moved after it. -/
def callRows (k : Nat) (v : CollCall) (s : State) : CollGo :=
  let list := wordAt v.words 7
  let isReturn := callOp v = 8
  let n := 4 * callCap v
  match if isReturn then collGate s k list n true else collGate s k list n false with
  | .err i => .fault i
  | .wait => .wait 1
  | .go =>
    let entries := (upFrom 0 (callCap v)).map fun i => leNat (placeBytes s (placeOf (movePlace list (Int.ofNat (4 * i)))) 4)
    let zeros := (rowsZeroed v).flatMap fun i => rowPieces v v.outRuns i
    match piecesGate s k false zeros with
    | .err i => .fault i
    | .wait => .wait 1
    | .go =>
      let s1 := zeros.foldl (fun t z => writeOutput v [z] (copies z.2 0) t) s
      let s2 := if isReturn then countPieces [(list, n)] s1
        else writeStream [(list, n)] ((arrivalList v).flatMap fun e => leBytes 4 e) s1
      .go { v with drops := callDrops v, rows := if isReturn then returnedRows entries else sentRows v } s2

/-- The head action of a thread. -/
def runAct (k : Nat) (v : CollCall) (s : State) : CollAct → CollGo
  | .send peer q rs slot stock need =>
    if needMet v need && inputReady v rs then sendChunk k v peer q rs slot stock s else .wait 1
  | .fold axis n pos final need =>
    if !(needMet v need) || !(inputReady v [(0, callLen v)]) then .wait 1
    else
      let v1 := { v with vec := splice v.vec 0 (foldLine v axis n pos) }
      let s1 := countColl v 0 ((n - 1) * callLen v) s
      if final then writeFinal k v1 [(0, callLen v)] s1 else .go v1 s1
  | .contribute axis n pos line =>
    if inputReady v [(0, callLen v)] && !(groupScopeWaits s v) then contributeAxis k v axis n pos line s else .wait 1
  | .result axis final => readResult k v axis final s
  | .home => arriveHome k v s
  | .arrive axis n line => if groupScopeWaits s v then .wait 1 else arriveAxis k v axis n line s
  | .leave axis => if (sumpAt s (v.barrier + 1 + axis)).gen = v.gen then .wait 1 else .go v s
  | .rows need => if needMet v need && callInput v ≤ v.loaded then callRows k v s else .wait 1
  | .moveRows => moveRow k v s

/-- The actions that a thread keeps once its head has run: the moving of rows goes on until none is left. -/
def actsLeft (v : CollCall) (a : CollAct) (as : List CollAct) : List CollAct :=
  match a with
  | .moveRows => if v.rows.isEmpty then as else a :: as
  | _ => as

/-- The waits that a call has to enter: for input, and for the credit of each thread's next chunk. -/
def openWaits (s : State) (v : CollCall) : List WaitEntry :=
  ((readyWait v).toList ++ v.acts.filterMap fun t => match t with
    | .send _ q rs _ true need :: _ => if needMet v need && inputReady v rs then some (creditWait v q) else none
    | _ => none).filter fun w => !(waitMet s w)

/-- The first thing that a call can do: read input, or the head action of a thread. -/
def callStep (k : Nat) (v : CollCall) (s : State) : CollGo :=
  match loadInput k v s with
  | .go v1 s1 => .go v1 s1
  | .fault i => .fault i
  | .wait st =>
    let tries := (upFrom 0 v.acts.length).map fun t => (t, (v.acts.getD t []))
    tries.foldl (fun r x => match r with
      | .wait st0 => match x.2 with
        | [] => r
        | a :: as => match runAct k v s a with
          | .go v1 s1 => .go { v1 with acts := setAt v1.acts x.1 (actsLeft v1 a as) } s1
          | .fault i => .fault i
          | .wait st1 => .wait (max st0 st1)
      | _ => r) (.wait (if st = 3 then 3 else 1))

/-- A call goes on until it must wait; none when it has raised a fault. -/
def advance (k : Nat) : Nat → CollCall → State → Option (CollCall × State) × State
  | 0, v, s => (some (v, s), s)
  | fuel + 1, v, s =>
    match callStep k v s with
    | .go v1 s1 =>
      let x := countDone v1 s1
      advance k fuel x.1 x.2
    | .wait st =>
      let s1 := (openWaits s v).foldl (fun t w => enterWait w t)
        (modCollMover v.mover (fun m => { m with claim := k, seq := callSeq v, state := st }) s)
      (some (v, s1), s1)
    | .fault i => (none, raiseColl v i s)

/-- How many steps a call can take. -/
def callSteps (v : CollCall) : Nat :=
  v.acts.foldl (fun n x => n + x.length) 0 + callInput v / callZ v + 2 +
    (if isRows (callOp v) then callInput v / callRow v + callCap v + v.rows.length else 0)

/-- The calls of a core. -/
def callsAt (s : State) (c : Nat) : List CollCall := (coreAt s c).net.calls
def setCalls (s : State) (c : Nat) (vs : List CollCall) : State :=
  modCore s c fun k => { k with net := { k.net with calls := vs } }

/-- Call `n` of core `c` goes on, as far as its claim's task is live. -/
def serveCall (k c n : Nat) (s : State) : State :=
  match (callsAt s c)[n]? with
  | some v =>
    if !(taskLive s k) then s
    else match advance k (callSteps v) v s with
      | (some (v1, s1), _) => setCalls s1 c (setAt (callsAt s1 c) n v1)
      | (none, s1) => s1
  | none => s

/-! ### Checks at call start (R463) -/

/-- A call as its descriptor gives it, before its checks. -/
def callOf (s : State) (c mover handle : Nat) : CollCall :=
  let ws := benchWords s c (64 * handle) 8
  let g := benchWords s c (64 * fieldOf (wordAt ws 0) 53 37) 8
  let ranks := collOrder s g
  { words := ws, group := g, mover := mover, core := c, fence := s.fabric.packetNo, ranks := ranks, algo := 0
    me := ((upFrom 0 ranks.length).find? fun i => ranks.getD i 0 = programRank s).getD 0
    inRuns := listRuns s c (fieldOf (wordAt ws 2) 63 47) (fieldOf (wordAt ws 2) 46 31) false
    outRuns := listRuns s c (fieldOf (wordAt ws 3) 63 47) (fieldOf (wordAt ws 3) 46 31) true }

/-- Thresholds (R461). -/
def tSmall (v : CollCall) : Nat := fieldOf (wordAt v.group 2) 63 32
def tRing (v : CollCall) : Nat := fieldOf (wordAt v.group 2) 31 0

/-- The algorithm used (R466): forced, or by length. -/
def chooseAlgo (v : CollCall) : Nat :=
  let a := callField v 0 59 58
  let op := callOp v
  if op ≤ 2 then 1
  else if a ≠ 0 then a
  else if op = 3 then (if callLen v ≤ tSmall v then 1 else if callLen v ≤ tRing v then 2 else 3)
  else if op = 4 || op = 5 then (if callLen v ≤ tRing v then 2 else 3)
  else 0

def algoFits (v : CollCall) : Bool :=
  let a := callField v 0 59 58
  match callOp v with
  | 0 | 1 | 2 => a ≤ 1
  | 3 => a ≠ 1 || callLen v ≤ 4096
  | 4 | 5 => a ≠ 1
  | _ => a = 0

/-- Reserved codes and RSV fields (reason 1), the type rule of R463 among them. -/
def codesBad (v : CollCall) : Bool :=
  let op := callOp v
  let ty := callField v 0 57 56
  10 < op || callField v 0 55 54 = 3 || callField v 0 10 0 ≠ 0 || callField v 2 22 0 ≠ 0 || callField v 3 13 0 ≠ 0 ||
    callField v 4 11 0 ≠ 0 || ((1 ≤ op && op ≤ 4) != (ty ≠ 3)) || fieldOf (wordAt v.group 0) 28 0 ≠ 0 ||
    ((v.group.drop 3).any fun w => w ≠ 0) || 4 < fieldOf (wordAt v.group 0) 43 41 ||
    (bitOf (wordAt v.group 0) 60 && (upFrom 0 3).any fun a => fieldOf (wordAt v.group 0) (53 - 2 * a) (52 - 2 * a) = 3)

/-- The group descriptor (reason 2). -/
def groupBad (s : State) (v : CollCall) : Bool :=
  let g := wordAt v.group 0
  fieldOf g 63 61 = 0 || fieldOf g 47 44 < 2 || 8 < fieldOf g 47 44 || fieldOf g 32 29 = 0 || 8 < fieldOf g 32 29 ||
    4096 < tSmall v || tRing v < tSmall v ||
    ((selectedAxes v.group).any fun a => (if s.group.stage = .none then 1 else dimSize s a) < groupExtent s v.group a)

/-- The length (reason 3). -/
def lengthBad (v : CollCall) : Bool :=
  let len := callLen v
  let es := redBytes (callType v)
  match callOp v with
  | 0 | 7 | 8 => len ≠ 0
  | 1 | 2 => len < 4 || 256 < len || len % es ≠ 0
  | 4 => len % (64 * callSize v) ≠ 0
  | _ => len % 64 ≠ 0

/-- Whether an export opens a range of a place to the members of the group for writes and synchronisation (R465). -/
def exportCovers (s : State) (k : Nat) (v : CollCall) (w : Nat) (p : Place) (n : Nat) (sync : Bool) : Bool :=
  let x := windowAt s w
  let b := placeOf (winBase x)
  w < 256 && x.kind = 1 && ownsWindow s k w && b.space = p.space && b.sel = p.sel && b.off ≤ p.off &&
    p.off + n ≤ b.off + winSize x && bitOf x.w0 57 && (!sync || bitOf x.w0 56) && bitOf x.w0 (46 + k) &&
    v.ranks.all fun r => r = programRank s || bitOf x.w3 r

/-- The stockpile and the windows (reason 5). -/
def stockBad (s : State) (k : Nat) (v : CollCall) (streams : Nat) : Bool :=
  let st := callStock v
  let n := callCores v
  if callSize v ≤ 1 then false
  else if isRows (callOp v) then
    v.outRuns.any fun r => !(exportCovers s k v (callOutWindow v) (placeOf r.1) r.2 false)
  else (upFrom 0 (min n streams)).any fun i =>
    let bytes := (streams - i + n - 1) / n * callDepth v * callZ v
    st.space ≠ 0 || coreOwner s (st.sel + i) ≠ some k || instrBase < st.off + bytes ||
      !(exportCovers s k v (callWindow v + i) { st with sel := st.sel + i } bytes true)

/-- The lists (reason 6): refused by Movers and Streams, or of another length than *Operations* gives. -/
def listsBad (s : State) (c : Nat) (v : CollCall) : Bool :=
  let total (rs : List (W64 × Nat)) : Nat := rs.foldl (fun n r => n + r.2) 0
  listBad s c (callField v 2 63 47) (callField v 2 46 31) || listBad s c (callField v 3 63 47) (callField v 3 46 31) ||
    (!(isRows (callOp v)) && (total v.inRuns ≠ callInput v || total v.outRuns ≠ callOutput v)) ||
    (callOp v = 7 && total v.outRuns ≠ callOutput v)

/-- The root (reason 7). -/
def rootBad (v : CollCall) : Bool :=
  callSize v ≤ callRoot v || ((callOp v = 9 || callOp v = 10) && callRoot v = v.me)

/-- The record place (reason 8): bench or gallery of the claim, for the record and its drop table. -/
def recordBytes (v : CollCall) : Nat := 64 + (if isRows (callOp v) then 4 * callSize v else 0)
def collRecordBad (s : State) (k : Nat) (v : CollCall) : Bool :=
  match collGate s k (wordAt v.words 5) (recordBytes v) false with
  | .err _ => true
  | _ => false

/-- The first reason of COLL_DESC. -/
def callReason (s : State) (k c : Nat) (v : CollCall) (streams : Nat) : Option Nat :=
  if codesBad v then some 1
  else if groupBad s v then some 2
  else if lengthBad v then some 3
  else if !(algoFits v) then some 4
  else if stockBad s k v streams then some 5
  else if listsBad s c v then some 6
  else if rootBad v then some 7
  else if collRecordBad s k v then some 8
  else none

/-! ### Starting a call -/

/-- Sump slots that a call needs for each axis step (R471). -/
def slotsNeeded (len n : Nat) : Nat := (n * len + 4095) / 4096

/-- A number of slots acquired and set for reduction; none when the claim's reservation or the pool has no more. -/
def takeSlots (k n : Nat) (ty : RedType) (op : RedOp) : Nat → State → Option (List Nat × State)
  | 0, s => some ([], s)
  | m + 1, s =>
    if (claimAt s k).sump ≤ sumpInUse s k then none
    else match freeSumpSlot s with
      | none => none
      | some i => match takeSlots k n ty op m (setSump s i { acquired := some k, mode := .reduction n ty op }) with
        | some (is, t) => some (i :: is, t)
        | none => none

/-- The slots of every axis step. -/
def takeAxes (k len : Nat) (ty : RedType) (op : RedOp) : List Nat → State → Option (List (List Nat) × State)
  | [], s => some ([], s)
  | n :: ns, s =>
    if n = 1 then (takeAxes k len ty op ns s).map fun r => ([] :: r.1, r.2)
    else if !(modeFits (.reduction n ty op)) then none
    else match takeSlots k n ty op (slotsNeeded len n) s with
      | some (is, t) => (takeAxes k len ty op ns t).map fun r => (is :: r.1, r.2)
      | none => none

/-- The barrier slots of a group descriptor: four from the claim's 64, by the order in which its descriptors first came
(entry 73). -/
def barrierSlots (k : Nat) (g : List W64) (s : State) : Nat × State :=
  let known := tget [] s.coll.barriers k
  match (upFrom 0 known.length).find? fun i => known.getD i [] = g with
  | some i => (64 * k + 4 * (i % 16), s)
  | none => (64 * k + 4 * (known.length % 16), modColl s fun x => { x with barriers := tput [] x.barriers k (known ++ [g]) })

/-- A checked call with its plan. -/
def plannedCall (s : State) (v : CollCall) : CollCall :=
  let dims := collDims s v.group v.ranks
  let z := callZ v
  let stock := !(isRows (callOp v))
  let es := redBytes (callType v)
  let plan (j : Nat) := planOf (callOp v) v.algo es (callLen v) (callRoot v) (tRing v < callLen v) v.fallback dims j
  let mine := plan v.me
  let streams := streamCount (callOp v) v.algo v.fallback dims
  { v with
    vec := copies (callVector v) 0
    recvs := (upFrom 0 streams).map fun q => streamChunks z stock mine q
    got := copies streams 0
    acts := mine.map fun t => threadActs z v.me stock plan t [] [] }

/-- Credit tallies of the streams that this member sends on start at the depth (R308). -/
def setCredits (v : CollCall) (s : State) : State :=
  let qs := v.acts.flatMap fun t => t.filterMap fun a => match a with
    | .send _ q _ _ true _ => some q
    | _ => none
  (upFrom 0 64).foldl (fun t q => if qs.contains q then tallyWrite t (callCredit v + q) (BitVec.ofNat 32 (callDepth v)) else t) s

/-- Whether every tally that a call uses is the claim's (R303, R464). -/
def talliesOwned (s : State) (k : Nat) (v : CollCall) : Bool :=
  let w := wordAt v.words 4
  (!(bitOf w 46) || ownsTally s k (fieldOf w 63 47)) && (!(bitOf w 28) || ownsTally s k (fieldOf w 45 29)) &&
    v.acts.all fun t => t.all fun a => match a with
      | .send _ q _ _ true _ => ownsTally s k (callCredit v + q)
      | _ => true

/-- The counts of an all-to-all are read into the vector (R475). -/
def readCounts (k : Nat) (v : CollCall) (s : State) : CollGo :=
  if !(isRows (callOp v)) then .go v s
  else
    let a := wordAt v.words 6
    match collGate s k a (4 * callSize v) true with
    | .err i => .fault i
    | .wait => .wait 1
    | .go => .go { v with vec := splice v.vec (4 * callSize v * v.me) (placeBytes s (placeOf a) (4 * callSize v)) }
        (countPieces [(a, 4 * callSize v)] s)

/-- A call that has passed its checks begins: sump slots or the core path, its plan, its credits (R471, R472). -/
def beginCall (k c : Nat) (v : CollCall) (s : State) : State :=
  let dims := collDims s v.group v.ranks
  let sumped := v.algo = 1 && callOp v ≠ 0
  let taken := if sumped then takeAxes k (callLen v) (callType v) (callRed v) dims s else some ([], s)
  let v1 := { v with fallback := taken.isNone, slots := (taken.map fun r => r.1).getD [] }
  let s1 := match taken with
    | some r => r.2
    | none => modClaim s k fun q =>
        { q with sumpFull := wrapAdd 32 q.sumpFull 1, collFallbacks := satAdd 0xFFFF q.collFallbacks 1 }
  let streams := streamCount (callOp v1) v1.algo v1.fallback dims
  if v1.fallback && stockBad s k v1 streams then collRefused k v1 1 5 0 s
  else
    let b := if callOp v1 = 0 then barrierSlots k v1.group s1 else (0, s1)
    let v2 := { (plannedCall s v1) with barrier := b.1 }
    if !(talliesOwned s k v2) then raiseColl v2 { name := .syncRange } s
    else match readCounts k v2 (setCredits v2 b.2) with
      | .go v3 s3 =>
        let vs := callsAt s3 c ++ [v3]
        serveCall k c (vs.length - 1) (setCalls s3 c vs)
      | .fault i => raiseColl v2 i s
      | .wait _ => s

/-- The ranges of the issuing core's bench that a call reads when it starts: its descriptor, its group descriptor and its
lists. -/
def callReads (s : State) (c handle : Nat) : List (Nat × Nat) :=
  let ws := benchWords s c (64 * handle) 8
  [(64 * handle, 64), (64 * fieldOf (wordAt ws 0) 53 37, 64),
    (64 * fieldOf (wordAt ws 2) 63 47, 64 * fieldOf (wordAt ws 2) 46 31),
    (64 * fieldOf (wordAt ws 3) 63 47, 64 * fieldOf (wordAt ws 3) 46 31)].filter fun r => r.1 + r.2 ≤ benchSize

/-- Whether a CSTEP cannot be accepted yet: memory that the call reads at once powers up (R282), or, for a call that uses
collective slots, a write of the net port stands in a wait register (R310, R322). -/
def callStuck (s : State) (k c handle : Nat) : Bool :=
  let v := callOf s c 0 handle
  gates (fun o n => benchGate s c o n true) (callReads s c handle) = .wait ||
    (isRows (callOp v) && collGate s k (wordAt v.words 6) (4 * callSize v) true = .wait) ||
    (callOp v ≤ 3 && chooseAlgo v = 1 && accessOut s (.netPort (Fin.ofNat 128 c)))

/-- A core's CSTEP is accepted: its descriptor is checked and the call starts (R454, R463). -/
def startCall (k c mover handle : Nat) (s : State) : State :=
  match gates (fun o n => benchGate s c o n true) (callReads s c handle) with
  | .err f => raiseBench (.netPort (Fin.ofNat 128 c)) .pNet c (placeOf f.address).off f s
  | _ =>
    let v0 := callOf s c mover handle
    let v := { v0 with algo := chooseAlgo v0 }
    let dims := collDims s v.group v.ranks
    let s0 := (callReads s c handle).foldl (fun t r => countPort c .pNet (linesIn r.1 r.2) t) s
    let s1 := modCollMover mover (fun m => { m with claim := k, seq := callSeq v, state := 1 }) s0
    match callReason s1 k c v (streamCount (callOp v) v.algo false dims) with
    | some r => collRefused k v 1 r 0 s1
    | none => beginCall k c v s1

/-- Calls of a claim in progress on this module (R456). -/
def callsOfClaim (s : State) (k : Nat) : Nat :=
  (coresOf (claimAt s k).quads).foldl (fun n c => n + (callsAt s c).length) 0

/-- The collective mover that takes the claim's next call: its movers in turn, the fenced ones left out (R484). -/
def nextCollMover (s : State) (k : Nat) : Option Nat :=
  let ms := (unitsOf 16 (claimAt s k).collMovers).filter fun m => !(inSet s.ras.collFenced m)
  ms[callsOfClaim s k % ms.length]?

end Sys2Proof.Machine
end

