-- ==== Sys2Proof/Machine/Net.lean ====
section
/-! DEFINITION. The net queue of a core (08 R294, R310, R314; 09 R359). -/

namespace Sys2Proof.Machine

/-! ### The net queue -/

/-- The net queue with its head replaced or taken. -/
def setNetHead (c : Nat) (x : Option NetItem) (s : State) : State :=
  modCore s c fun k => { k with net := { k.net with queue := x.toList ++ k.net.queue.drop 1 } }

/-- The next write of a post: up to the end of a target slot; the fill mark stands on the last write to each slot. -/
def postPiece (off len done : Nat) : Nat := min (len - done) (1024 - (off + done) % 1024)

/-- One access more of a post (R359, R431); none when it must wait. A write with the fill mark is a release, and follows every
earlier access of the net port (R310). -/
def postNext (c : CoreId) (k : Nat) (w rank src len off done : Nat) (tagged fill : Bool) (s : State) : Option State :=
  let e : Engine := .netPort c
  let n := postPiece off len done
  let o := src + done
  if len ≤ done then some (sealPost e k rank w [(off, len)] (setNetHead c none s))
  else
    let mark : TagMark := if !tagged then .plain else if fill then .pass else .hold
    let op : RemoteOp := .write (benchBytes s c o n) mark (some (crc32c (benchBytes s c o n)))
    if (mark = .pass && accessOut s e) || windowStuck s e k rank w (off + done) n op ||
        (mark = .plain && windowWaits s e k rank w (off + done) op) || accessBehind s c e .pNet o n false .plain then none
    else match benchGate s c o n true with
    | .err f =>
      let s1 := setNetHead c none s
      some (raiseBench e .pNet c o f (if f.name = .addrFault then recordNet c 3 0 w rank s1 else s1))
    | .wait => none
    | .go =>
      let s1 := setNetHead c (some (.post w rank src len off (done + n) tagged fill)) (countPort c .pNet (linesIn o n) s)
      some (windowAccess e k rank w (off + done) op s1)

/-- Whether a release of a net port through a window must wait: for its accesses in wait registers (R310), and, with the fence
bit, for every earlier access to the window (R314). -/
def releaseWaits (s : State) (e : Engine) (rank w : Nat) (fence : Bool) : Bool :=
  accessOut s e || (fence && windowOut s e rank w)

/-- The oldest tally add that a tile post owes (R431), once the writes before it are performed. -/
def dueNext (c : CoreId) (k : Nat) (s : State) : Option State :=
  match (coreAt s c).net.due with
  | .rtally w rank n d fence :: rest =>
    if releaseWaits s (.netPort c) rank w fence then none
    else some (windowAccess (.netPort c) k rank w 0 (.tallyAdd n (BitVec.ofNat 32 d))
      (modCore s c fun q => { q with net := { q.net with due := rest } }))
  | _ => none

/-- The head item of a net queue goes on; none when it must wait. -/
def netNext (c : CoreId) (k : Nat) (s : State) : Option State :=
  let e : Engine := .netPort c
  match (coreAt s c).net.queue with
  | .post w rank src len off done tagged fill :: _ => postNext c k w rank src len off done tagged fill s
  | .moveh h handle count :: _ =>
    if (hubMoverAt s h).lists.length < 16 then
      some (postHub h { core := c, handle := handle, count := count } (setNetHead c none s))
    else none
  | .rtally w rank n d fence :: _ =>
    if releaseWaits s e rank w fence then none
    else some (windowAccess e k rank w 0 (.tallyAdd n (BitVec.ofNat 32 d)) (setNetHead c none s))
  | .rpush w rank n lo hi fence :: _ =>
    if releaseWaits s e rank w fence || pushOut s e then none
    else some (windowAccess e k rank w 0 (.convPush n lo hi) (setNetHead c none s))
  | .wfence w rank :: _ => if windowOut s e rank w then none else some (setNetHead c none s)
  | .cstep h :: _ => match nextCollMover s k with
    | some m => if callsOfClaim s k < 8 && !(callStuck s k c h) then some (startCall k c m h (setNetHead c none s)) else none
    | none => none
  | [] => none

/-- The net queue of a core served until its head must wait. -/
def serveNetFor (c : CoreId) (k : Nat) : Nat → State → State
  | 0, s => s
  | fuel + 1, s =>
    if taskLive s k && beatsRun s c then
      match dueNext c k s with
      | some t => serveNetFor c k fuel t
      | none => match netNext c k s with
        | some t => serveNetFor c k fuel t
        | none => s
    else s

/-- Steps that a net item can take. -/
def netSteps : NetItem → Nat
  | .post _ _ _ len _ _ _ _ => len / 64 + 2
  | _ => 1

/-- A core's net queue goes on as far as it can; the module's answer is not changed. -/
def serveNet (c : CoreId) (s : State) : State :=
  match coreOwner s c with
  | some k =>
    let q := (coreAt s c).net.queue
    let due := (coreAt s c).net.due.length
    { (serveNetFor c k (q.foldl (fun n x => n + netSteps x) due) s) with answer := s.answer }
  | none => s

/-- Every net queue goes on. -/
def serveNets (s : State) : State :=
  (List.finRange 128).foldl (fun s (c : CoreId) => if (coreAt s c).net.queue.isEmpty && (coreAt s c).net.due.isEmpty then s else serveNet c s) s

/-- One net item, or a stall on a full queue of 8 (R334, R337). -/
def toNet (c : CoreId) (x : NetItem) (s : State) : State :=
  if (coreAt s c).net.queue.length < 8 then
    inSequence c (fun t => serveNet c (modCore t c fun k => { k with net := { k.net with queue := k.net.queue ++ [x] } })) s
  else stallOn 4 c s

/-- POST: length × 64 B from the own bench to a window (R359). -/
def execPost (c : CoreId) (s : State) : Host.Outcome State Fault Refusal :=
  .next (issue .post c (fun w t =>
    let rs := fieldOf w 43 39
    toNet c (.post (fieldOf w 57 50) (fieldOf w 49 44) (fieldOf (regAt t c rs) 22 0) (64 * fieldOf w 38 23)
      (fieldOf (regAt t c (rs + 1)) 47 0) 0 (bitOf w 22) (bitOf w 21)) t) s)

/-- RTALLY: a tally add at the target (R359). -/
def execRtally (c : CoreId) (s : State) : Host.Outcome State Fault Refusal :=
  .next (issue .rtally c (fun w t =>
    toNet c (.rtally (fieldOf w 57 50) (fieldOf w 49 44) (fieldOf w 43 27)
      (fieldOf (regAt t c (fieldOf w 25 21)) 31 0) (bitOf w 26)) t) s)

/-- RPUSH: a conveyor push at the target (R359). -/
def execRpush (c : CoreId) (s : State) : Host.Outcome State Fault Refusal :=
  .next (issue .rpush c (fun w t =>
    let rs := fieldOf w 34 30
    toNet c (.rpush (fieldOf w 57 50) (fieldOf w 49 44) (fieldOf w 43 35) (regAt t c rs) (regAt t c (rs + 1)) (bitOf w 29))
      t) s)

/-- WFENCE: a window fence (R314). -/
def execWfence (c : CoreId) (s : State) : Host.Outcome State Fault Refusal :=
  .next (issue .wfence c (fun w => toNet c (.wfence (fieldOf w 57 50) (fieldOf w 49 44))) s)

end Sys2Proof.Machine
end

