-- ==== Sys2Proof/Machine/BlockOps.lean ====
section
/-! DEFINITION. Block lists: the accesses that a block makes, in order (10 R376 to R391; 07 R259, R260, R265 to R274). -/

namespace Sys2Proof.Machine

/-! ### The accesses of a block, in order -/

/-- The boundary that accesses to a space do not cross (R382). -/
def accessUnit (space : Nat) : Nat :=
  match space with
  | 0 => 512 | 1 => 128 | 2 => 64 | _ => 4096

/-- A run cut into accesses at the boundaries of its space and of checksum tiles: pairs of place and length; `q` is the
position in the block's stream. -/
def cutRun : Nat → W64 → Nat → Nat → List (W64 × Nat)
  | 0, _, _, _ => []
  | fuel + 1, a, n, q =>
    if n = 0 then []
    else
      let u := accessUnit (placeOf a).space
      let m := min (min n (u - (placeOf a).off % u)) (4096 - q % 4096)
      (a, m) :: cutRun fuel (movePlace a (Int.ofNat m)) (n - m) (q + m)

/-- The reads of a run. -/
def readsOf (a : W64) (n q : Nat) (idx : List Nat) : List Acc := (cutRun n a n q).map fun x => .rd x.1 x.2 idx

/-- Pieces of a run with their data. -/
def cutData (ps : List (W64 × Nat)) (data : List Byte) : List (W64 × List Byte) :=
  match ps with
  | [] => []
  | p :: r => (p.1, data.take p.2) :: cutData r (data.drop p.2)

/-- The writes of a run; `q` is the position in the written stream. -/
def writesOf (a : W64) (data : List Byte) (q : Nat) (tagged : Bool) (idx : List Nat) : List Acc :=
  (cutData (cutRun data.length a data.length q) data).map fun x => .wr x.1 x.2 tagged idx

/-- The kind of a block's accumulates (R385). -/
def accKindOf (n : Nat) : AccKind :=
  match n with
  | 0 => .fadd | 1 => .fmax | 2 => .fmin | 3 => .iadd | 4 => .imax | _ => .imin

/-- The turn of a block's accumulates (R269, R385). -/
def turnRef (p : MovParams) (last : Bool) : TurnRef := ⟨Fin.ofNat 512 p.turn, p.contributor, last⟩

/-- The accumulate requests of a run: up to 128 B of the destination each (R267), cut at the checksum tiles of the stream
too, in which the run begins at `q` (R382). -/
def accsOf (p : MovParams) (a : W64) (data : List Byte) (q : Nat) (idx : List Nat) : List Acc :=
  (cutData (cutRun data.length a data.length q) data).map fun x =>
    .acc x.1 x.2 (accKindOf p.accKind) (if p.turnOn then some (turnRef p false) else none) idx

/-- The place of a memory byte that a place address stands for: through an import of the own module it is the export's. -/
def canonPlace (s : State) (k : Nat) (a : W64) : Option W64 :=
  let p := placeOf a
  if p.space ≠ 4 then some a
  else
    let v := windowAt s p.sel
    if v.kind = 2 && windowOwner s p.sel = some k && fieldOf v.w5 55 50 = programRank s then
      let x := winPlace (windowAt s (fieldOf v.w5 63 56)) p.off
      some (BitVec.ofNat 64 (x.space * 2 ^ 60 + x.sel * 2 ^ 52 + x.off))
    else none

/-- One byte at a place; none when it stands on another module. -/
def placeByte (s : State) (k : Nat) (a : W64) : Option Byte :=
  match canonPlace s k a with
  | none => none
  | some b =>
    let p := placeOf b
    match p.space with
    | 0 => some (benchByte s p.sel p.off)
    | 1 => some (galByte s p.off)
    | 2 => some (dramByte s p.off)
    | 3 => if hostIsAway s k then none else (hostFn s k).map fun f => hostByte s f p.off
    | _ => none

/-- Whether a byte lies in one of the ranges that the block writes. -/
def inRanges (s : State) (k : Nat) (ws : List (W64 × Nat)) (a : W64) : Bool :=
  match canonPlace s k a with
  | none => false
  | some b => ws.any fun r => match canonPlace s k r.1 with
    | some x => x.toNat ≤ b.toNat && b.toNat < x.toNat + r.2
    | none => false

/-- Bytes as a block reads them; bytes of the overlap with its destination, and of other modules, are free (R382,
entries 21 and 46). -/
def sourceBytes (s : State) (k : Nat) (ws : List (W64 × Nat)) (a : W64) (n : Nat) : List Byte :=
  (upFrom 0 n).map fun j =>
    let x := movePlace a (Int.ofNat j)
    if inRanges s k ws x then Config.freeByte (s.draws + j)
    else (placeByte s k x).getD (Config.freeByte (s.draws + j))

/-- Elements in one output row of a quantise, and the bytes of its elements and scales. -/
def quantBytes (b : Block) (p : MovParams) : Nat × Nat :=
  let n := b.run / elemSize b.elem
  ((n * fmtBits p.qFormat + 7) / 8, if isBlock p.qFormat then n / 32 else 0)

/-- A unit of the walk of a block: one run, one transposed block, or one gathered row. -/
structure MUnit where
  idx : List Nat
  /-- Runs read, as (place, bytes). -/
  reads : List (W64 × Nat)
  /-- Runs written, as (place, bytes). -/
  writes : List (W64 × Nat)
  /-- Zeros in place of reads (the padding index of R266, zero-fill). -/
  zeros : Nat := 0
  fault : Option FaultInfo := none
  deriving DecidableEq, Repr

/-- The row that index `i` of a gather's list selects: none for the padding index (R266). -/
def gatheredRow (s : State) (b : Block) (p : MovParams) (i : Nat) : Option W64 :=
  let v := word32 (galBytes s ((placeOf p.gatherList).off + 4 * i) 4)
  if v = 0xFFFFFFFF then none else some (movePlace b.src (Int.ofNat v.toNat * b.ss.getD 0 0))

/-- Transposed block `j` of an op 1 block. -/
def transUnit (b : Block) (j : Nat) : MUnit :=
  let idx := runIndex b (64 * j)
  let rows := (upFrom 0 64).map fun i => (atIndex b.src b.ss (setAt idx 0 i), b.run)
  let outs := if b.elem = 3 then 128 else 64
  let offs := rows.map fun r => ((placeOf r.1).off, r.2)
  { idx := idx, reads := rows
    writes := (upFrom 0 outs).map fun i => (atIndex b.dst b.ds (setAt idx 0 i), 64 * b.run / outs)
    fault := if (placeOf b.src).space = 1 && !(inOneBank offs) then some (galOp 6 (placeOf b.src).off) else none }

/-- The units of a block, in walk order. -/
def unitsOfBlock (s : State) (b : Block) (p : MovParams) : List MUnit :=
  match b.op with
  | 1 => (upFrom 0 (b.n2 * b.n3 * b.n4)).map (transUnit b)
  | 2 => (upFrom 0 b.n1).map fun i =>
      let r := gatheredRow s b p i
      let bad := !(gatherFits b.run)
      { idx := [i, 0, 0, 0], reads := (r.map fun a => (a, b.run)).toList
        writes := [(movePlace b.dst (b.ds.getD 0 0 * Int.ofNat i), b.run)]
        zeros := if r.isNone then b.run else 0, fault := if bad then some (galOp 7 (placeOf b.src).off) else none }
  | 7 | 8 => []
  | op => (upFrom 0 (runCount b)).map fun r =>
      let i := runIndex b r
      let a := atIndex b.src b.ss i
      let d := atIndex b.dst b.ds i
      let o := (placeOf a).off
      { idx := i, reads := if hasSrc op then [(a, b.run)] else []
        writes := if op = 3 then []
          else if op = 4 then
            [(d, (quantBytes b p).1), (movePlace p.scaleDst (Int.ofNat (r * (quantBytes b p).2)), (quantBytes b p).2)]
          else [(d, if op = 6 then 4 else b.run)]
        zeros := if op = 5 then b.run else 0
        fault := if op = 4 && !(quantFits (b.elem = 1) b.run p.qFormat) then some (galOp 5 (placeOf d).off)
          else if op = 6 && (b.run % 4 ≠ 0 || (reduceFault o (b.run / 4)).isSome) then some (galOp 8 o) else none }

/-- The bytes that a unit writes, run by run, from the bytes it read; `over` is whether a row reduction's values lie in the
overlap of its block's source and destination. -/
def unitOutput (s : State) (b : Block) (p : MovParams) (overlapping : Bool) (u : MUnit) (data : List Byte) : List (List Byte) :=
  match b.op with
  | 1 => transposed b.elem ((upFrom 0 64).map fun i => (data.drop (i * b.run)).take b.run)
  | 4 =>
    let q := quantRow (b.elem = 1) data p.qFormat p.sat
    [q.1, q.2.1]
  | 6 => u.reads.map fun r =>
      leBytes 4 (if overlapping then Config.freeWord s.draws
        else reduceRow s (placeOf r.1).off (b.run / 4) (p.accKind = 1)).toNat
  | _ => [if u.zeros = 0 then data else copies u.zeros 0]

/-- Whether any byte of a run lies in the ranges that the block writes. -/
def overlaps (s : State) (k : Nat) (ws : List (W64 × Nat)) (r : W64 × Nat) : Bool :=
  (upFrom 0 r.2).any fun j => inRanges s k ws (movePlace r.1 (Int.ofNat j))

/-- Bytes that a unit reads. -/
def unitBytes (u : MUnit) : Nat := u.reads.foldl (fun x r => x + r.2) 0

/-- The ranges that a block's units write. -/
def unitRanges (b : Block) (us : List MUnit) : List (W64 × Nat) :=
  us.flatMap fun u => if b.op = 3 then [(atIndex b.dst b.ds u.idx, b.run)] else u.writes

/-- Whether the source of a block is a strided gallery read that leaves its bank (R265, R275): its walk is no plain transfer
of consecutive bytes. A walk that is one stretch of bytes may cross banks (DESIGN CHOICE, log entry 128). -/
def leavesBank (b : Block) (us : List MUnit) : Bool :=
  let starts := us.flatMap fun u => u.reads
  let plain := match starts with
    | [] => true
    | r :: _ => starts.zipIdx.all fun x => x.1.1 == movePlace r.1 (Int.ofNat (x.2 * b.run))
  (b.op = 0 || b.op = 3 || b.op = 4) && (placeOf b.src).space = 1 && !plain &&
    !(inOneBank (starts.map fun r => ((placeOf r.1).off, r.2)))

/-! ### The reads of a block -/

/-- The comparisons with the stored checksums of the tiles that end in a stretch of the stream (R389, R390). -/
def tileChecks (ck : W64) (lo hi total : Nat) (idx : List Nat) : List Acc :=
  (upFrom (lo / 4096) ((hi + 4095) / 4096 - lo / 4096)).flatMap fun t =>
    let e := min total (4096 * (t + 1))
    if lo < e && e ≤ hi then [.ck (movePlace ck (Int.ofNat (4 * t))) t idx] else []

/-- The reads of a block's units, from position `q` of the source stream: each unit's check, its reads, and the tiles that
end in it. -/
def unitReads (b : Block) (p : MovParams) (total : Nat) : List MUnit → Nat → List Acc
  | [], _ => []
  | u :: us, q =>
    let n := unitBytes u
    let bad : List Acc := (u.fault.map fun f => Acc.bad f u.idx).toList
    let rds := (u.reads.foldl (fun (a : Nat × List Acc) r => (a.1 + r.2, a.2 ++ readsOf r.1 r.2 a.1 u.idx)) (q, [])).2
    bad ++ rds ++ (if b.ckVer then tileChecks p.ckSrc q (q + n) total u.idx else []) ++ unitReads b p total us (q + n)

/-- The index list of a gather (R266, R383): its space, then its reads. -/
def listAccs (b : Block) (p : MovParams) : List Acc :=
  if b.op ≠ 2 then []
  else if (placeOf p.gatherList).space ≠ 1 then [.bad { name := .addrFault, reason := 3, address := p.gatherList } []]
  else (cutRun (4 * b.n1) p.gatherList (4 * b.n1) 0).map fun x => .look x.1 x.2

/-- Every read of a block, in walk order. -/
def blockReads (s : State) (b : Block) (p : MovParams) : List Acc :=
  let us := unitsOfBlock s b p
  let total := us.foldl (fun n u => n + unitBytes u) 0
  listAccs b p ++ (if leavesBank b us then [.bad (galOp 6 (placeOf b.src).off) [0, 0, 0, 0]] else []) ++
    unitReads b p total us 0

/-! ### The writes of a block -/

/-- The writes of a block's units and the stream that they write, from the source stream; `q` and `w` are the positions in
the two streams. The written stream of a quantise is its elements alone (R390). -/
def unitWrites (s : State) (k : Nat) (b : Block) (p : MovParams) (ws : List (W64 × Nat)) (stream : List Byte) :
    List MUnit → Nat → Nat → List Acc × List Byte
  | [], _, _ => ([], [])
  | u :: us, q, w =>
    let data := (stream.drop q).take (unitBytes u)
    let outs := unitOutput s b p (u.reads.any (overlaps s k ws)) u data
    let tagged := b.tagged || b.cmpl = 3
    let accs := if b.op = 3 then accsOf p (atIndex b.dst b.ds u.idx) data q u.idx
      else ((u.writes.zip outs).foldl (fun (a : Nat × List Acc) r =>
        (a.1 + r.2.length, a.2 ++ writesOf r.1.1 r.2 a.1 tagged u.idx)) (w, [])).2
    let out := if b.op = 3 then [] else if b.op = 4 then outs.headD [] else outs.flatten
    let r := unitWrites s k b p ws stream us (q + unitBytes u) (w + out.length)
    (accs ++ r.1, out ++ r.2)

/-- The last accumulate request of a block carries the end bit when turn_end is set (R384). -/
def markEnd (last : Bool) (xs : List Acc) : List Acc :=
  match xs.reverse with
  | .acc a d kind t i :: r => (Acc.acc a d kind (t.map fun x => { x with last := last }) i :: r).reverse
  | _ => xs

/-- Every write of a block, in walk order, with the length of the written stream. -/
def blockWrites (s : State) (k : Nat) (b : Block) (p : MovParams) (stream : List Byte) : List Acc × Nat :=
  match b.op with
  | 7 => ([.turn p.turn (p.turnCount + 1) p.turnTally p.turnTallyEn], 0)
  | 8 => ([.empty b.dst (turnRef p true)], 0)
  | _ =>
    let us := unitsOfBlock s b p
    let r := unitWrites s k b p (unitRanges b us) stream us 0 0
    let sums := if b.ckGen then
        (upFrom 0 ((r.2.length + 4095) / 4096)).map fun t =>
          Acc.wr (movePlace p.ckDst (Int.ofNat (4 * t))) (leBytes 4 (crc32c ((r.2.drop (4096 * t)).take 4096)).toNat)
            false []
      else []
    (markEnd p.turnEnd r.1 ++ sums, r.2.length)

/-- What the conversions of a block's quantise rows record (R272, R697). -/
def quantFlags (s : State) (b : Block) (p : MovParams) (stream : List Byte) : ConvFlags :=
  if b.op ≠ 4 then {} else
    (upFrom 0 (unitsOfBlock s b p).length).foldl (fun f r =>
      addConv f (quantRow (b.elem = 1) ((stream.drop (r * b.run)).take b.run) p.qFormat p.sat).2.2) {}

/-- The checksum pointers after a block, from the lengths of its two streams (R390). -/
def afterBlock (b : Block) (p : MovParams) (srcLen dstLen : Nat) : MovParams :=
  { p with
    ckSrc := if b.ckVer then movePlace p.ckSrc (Int.ofNat (4 * ((srcLen + 4095) / 4096))) else p.ckSrc
    ckDst := if b.ckGen then movePlace p.ckDst (Int.ofNat (4 * ((dstLen + 4095) / 4096))) else p.ckDst
    creditIdx := if b.credit then p.creditIdx + 1 else p.creditIdx }

end Sys2Proof.Machine
end

