-- ==== Sys2Proof/Machine/Movers.lean ====
section
/-! DEFINITION. Movers: starting a block, its accesses, and completion actions (10 R373 to R396). -/

namespace Sys2Proof.Machine

def isHub : MoverId → Bool
  | .hub _ => true
  | .core _ _ => false

/-- Blocks that a mover may have outstanding (R373). -/
def moverLimit (m : MoverId) : Nat := if isHub m then 16 else 8

/-- The port through which a mover reaches the bench of core `c` (R253, R374). -/
def moverPort (m : MoverId) (c : Nat) : Port :=
  match m with
  | .core d _ => if d.val = c then .pMove else .pNet
  | .hub _ => .pNet

/-- Resolve a place for an access by a mover: only hub movers reach host space (R374). -/
def spotOf (s : State) (m : MoverId) (k : Nat) (a : W64) (n : Nat) (op : RemoteOp) : Spot :=
  spotFor s (moverEngine m) (isHub m) k a n op

/-! ### What stands before an access -/

/-- Whether a slot is filled by the completion action of one of these blocks (R294). -/
def fillsSlot (core slot : Nat) (o : OutBlock) : Bool :=
  o.cmpl = 3 && o.ranges.any fun r => r.1 = core && (unitsIn 1024 r.2.1 r.2.2).contains slot

/-- The mover's blocks before the one whose writes come next. -/
def doneBlocks (v : MoverState) : List OutBlock := v.out.takeWhile fun o => o.todo.isEmpty

/-- The slot of a tagged access that is not ready: its tag, an access that began to wait before it, or for a write an earlier
block of the mover that has yet to fill it (R293, R294, R297). -/
def tagObst (s : State) (m : MoverId) (p : Place) (n : Nat) (isWrite : Bool) : Option Obst :=
  if p.space ≠ 0 then none
  else
    let slots := unitsIn 1024 p.off n
    match slotsBlock s p.sel (moverEngine m) isWrite slots with
    | some x => some (.tag p.sel x isWrite)
    | none =>
      if isWrite && slots.any fun x => (doneBlocks (moverAt s m)).any (fillsSlot p.sel x) then some .wait else none

/-- A gate as an obstacle; a gathered row outside the claim's banks has a reason of its own (R266). -/
def gateObst (row : Bool) : Gate → Option Obst
  | .go => none
  | .wait => some .wait
  | .err i => some (.err (if row && i.name = .addrFault && i.reason = 4 then { i with reason := 5 } else i))

/-- Whether an access of the mover at a bench stands behind its own: a held write keeps later reads of its port behind it, and
a returned access those of its bytes (R291, R295). -/
def behindOwn (s : State) (m : MoverId) (c : Nat) (isWrite : Bool) : Bool :=
  !isWrite && (coreAt s c).bench.held.any fun a => a.eng == moverEngine m && a.isWrite

/-- What stands before a read or write at a spot; `owner` is the claim under which a gathered row is read. -/
def spotObst (s : State) (m : MoverId) (row : Option Nat) (tagged : Bool) (n : Nat) (isWrite : Bool) : Spot → Option Obst
  | .stop o => some o
  | .here p o =>
    match gateObst row.isSome (targetGate s (row.getD o) p n (!isWrite)) with
    | some x => some x
    | none =>
      if p.space = 0 && behindOwn s m p.sel isWrite then some .wait
      else if tagged then tagObst s m p n isWrite else none
  | _ => none

/-- Whether the claim that owns the bank a request targets owns its turn counter (R303). -/
def turnOwned (s : State) (t : Nat) (o : Nat) : Bool :=
  match bankOwner s (galBank o) with
  | some k => ownsTurn s k t
  | none => true

def syncRangeInfo (a : W64) : FaultInfo := { name := .syncRange, address := a }

/-- What stands before an accumulate request at gallery offset `off`. -/
def accObst (s : State) (owner : Nat) (a : W64) (r : AccReq) : Option Obst :=
  if r.turn.any fun t => !(turnOwned s t.counter.val r.offset) then some (.err (syncRangeInfo a))
  else match accGate s (some owner) r with
    | .go => none
    | .notDue t => some (.turn t)
    | .wait => some .wait
    | .err i => some (.err i)

/-- The request of an accumulate at a gallery offset. -/
def accReq (m : MoverId) (off : Nat) (d : List Byte) (kind : AccKind) (t : Option TurnRef) : AccReq :=
  ⟨moverEngine m, off, kind, d, t⟩

/-- What stands before a turn set: the counter's claim, then R275's case 4. -/
def turnObst (s : State) (k t : Nat) : Option Obst :=
  let x := turnAt s t
  if !(ownsTurn s k t) then some (.err (syncRangeInfo 0))
  else if x.hold.isSome || x.owner.isSome then some (.err (galOp 4 (sliceSize * (t / 64)))) else none

/-- Whether a byte of a run is still to be written by the mover's earlier blocks (R291). -/
def writePending (s : State) (m : MoverId) (k : Nat) (a : W64) (n : Nat) : Bool :=
  let ws := (moverAt s m).out.flatMap fun o => o.todo.filterMap fun x => match x with
    | .wr b d _ _ => some (b, d.length)
    | .acc b d _ _ _ => some (b, d.length)
    | _ => none
  !ws.isEmpty && (upFrom 0 n).any fun j => inRanges s k ws (movePlace a (Int.ofNat j))

/-- The claim under which a gathered row is read (R266). -/
def rowClaim (s : State) (k : Nat) (b : Block) (a : W64) (n : Nat) : Option Nat :=
  if b.op = 2 then some (rowOwner s k (placeOf a).off n) else none

/-- What stands before a read of block `b`. -/
def readObst (s : State) (m : MoverId) (k : Nat) (b : Block) : Acc → Option Obst
  | .rd a n _ =>
    if writePending s m k a n then some .wait
    else spotObst s m (rowClaim s k b a n) (b.mark ≠ 0 && (placeOf a).space = 0) n false (spotOf s m k a n (.read n))
  | .look a n => spotObst s m none false n false (spotOf s m k a n (.read n))
  | .ck a _ _ => spotObst s m none false 4 false (spotOf s m k a 4 (.read 4))
  | .bad i _ => some (.err i)
  | _ => none

/-- What stands before a write. -/
def writeObst (s : State) (m : MoverId) (k : Nat) : Acc → Option Obst
  | .wr a d tagged _ => spotObst s m none tagged d.length true (spotOf s m k a d.length (.write d .plain none))
  | .acc a d kind t _ =>
    match spotOf s m k a d.length (.accumulate kind d t) with
    | .here q o => if q.space = 1 then accObst s o a (accReq m q.off d kind t) else some (addrFault 3 a)
    | .stop o => some o
    | _ => none
  | .turn t _ _ _ => turnObst s k t
  | .empty a t =>
    match spotOf s m k a 0 (.read 0) with
    | .here q o => accObst s o a (accReq m q.off [] .fadd (some t))
    | .stop o => some o
    | _ => none
  | _ => none

/-! ### Performing an access -/

/-- Accesses of the mover at a bench are counted with the port (R288). -/
def countMover (m : MoverId) (c : Nat) (s : State) : State := countPort c (moverPort m c) 1 s

/-- A translation that the host gave is kept in the claim's 512 entries of the cache, when the host has enabled ATS on the
function (R522). -/
def noteTranslation (k f off n : Nat) (s : State) : State :=
  if (tget ({} : Function) s.functions f).ats then
    let pages := unitsIn 4096 off n
    modClaim s k fun c => { c with atc := (pages ++ c.atc.filter fun p => !(pages.contains p)).take 512 }
  else s

/-- Take the mover's item of one direction out of the wait registers of a core (R295). -/
def unholdSide (s : State) (c : Nat) (e : Engine) (isWrite : Bool) : State :=
  let mine (a : HeldAccess) : Bool := a.eng == e && a.op == .item && a.isWrite == isWrite
  modBench { s with backoffs := s.backoffs.filter fun b => match b.req with
      | .tagged d a => !(d.val == c && mine a)
      | _ => true } c fun b => { b with held := b.held.filter fun a => !(mine a) }

/-- An access at the bench of core `c` issues: its wait register is free again, and the port counts it. -/
def issueAt (m : MoverId) (c : Nat) (isWrite : Bool) (s : State) : State :=
  countMover m c (if itemHeld s c (moverEngine m) then unholdSide s c (moverEngine m) isWrite else s)

/-- A request of host space that goes through the group host port module (R548). -/
def forwardHost (f : Forwarded) (s : State) : State :=
  { s with group := { s.group with forwards := (s.group.hostRank, f) :: s.group.forwards } }

/-- A read goes to its place. -/
def issueRead (m : MoverId) (k : Nat) (a : W64) (n : Nat) (s : State) : State :=
  match spotOf s m k a n (.read n) with
  | .here q _ => if q.space = 0 then issueAt m q.sel false s else s
  | .host f o => noteTranslation k f o n s
  | .away r w o => (sendRemote ⟨moverEngine m, k, r, w, o, .read n⟩ s).getD s
  | .hostAway o => forwardHost (.hostRead (Fin.ofNat 8 k) o n) s
  | .stop _ => s

/-- The slots that a consuming read empties (R294): those of it that no later read of the block touches. -/
def freedBy (b : Block) (a : W64) (n : Nat) (rest : List Acc) : List Nat :=
  if b.mark ≠ 2 || (placeOf a).space ≠ 0 then []
  else (unitsIn 1024 (placeOf a).off n).filter fun x => !(rest.any fun y => match y with
    | .rd c l _ => (placeOf c).space = 0 && (placeOf c).sel = (placeOf a).sel && (unitsIn 1024 (placeOf c).off l).contains x
    | _ => false)

/-- The mover's block under way with one read more. -/
def setProg (m : MoverId) (g : Option ReadProg) (s : State) : State := setMover s m { moverAt s m with prog := g }

/-- The ranges that a block writes. -/
def blockRanges (s : State) (b : Block) (p : MovParams) : List (W64 × Nat) := unitRanges b (unitsOfBlock s b p)

/-- The read at the head of the block under way is performed. -/
def stepRead (m : MoverId) (k : Nat) (b : Block) (p : MovParams) (g : ReadProg) (s : State) : State :=
  match g.todo with
  | .rd a n _ :: rest =>
    let bs := sourceBytes s k (blockRanges s b p) a n
    let s1 := issueRead m k a n s
    let s2 := setTags s1 (placeOf a).sel false (freedBy b a n rest)
    setProg m (some { g with todo := rest, stream := g.stream ++ bs }) { s2 with draws := s2.draws + n }
  | .look a n :: rest => setProg m (some { g with todo := rest }) (issueRead m k a n s)
  | .ck a _ _ :: rest => setProg m (some { g with todo := rest }) (issueRead m k a 4 s)
  | _ :: rest => setProg m (some { g with todo := rest }) s
  | [] => s

/-- A write, an accumulate or a turn operation is performed. -/
def doWrite (m : MoverId) (k : Nat) (x : Acc) (s : State) : State :=
  let e := moverEngine m
  match x with
  | .wr a d tagged _ =>
    match spotOf s m k a d.length (.write d .plain none) with
    | .here q _ => writeAt q d (if q.space = 0 then issueAt m q.sel true s else s)
    | .host f o => writeHost (noteTranslation k f o d.length s) f o d
    | .hostAway o => forwardHost (.hostWrite (Fin.ofNat 8 k) o d) s
    | .away r w o => (sendRemote ⟨e, k, r, w, o, .write d (if tagged then .hold else .plain) none⟩ s).getD s
    | .stop _ => s
  | .acc a d kind t _ =>
    match spotOf s m k a d.length (.accumulate kind d t) with
    | .here q _ => applyAcc (accReq m q.off d kind t) (accData (accReq m q.off d kind t) s) s
    | .away r w o => (sendRemote ⟨e, k, r, w, o, .accumulate kind d t⟩ s).getD s
    | _ => s
  | .turn t count tally en => turnSet e (some k) t count tally en s
  | .empty a t => applyAcc (accReq m (placeOf a).off [] .fadd (some t)) ([], false) s
  | _ => s

/-- Bytes that an access writes. -/
def accBytesOut : Acc → Nat
  | .wr _ d _ _ => d.length
  | .acc _ d _ _ _ => d.length
  | _ => 0

def bytesOut (xs : List Acc) : Nat := xs.foldl (fun n x => n + accBytesOut x) 0

/-- Bench ranges of this module that accesses write: (core, offset, bytes). -/
def benchWrites (s : State) (m : MoverId) (k : Nat) (xs : List Acc) : List (Nat × Nat × Nat) :=
  xs.filterMap fun x => match x with
    | .wr a d _ _ => match spotOf s m k a d.length (.write d .plain none) with
      | .here q _ => if q.space = 0 then some (q.sel, q.off, d.length) else none
      | _ => none
    | _ => none

/-- Bench tiles that the block wrote whole are sealed (R638). -/
def sealBlock (rs : List (Nat × Nat × Nat)) (s : State) : State :=
  ((rs.map fun r => r.1).foldl (fun a c => if a.contains c then a else a ++ [c]) ([] : List Nat)).foldl
    (fun t c => sealWritten t c ((rs.filter fun r => r.1 = c).map fun r => r.2)) s

/-- The outstanding block whose writes come next. -/
def writingBlock (v : MoverState) : Option OutBlock := v.out.find? fun o => !o.todo.isEmpty

/-- The mover's next write. -/
def nextWrite (v : MoverState) : Option Acc :=
  match writingBlock v with
  | some o => o.todo.head?
  | none => none

/-- A list of blocks with the first write of the first unfinished one taken off. -/
def takeWrite : List OutBlock → List OutBlock
  | [] => []
  | o :: os => if o.todo.isEmpty then o :: takeWrite os else { o with todo := o.todo.drop 1 } :: os

/-- The mover's next write is performed; with the block's last its bench tiles are sealed. -/
def stepWrite (m : MoverId) (k : Nat) (s : State) : State :=
  match writingBlock (moverAt s m) with
  | some o => match o.todo with
    | x :: rest =>
      let s1 := doWrite m k x s
      let v := moverAt s1 m
      let s2 := setMover s1 m { v with out := takeWrite v.out, bytes := wrapAdd 64 v.bytes (accBytesOut x) }
      if rest.isEmpty then sealBlock o.ranges s2 else s2
    | [] => s
  | none => s

/-! ### Faults and waits -/

/-- SYNC_RANGE of a core mover as its core's CORE_SYNC_FAULT records it: the kind of object and its number (R331). -/
def moverSync (m : MoverId) (kind object : Nat) (s : State) : State :=
  match m with
  | .core c m1 => recordSync s c 2 (if m1 then 4 else 3) kind object 0
  | .hub _ => s

/-- The turn counter that an access names. -/
def accTurn : Acc → Nat
  | .acc _ _ _ t _ => (t.map fun x => x.counter.val).getD 0
  | .turn t _ _ _ => t
  | .empty _ t => t.counter.val
  | _ => 0

/-- A mover's fault at a place: in a bench it is recorded there too. -/
def moverFaultAt (m : MoverId) (i : FaultInfo) (blk : Nat) (idx : List Nat) (s : State) : State :=
  let p := placeOf i.address
  raiseMover m i blk idx (if benchFaultCode i.name = 0 then s
    else recordBenchFault p.sel (benchFaultCode i.name) (benchBank p.off) (portNo (moverPort m p.sel))
      (portNo (moverPort m p.sel)) (slotOf p.off) (slotOf p.off) s)

def accIdx : Acc → List Nat
  | .rd _ _ i | .ck _ _ i | .wr _ _ _ i | .acc _ _ _ _ i | .bad _ i => i
  | _ => []

def accPlace : Acc → W64
  | .rd a _ _ | .look a _ | .ck a _ _ | .wr a _ _ _ | .acc a _ _ _ _ | .empty a _ => a
  | .bad i _ => i.address
  | .turn _ _ _ _ => 0

/-- Whether the mover has presented a request that waits for its turn (R270). -/
def turnHeld (s : State) (m : MoverId) (t : Nat) : Bool :=
  let mine (r : TurnReq) : Bool := match r with
    | .item e _ => e == moverEngine m
    | .request _ _ => false
  (turnAt s t).hold.any mine || s.backoffs.any fun b => match b.req with
    | .accumulate r => mine r
    | _ => false

/-- The mover's request that waited for its turn is presented no more. -/
def dropTurn (m : MoverId) (t : Nat) (s : State) : State :=
  let mine (r : TurnReq) : Bool := match r with
    | .item e _ => e == moverEngine m
    | .request _ _ => false
  let x := turnAt s t
  let s1 := if x.hold.any mine then setTurn s t { x with hold := none } else s
  { s1 with backoffs := s1.backoffs.filter fun b => match b.req with
      | .accumulate r => !(mine r)
      | _ => true }

/-- The mover waits at an obstacle: in a wait register, or at a turn counter (R270, R295, R393). -/
def stayAt (m : MoverId) (x : Acc) (o : Obst) (cls : Nat) (s : State) : State :=
  let e := moverEngine m
  match o with
  | .tag c slot w =>
    if waitsAt s c e slot then s
    else holdAccess (unholdSide s c e w) c
      { eng := e, port := moverPort m c, offset := 1024 * slot, op := .item, mark := .hold, isWrite := w, cls := cls }
  | .turn t =>
    if turnHeld s m t then s
    else match x with
      | .acc _ _ _ (some r) _ => holdTurn t (.item e r) s
      | .empty _ r => holdTurn t (.item e r) s
      | _ => s
  | _ => s

/-- The mover stops at an obstacle of block `blk`: it waits, or the fault is raised, and the block is not delivered (R390, R397,
R399). -/
def stopAt (m : MoverId) (x : Acc) (o : Obst) (blk cls : Nat) (s : State) : State :=
  match o with
  | .err i =>
    moverFaultAt m { i with address := if i.address = 0 then accPlace x else i.address } blk (accIdx x)
      (if i.name = .syncRange then moverSync m 3 (accTurn x) s else s)
  | .refused w rank code =>
    let s1 := if rank = programRank s then noteRefusal w rank ((engineClaim s (moverEngine m)).getD 0) code s else s
    raiseMover m { name := .winRefused, reason := code, address := accPlace x } blk (accIdx x) s1
  | _ => stayAt m x o cls s

/-! ### P-move serves M0 and M1 in turn (R254) -/

/-- Whether a mover may issue accesses: its claim's task is live, and a core mover's beats run (R394, R397). -/
def moverRuns (s : State) (m : MoverId) : Bool :=
  engineLive s (moverEngine m) && !(moverAt s m).stopped &&
    (match m with
     | .core c _ => beatsRun s c
     | .hub _ => true)

/-- Whether an access of a core's mover goes through P-move: it lies in the core's own bench. -/
def usesMove (s : State) (c : CoreId) (m1 : Bool) (k : Nat) (x : Acc) : Bool :=
  match spotOf s (.core c m1) k (accPlace x) 1 (.read 1) with
  | .here q _ => q.space = 0 && q.sel = c.val
  | _ => false

/-- The parameters in force for the block at the head of a mover's lists. -/
def headParams (v : MoverState) : MovParams := (v.lists.head?.map fun l => l.params).getD {}

/-- A core's mover makes its next access of a block under way through P-move, if one is ready. -/
def serveMove (c : CoreId) (m1 : Bool) (k : Nat) (s : State) : State :=
  let m : MoverId := .core c m1
  let v := moverAt s m
  let mark (t : State) : State := modBench t c fun b => { b with lastMove := m1 }
  if !(moverRuns s m) then s
  else match nextWrite v with
    | some x => if usesMove s c m1 k x && (writeObst s m k x).isNone then mark (stepWrite m k s) else s
    | none => match v.prog with
      | some g => match g.todo with
        | x :: _ =>
          let b := blockOf g.words
          if usesMove s c m1 k x && (readObst s m k b x).isNone then mark (stepRead m k b (headParams v) g s) else s
        | [] => s
      | none => s

/-- Before access `x` of a mover: where P-move served this mover last and the other has an access ready too, the other's goes
first (R254). -/
def takeTurns (m : MoverId) (k : Nat) (x : Acc) (s : State) : State :=
  match m with
  | .core c m1 =>
    if !(usesMove s c m1 k x) then s
    else
      let s1 := if (coreAt s c).bench.lastMove == m1 then serveMove c (!m1) k s else s
      modBench s1 c fun b => { b with lastMove := m1 }
  | .hub _ => s

/-! ### A block's accesses -/

/-- The writes of the mover's outstanding blocks, in order, up to one that must wait or faults. -/
def runWrites (m : MoverId) (k : Nat) : Nat → State → State
  | 0, s => s
  | n + 1, s =>
    match writingBlock (moverAt s m) with
    | none => s
    | some o => match o.todo with
      | [] => s
      | x :: _ => match writeObst s m k x with
        | some ob => stopAt m x ob o.block o.cls s
        | none =>
          let s1 := takeTurns m k x s
          match writeObst s1 m k x with
          | some ob => stopAt m x ob o.block o.cls s1
          | none => runWrites m k n (stepWrite m k (match x with
              | .acc _ _ _ (some t) _ => dropTurn m t.counter.val s1
              | .empty _ t => dropTurn m t.counter.val s1
              | _ => s1))

/-- Writes that a mover still has to make. -/
def writesLeft (v : MoverState) : Nat := v.out.foldl (fun n o => n + o.todo.length) 0

def writesOn (m : MoverId) (k : Nat) (s : State) : State := runWrites m k (writesLeft (moverAt s m)) s

/-- The head list of a mover after one descriptor of it: the parameters, and the list taken off when it is done. -/
def afterDescriptor (l : MovList) (p : MovParams) (isBlock : Bool) (rest : List MovList) : List MovList :=
  if l.next + 1 = l.count then rest
  else { l with next := l.next + 1, waited := false, granted := false, params := p
                block := if isBlock then l.block + 1 else l.block } :: rest

/-- The block under way has read its source: its writes are due, and the next descriptor may be read (R378, R392). -/
def endReads (m : MoverId) (k : Nat) (g : ReadProg) (s : State) : State :=
  let v := moverAt s m
  match v.lists with
  | l :: rest =>
    let b := blockOf g.words
    let xs := blockWrites s k b l.params g.stream
    let o : OutBlock :=
      { core := l.core, handle := l.handle, block := l.block, op := b.op, dst := b.dst, todo := xs.1, bytes := bytesOut xs.1
        cmpl := b.cmpl, arg := b.arg, ranges := benchWrites s m k xs.1, cls := l.params.cls, last := l.next + 1 = l.count }
    let s1 := noteConvFor (moverEngine m) (quantFlags s b l.params g.stream) s
    setMover s1 m { v with
      prog := none, out := v.out ++ [o]
      lists := afterDescriptor l (afterBlock b l.params g.stream.length xs.2) true rest }
  | [] => s

/-- Whether a stored checksum is not that of its tile (R390). -/
def sumBroken (s : State) (k : Nat) (g : ReadProg) : Acc → Bool
  | .ck a t _ =>
    crc32c ((g.stream.drop (4096 * t)).take 4096) ≠ BitVec.ofNat 32 (leNat (sourceBytes s k [] a 4))
  | _ => false

/-- Whether an access is a read of host space. -/
def readsHost (s : State) (m : MoverId) (k : Nat) : Acc → Bool
  | .rd a n _ => match spotOf s m k a n (.read n) with
    | .host _ _ => true
    | _ => false
  | _ => false

/-- The reads of the block under way, in order, up to one that must wait or faults; then its writes. `hostError` is whether
the host answers the next read of its space with an unsupported request or a completer abort (R395). -/
def runReads (m : MoverId) (k : Nat) (hostError : Bool) : Nat → State → State
  | 0, s => s
  | n + 1, s =>
    let v := moverAt s m
    match v.prog with
    | none => s
    | some g =>
      let b := blockOf g.words
      let p := headParams v
      let blk := (v.lists.head?.map fun l => l.block).getD 0
      match g.todo with
      | [] => writesOn m k (endReads m k g s)
      | x :: _ => match readObst s m k b x with
        | some ob => stopAt m x ob blk p.cls s
        | none =>
          let s1 := takeTurns m k x s
          match readObst s1 m k b x with
          | some ob => stopAt m x ob blk p.cls s1
          | none =>
            if hostError && readsHost s1 m k x then
              stopAt m x (.err { name := .hostXlate, address := accPlace x }) blk p.cls s1
            else if sumBroken s1 k g x then
              stopAt m x (.err { name := .tileCrc, reason := 1, address := accPlace x }) blk p.cls s1
            else runReads m k hostError n (stepRead m k b p g s1)

/-- The block under way goes on. -/
def readsOn (m : MoverId) (k : Nat) (hostError : Bool) (s : State) : State :=
  match (moverAt s m).prog with
  | some g => runReads m k hostError (g.todo.length + 1) s
  | none => s

/-! ### Starting a block (R376, R391, R396) -/

/-- MOV_DESC, with the bench place of the descriptor (R403). -/
def movDesc (m : MoverId) (l : MovList) (reason : Nat) (s : State) : State :=
  moverFaultAt m { name := .movDesc, reason := reason, address := benchPlace l.core (64 * l.handle + 64 * l.next) } l.block [] s

/-- A block that is due begins to read. -/
def beginBlock (m : MoverId) (k : Nat) (hostError : Bool) (w : List W64) (s : State) : State :=
  let g : ReadProg := ⟨w, blockReads s (blockOf w) (headParams (moverAt s m)), []⟩
  readsOn m k hostError (setProg m (some g) s)

/-- A tally wait or a push of a core mover begins to wait (R331). -/
def otherWait (m : MoverId) (s : State) : State :=
  match m with
  | .core c _ => modSync s c fun y => { y with otherWaits := wrapAdd 32 y.otherWaits 1 }
  | .hub _ => s

/-- The head list of a mover with its credit wait noted. -/
def noteCredit (m : MoverId) (s : State) : State :=
  let v := moverAt s m
  otherWait m (setMover s m { v with
    creditWaits := wrapAdd 32 v.creditWaits 1
    lists := match v.lists with
      | l :: rest => { l with waited := true } :: rest
      | [] => [] })

/-- A block descriptor is due: checks, the credit wait at the tally's home (R302, R391), then the block. -/
def startBlock (m : MoverId) (k : Nat) (hostError : Bool) (l : MovList) (w : List W64) (s : State) : State :=
  let b := blockOf w
  let p := l.params
  let go := beginBlock m k hostError w s
  match blockReason b p with
  | some n => movDesc m l n s
  | none =>
    if !b.credit || l.granted then go
    else if !(ownsTally s k p.creditTally) then
      moverFaultAt m (syncRangeInfo 0) l.block [] (moverSync m 1 p.creditTally s)
    else if l.waited then s
    else
      let e : WaitEntry := ⟨p.creditTally, p.creditBase + BitVec.ofNat 32 (p.creditIdx + 1), .mover m, p.cls⟩
      match tallyWait s e with
      | (.done, _) => go
      | (.waits, t) => noteCredit m t
      | (.refused, t) => noteCredit m (backOff t (.wait e) 2)

/-- The head list of a mover counts as started when its first descriptor is read (R403). -/
def beginList (m : MoverId) (s : State) : State :=
  let v := moverAt s m
  match v.lists with
  | l :: rest =>
    if l.begun then s
    else setMover s m { v with lists := { l with begun := true } :: rest, started := wrapAdd 32 v.started 1 }
  | [] => s

/-- The descriptors at the head of a mover's lists: parameter descriptors take effect, and a block starts (R376, R377,
R380, R385). -/
def nextDescriptor (m : MoverId) (k : Nat) (hostError : Bool) : Nat → State → State
  | 0, s => s
  | fuel + 1, s =>
    let v := moverAt s m
    match v.lists with
    | [] => s
    | l :: rest =>
      let o := 64 * l.handle + 64 * l.next
      match benchGate s l.core o 64 true with
      | .wait => s
      | .err i => moverFaultAt m i l.block [] s
      | .go =>
        let w := benchWords s l.core o 8
        let s1 := beginList m (if l.waited then s else countMover m l.core s)
        match fieldOf (wordAt w 6) 63 60 with
        | 1 => startBlock m k hostError l w s1
        | 2 =>
          if paramsRsv w then movDesc m l 2 s1
          else
            let v1 := moverAt s1 m
            nextDescriptor m k hostError fuel
              (setMover s1 m { v1 with lists := afterDescriptor { l with begun := true } (paramsOf w) false rest })
        | _ => movDesc m l 1 s1

/-- Descriptors that a mover's lists hold. -/
def descriptorsLeft (v : MoverState) : Nat := v.lists.foldl (fun n l => n + (l.count - l.next)) 0

/-- A mover goes on: the writes that are due, then the block that it reads, or the next descriptor within the outstanding
limit (R378, R392). -/
def moverStart (m : MoverId) (hostError : Bool) (s : State) : State :=
  match engineClaim s (moverEngine m) with
  | none => s
  | some k =>
    if !(moverRuns s m) then s
    else
      let s1 := writesOn m k s
      let v := moverAt s1 m
      let s2 :=
        if !(moverRuns s1 m) then s1
        else if v.prog.isSome then readsOn m k hostError s1
        else if moverLimit m ≤ v.out.length then s1
        else nextDescriptor m k hostError (descriptorsLeft v) s1
      serveNets s2

/-- MOVER_BLOCK_START (R391). -/
def execMoverBlockStart (b : BlockStart) (s : State) : Host.Outcome State Fault Refusal :=
  .next (coincide (moverEngine b.mover) (moverStart b.mover b.hostError) s)

/-! ### Completion actions (R379, R386 to R388) -/

/-- The oldest outstanding block is delivered. -/
def delivered (m : MoverId) (s : State) : State :=
  let v := moverAt s m
  setMover s m { v with
    out := v.out.drop 1
    delivered := wrapAdd 32 v.delivered 1
    pushing := false }

/-- The slots that a block wrote in the bench that its destination names. -/
def blockSlots (o : OutBlock) : List Nat :=
  slotsOf ((o.ranges.filter fun r => r.1 = (placeOf o.dst).sel).map fun r => r.2)

/-- The handle that a conveyor push of a block carries (R304, R388). -/
def blockHandle (o : OutBlock) : Handle :=
  let bench := (placeOf o.dst).space = 0
  let slots := blockSlots o
  let first := if bench then slots.foldl min (slots.headD 0) else 0
  let last := if bench then slots.foldl max 0 else 0
  let n := if bench && !slots.isEmpty then last + 1 - first else 0
  ⟨o.dst, placed (o.bytes % 2 ^ 32) 32 ||| placed (first % 8192) 19 ||| placed (n % 8192) 6 ||| placed (o.arg / 2 ^ 17 % 64) 0⟩

/-- Whether a push of the mover waits at its conveyor's home, or in a backoff. -/
def pushWaits (s : State) (m : MoverId) (n : Nat) : Bool :=
  (match (conveyorAt s n).push with
    | some p => p.who = .mover m
    | none => false) ||
  s.backoffs.any fun b => match b.req with
    | .push _ p => p.who = .mover m
    | _ => false

/-- The oldest outstanding block's push waits; it is one of the core's other waits (R331). -/
def pushHeld (m : MoverId) (s : State) : State := otherWait m (setMover s m { moverAt s m with pushing := true })

/-- A conveyor push of a completion action: once presented it waits at the home until it is performed (R304, R306). -/
def moverPush (m : MoverId) (n cls : Nat) (h : Handle) (s : State) : State :=
  if (moverAt s m).pushing then (if pushWaits s m n then s else delivered m s)
  else match conveyorPush s n ⟨.mover m, h, cls⟩ with
    | (.done, t) => delivered m t
    | (.waits, t) => pushHeld m t
    | (.refused, t) => pushHeld m (backOff t (.push n ⟨.mover m, h, cls⟩) 2)

/-- A completion at the object's home on this module. -/
def homeAction (m : MoverId) (o : OutBlock) (s : State) : State :=
  match o.cmpl with
  | 1 => delivered m (tallyAdd s (o.arg / 2 ^ 15) (BitVec.ofNat 32 (o.arg % 2 ^ 15)))
  | 2 => moverPush m (o.arg / 2 ^ 23) o.cls (blockHandle o) s
  | 3 => delivered m (setTags s (placeOf o.dst).sel true (blockSlots o))
  | _ => delivered m s

/-- Whether an object of a completion action is the claim's (R303). -/
def actionOwned (s : State) (k : Nat) (o : OutBlock) : Bool :=
  match o.cmpl with
  | 1 => ownsTally s k (o.arg / 2 ^ 15)
  | 2 => ownsConveyor s k (o.arg / 2 ^ 23)
  | _ => true

/-- The request of a completion action at the target of a window (R387). -/
def remoteAction (o : OutBlock) : Option RemoteOp :=
  let h := blockHandle o
  match o.cmpl with
  | 1 => some (.tallyAdd (o.arg / 2 ^ 15) (BitVec.ofNat 32 (o.arg % 2 ^ 15)))
  | 2 => some (.convPush (o.arg / 2 ^ 23) h.place h.info)
  | _ => none

/-- The completion action of a block that wrote through a window: after the window fence, through the same window (R314,
R387); a push that finds the conveyor full takes its waiting place, or backs off (R306). -/
def windowAction (m : MoverId) (k : Nat) (o : OutBlock) (s : State) : State :=
  let e := moverEngine m
  let v := windowAt s (placeOf o.dst).sel
  let rank := fieldOf v.w5 55 50
  let w := fieldOf v.w5 63 56
  match remoteAction o with
  | none => delivered m s
  | some op =>
    if (moverAt s m).pushing then (if pushOut s e then s else delivered m s)
    else if windowOut s e rank w then s
    else
      let t := { (windowAccess e k rank w 0 op s) with answer := s.answer }
      if (moverAt t m).stopped then t else if pushOut t e then pushHeld m t else delivered m t

/-- The completion action of the oldest outstanding block, once every write of it is performed (R379). An op 7 block has no
destination, and acts at the object's home (R380, R387). -/
def completeBlock (m : MoverId) (k : Nat) (o : OutBlock) (s : State) : State :=
  if !o.todo.isEmpty then s
  else if (placeOf o.dst).space = 4 && o.op ≠ 7 && o.cmpl ≠ 0 then windowAction m k o s
  else if !(actionOwned s k o) then
    moverFaultAt m (syncRangeInfo o.dst) o.block [] (if o.cmpl = 1 then moverSync m 1 (o.arg / 2 ^ 15) s
      else moverSync m 2 (o.arg / 2 ^ 23) s)
  else homeAction m o s

/-- COMPLETION_ACTION (R379). -/
def completionAction (m : MoverId) (s : State) : State :=
  match engineClaim s (moverEngine m), (moverAt s m).out with
  | some k, o :: _ => if moverRuns s m then completeBlock m k o s else s
  | _, _ => s

def execCompletionAction (m : MoverId) (s : State) : Host.Outcome State Fault Refusal :=
  .next (coincide (moverEngine m) (completionAction m) s)

/-! ### Block deadlines (R394) -/

/-- The blocks of a mover that have begun and are not delivered, oldest first: class and index. The last may stand in its
credit wait. -/
def openBlocks (v : MoverState) : List (Nat × Nat) :=
  (v.out.map fun o => (o.cls, o.block)) ++ match v.lists with
    | l :: _ => if v.prog.isSome || l.waited then [(l.params.cls, l.block)] else []
    | [] => []

/-- BLOCK_DEADLINE_MISS (R394): block `n` of those that are not delivered has passed its limit. -/
def blockDeadlineMiss (m : MoverId) (n : Nat) (s : State) : State :=
  match engineClaim s (moverEngine m), (openBlocks (moverAt s m))[n]? with
  | some k, some (cls, blk) =>
    if !(moverRuns s m) || !(claimAt s k).rtMode || cls = 0 then s
    else raiseMover m { name := .deadlineMiss } blk [] s
  | _, _ => s

def execBlockDeadlineMiss (b : MoverBlock) (s : State) : Host.Outcome State Fault Refusal :=
  .next (coincide (moverEngine b.mover) (blockDeadlineMiss b.mover b.n) s)

end Sys2Proof.Machine
end

