-- ==== Sys2Proof/Machine/BankOps.lean ====
section
/-! DEFINITION. The row reduction of a gallery bank, whose result goes to a place of any space (07 R274). -/

namespace Sys2Proof.Machine

/-- A result of a bank written to a place by engine `e` of claim `k`. -/
def putResult (e : Engine) (k : Nat) (dst : W64) (d : List Byte) (s : State) : State :=
  let done (t : State) : State := { t with answer := .nothing }
  match spotFor s e true k dst d.length (.write d .plain none) with
  | .here p o => match targetGate s o p d.length false with
    | .err f => windowErr k e p f s
    | .wait => { s with answer := .waits }
    | .go =>
      if p.space = 0 && accessBehind s p.sel e .pNet p.off d.length true .plain then { s with answer := .waits }
      else done (writeAt p d (if p.space = 0 then countPort p.sel .pNet (linesIn p.off d.length) s else s))
  | .host f o => done (writeHost (noteTranslation k f o d.length s) f o d)
  | .hostAway o => done (forwardHost (.hostWrite (Fin.ofNat 8 k) o d) s)
  | .away rank w o => done ((sendRemote ⟨e, k, rank, w, o, .write d .plain none⟩ s).getD s)
  | .stop (.err i) => raiseFor k e i s
  | .stop (.refused w rank code) =>
    refused e w rank code (if rank = programRank s then noteRefusal w rank k code s else s)
  | .stop _ => { s with answer := .waits }

/-- ROW_REDUCTION (R274): GAL_OP, reason 8, for a range that is not legal; the result is one FP32 value at the destination. -/
def execRowReduction (eng : Engine) (offset n : Nat) (isMax : Bool) (dst : W64) (s : State) :
    Host.Outcome State Fault Refusal :=
  .next (forUnit eng (bankDest offset) s fun k =>
    match reduceFault offset n with
    | some f => raiseFor k eng f s
    | none => match galGate s (some k) offset (4 * n) true with
      | .err f => raiseFor k eng f s
      | .wait => { s with answer := .waits }
      | .go => putResult eng k dst (leBytes 4 (reduceRow s offset n isMax).toNat) s)

end Sys2Proof.Machine
end

