-- ==== Sys2Proof/Machine/Collectives.lean ====
section
/-! DEFINITION. Commands of the collectives: CSTEP, chunks, and completion (12 R454 to R485). -/

namespace Sys2Proof.Machine

/-- CSTEP: one member's step of a call goes to the net queue (R359, R454). -/
def execCstep (c : CoreId) (s : State) : Host.Outcome State Fault Refusal :=
  .next (issue .cstep c (fun w => toNet c (.cstep (fieldOf w 57 41))) s)

/-! ### Chunks (R462, R464, R474) -/

/-- The first difference between a member's parameters and the own ones (R462), as COLL_MISMATCH names it (R485); a send and
a receive name each other (R463). -/
def paramsDiffer (v : CollCall) (peer : Nat) (ps : List W64) : Option Nat :=
  let f (i hi lo : Nat) : Nat := fieldOf (wordAt ps i) hi lo
  let pair := callOp v = 9 || callOp v = 10
  if (if pair then f 0 63 60 + callOp v ≠ 19 else f 0 63 60 ≠ callOp v) || f 0 57 54 ≠ callField v 0 57 54 then some 1
  else if wordAt ps 1 ≠ wordAt v.words 1 then some 2
  else if (ps.drop 2).take 8 ≠ v.group then some 3
  else if (if pair then f 0 36 31 ≠ v.me || callRoot v ≠ peer else f 0 36 31 ≠ callRoot v) then some 4
  else if f 0 30 15 ≠ callSeq v then some 5
  else none

/-- A combine unit that fails its residue check is fenced; a claim that has lost its last collective mover takes a free one,
or is impaired (R647, R652). -/
def fenceColl (k m : Nat) (s : State) : State :=
  let s1 := addLog { kind := 7, fault := 33, unit := m, claim := some k }
    (modRas s fun r => { r with collFenced := setWith r.collFenced m, fence := true })
  let left := (unitsOf 16 (claimAt s1 k).collMovers).filter fun x => !(inSet s1.ras.collFenced x)
  if !left.isEmpty then s1
  else match (upFrom 0 16).find? fun x =>
      !(inSet s1.ras.collFenced x) && (ownerBy s1 fun q => inSet q.collMovers x).isNone with
    | some x => modClaim s1 k fun q => { q with collMovers := setWith q.collMovers x }
    | none => modClaim s1 k fun q => { q with impaired := some .collResidue }

/-- The chunk's bytes put in its ranges of the vector, combined as its mode says (R468); none where the residue check of the
combine unit does not hold (R474). -/
def applyChunk (v : CollCall) (mode : CollMode) : List (Nat × Nat) → List Byte → Option AdderErr → List Byte →
    Option (List Byte)
  | [], _, _, vec => some vec
  | (o, n) :: rs, data, u, vec =>
    let x := data.take n
    let own := vecSlice vec o n
    let es := redBytes (callType v)
    let here := u.filter fun e => e.elem < n / es
    let next := (u.filter fun e => n / es ≤ e.elem).map fun e => { e with elem := e.elem - n / es }
    let y := match mode with
      | .copy => some x
      | .ownFirst => combineUpset (callType v) (callRed v) (n / es) own x here
      | .ownLast => combineUpset (callType v) (callRed v) (n / es) x own here
    y.bind fun z => applyChunk v mode rs (data.drop n) next (splice vec o z)

/-- The receiver adds 1 to the sender's credit tally when it has read the chunk (R464). -/
def returnCredit (k : Nat) (v : CollCall) (q peer : Nat) (s : State) : State :=
  (sendRemote ⟨.collMover (Fin.ofNat 16 v.mover), k, v.ranks.getD peer 0, callWindow v + (chunkPlace v q 0).1, 0,
    .tallyAdd (callCredit v + q) 1⟩ s).getD s

/-- The chunk in the stockpile, and its gate (R464). -/
def stockGate (s : State) (v : CollCall) (q n : Nat) : Gate :=
  let x := chunkPlace v q (v.got.getD q 0)
  benchGate s ((callStock v).sel + x.1) ((callStock v).off + x.2) n false
def writeStock (v : CollCall) (q : Nat) (data : List Byte) (s : State) : State :=
  let x := chunkPlace v q (v.got.getD q 0)
  countPort ((callStock v).sel + x.1) .pNet (linesIn ((callStock v).off + x.2) data.length)
    (writeBench s ((callStock v).sel + x.1) ((callStock v).off + x.2) data)

/-- The mover reads the chunk from the stockpile. -/
def readStock (v : CollCall) (q n : Nat) (s : State) : State :=
  let x := chunkPlace v q (v.got.getD q 0)
  countPort ((callStock v).sel + x.1) .pNet (linesIn ((callStock v).off + x.2) n) s

/-- A chunk that is due is verified, combined or copied, and its credit returned. -/
def takeChunk (k c n q peer : Nat) (v : CollCall) (r : CollRecv) (data : List Byte) (crc : W32) (upset : Option AdderErr)
    (s : State) : State :=
  match if r.stock then stockGate s v q data.length else .go with
  | .wait => s
  | .err f => raiseColl v f s
  | .go =>
    let s1 := if r.stock then readStock v q data.length (writeStock v q data s) else s
    if r.stock && crc ≠ crc32c data then
      let x := chunkPlace v q (v.got.getD q 0)
      raiseColl v { name := .tileCrc, reason := 4
                    address := benchPlace ((callStock v).sel + x.1) ((callStock v).off + x.2) } s1
    else match applyChunk v r.mode r.regions data upset v.vec with
    | none => fenceColl k v.mover (raiseColl v { name := .collResidue } s1)
    | some vec =>
      let v1 := { v with
        vec := vec
        recvs := setAt v.recvs q ((v.recvs.getD q []).drop 1)
        got := setAt v.got q (v.got.getD q 0 + 1) }
      let s2 := countColl v 0 (if r.mode = .copy then 0 else data.length) s1
      match if r.final then writeFinal k v1 r.regions s2 else .go v1 s2 with
      | .wait _ => s
      | .fault i => raiseColl v i s1
      | .go v2 s3 =>
        let s4 := if r.stock then returnCredit k v q peer s3 else s3
        let x := countDone v2 s4
        serveCall k c n (setCalls x.2 c (setAt (callsAt x.2 c) n x.1))

/-- COLLECTIVE_CHUNK: the next chunk of a stream; one that is not due stays where it is. -/
def collChunk (c n q peer : Nat) (params : List W64) (data : List Byte) (crc : W32) (upset : Option AdderErr) (s : State) :
    State :=
  match coreOwner s c, (callsAt s c)[n]? with
  | some k, some v =>
    match v.recvs.getD q [] with
    | r :: _ =>
      if !(taskLive s k) || r.peer ≠ peer || data.length ≠ regionsLen r.regions ||
          (r.mode ≠ .copy && !(inputReady v r.regions)) then s
      else match if v.heard.contains peer then none else paramsDiffer v peer params with
        | some reason => collRefused k v 2 reason (v.ranks.getD peer 0) s
        | none =>
          let v1 := { v with heard := if v.heard.contains peer then v.heard else peer :: v.heard }
          takeChunk k c n q peer v1 r data crc upset (setCalls s c (setAt (callsAt s c) n v1))
    | [] => s
  | _, _ => s

def execCollectiveChunk (c : CoreId) (n stream peer : Nat) (params : List W64) (data : List Byte) (crc : W32)
    (upset : Option AdderErr) (s : State) : Host.Outcome State Fault Refusal :=
  .next (collChunk c n stream peer params data crc upset s)

/-! ### Completion (R455, R456, R478, R480) -/

/-- The completion record of a call: `lost` is the lowest failed rank, and whether a second member failed. -/
def collRecord (v : CollCall) (lost : Option (Nat × Bool)) : List Byte :=
  let algo := if callOp v ≤ 5 then v.algo else 0
  bytesOf [placed (if lost.isSome then 1 else 0) 56 ||| placed ((lost.map fun x => x.1).getD 0 % 64) 50 |||
      flagAt (lost.any fun x => x.2) 49 ||| flagAt v.fallback 48 ||| placed algo 46 ||| placed (callSeq v) 30 |||
      placed (callSize v % 128) 23,
    placed (v.drops.own % 2 ^ 32) 32 ||| placed (v.drops.here % 2 ^ 32) 0,
    placed (v.drops.received % 2 ^ 32) 32 ||| placed (v.drops.padding % 2 ^ 32) 0, 0, 0, 0, 0, 0] ++
    v.drops.table.flatMap fun d => leBytes 4 d

/-- Every step of a call is done. -/
def callFinished (v : CollCall) : Bool :=
  (v.recvs.all fun r => r.isEmpty) && (v.acts.all fun a => a.isEmpty) && callInput v ≤ v.loaded

/-- Whether an earlier call of the same group descriptor is still in progress (R456). -/
def callBehind (s : State) (k : Nat) (v : CollCall) : Bool :=
  (coresOf (claimAt s k).quads).any fun c => (callsAt s c).any fun x =>
    x.group = v.group && (let d := (callSeq v + 65536 - callSeq x) % 65536; 0 < d && d < 32768)

/-- The slots that a call acquired become free (R442). -/
def freeSlots (v : CollCall) (s : State) : State := v.slots.flatten.foldl (fun t i => setSump t i {}) s

/-- The done tally at completion: 1, or the output chunks not counted yet (R457, R459). -/
def doneAdds (v : CollCall) : Nat :=
  let w := wordAt v.words 4
  if !(bitOf w 28) then 0 else if bitOf w 27 then outChunks v - v.doneChunks else 1

/-- The drops that the record of a lost all-to-all or return shows: as computed, else free (R483). -/
def lostDrops (v : CollCall) (s : State) : CollDrops :=
  if !(isRows (callOp v)) || !v.drops.table.isEmpty then v.drops
  else
    let word (i : Nat) : Nat := leNat ((upFrom (s.draws + 4 * i) 4).map Config.freeByte)
    { own := word 0, here := word 1, received := word 2, padding := word 3,
      table := (upFrom 4 (callSize v)).map word }

/-- What a call leaves undefined at its end: everything it puts out on a survivor of a lost member (R480, R483), and the rows
of an output that overlaps its input (R458). -/
def leaveOutputs (k : Nat) (v : CollCall) (isLost : Bool) (s : State) : CollCall × State :=
  if isLost then
    let t := openOutputs k v s
    ({ v with drops := lostDrops v t }, { t with draws := t.draws + 16 + 4 * callSize v })
  else (v, if isRows (callOp v) && outputsOpen v then openOutputs k v s else s)

/-- A call leaves: its record, its done tally, its slots, the counters of its claim. -/
def finishCall (k c n : Nat) (v0 : CollCall) (lost : Option (Nat × Bool)) (s0 : State) : State :=
  let x := leaveOutputs k v0 lost.isSome s0
  let v := x.1
  let s := x.2
  let s1 := setCalls (freeSlots v (dropCallWaits v s)) c (dropAt (callsAt s c) n)
  let s2 := modClaim s1 k fun q => { q with
    collCalls := wrapAdd 32 q.collCalls 1
    collLost := if lost.isSome then satAdd 0xFFFF q.collLost 1 else q.collLost }
  let s3 := modCollMover v.mover (fun m => { m with state := 0 }) s2
  let s4 := writeStream [(wordAt v.words 5, 64 + 4 * v.drops.table.length)] (collRecord v lost) s3
  if doneAdds v = 0 then s4 else tallyAdd s4 (callField v 4 45 29) (BitVec.ofNat 32 (doneAdds v))

/-- COLLECTIVE_COMPLETE: the call goes on as far as it can, and completes once every output has been performed. -/
def collComplete (c n : Nat) (s : State) : State :=
  match coreOwner s c with
  | none => s
  | some k =>
    let s1 := serveCall k c n s
    match (callsAt s1 c)[n]? with
    | none => s1
    | some v =>
      if !(taskLive s1 k) || !(callFinished v) || callBehind s1 k v ||
          collGate s1 k (wordAt v.words 5) (recordBytes v) false = .wait then s1
      else serveNets (finishCall k c n v none s1)

def execCollectiveComplete (c : CoreId) (n : Nat) (s : State) : Host.Outcome State Fault Refusal :=
  .next (collComplete c n s)

/-- Every call of a core completes with MEMBER_LOST (R480): `m` is how many there are. -/
def loseCallsOf (k c : Nat) (lost : Nat × Bool) : Nat → State → State
  | 0, s => s
  | m + 1, s => match callsAt s c with
    | v :: _ => loseCallsOf k c lost m (finishCall k c 0 v (some lost) s)
    | [] => s

/-- Every call of a claim completes with MEMBER_LOST. -/
def loseCalls (k : Nat) (lost : Nat × Bool) (s : State) : State :=
  (coresOf (claimAt s k).quads).foldl (fun t c => loseCallsOf k c lost (callsAt t c).length t) s

end Sys2Proof.Machine
end

