-- ==== Sys2Proof/Machine/HaulOps.lean ====
section
/-! DEFINITION. The haul engine: frames and their layout, receivers, queue pairs, packets, records (13 R486 to R512). -/

namespace Sys2Proof.Machine

/-! ### Descriptor fields (R500, R514) -/

def policyOf (v : HaulStream) : Nat := fieldOf v.w0 58 57
def recvCount (v : HaulStream) : Nat := fieldOf v.w0 56 54 + 1
def elemFormat (v : HaulStream) : Nat := fieldOf v.w0 53 50
def quantFormat (v : HaulStream) : Nat := fieldOf v.w0 49 46
def scaleForm (v : HaulStream) : Nat := fieldOf v.w0 45 44
def headMajor (v : HaulStream) : Bool := bitOf v.w0 43
def scaleSep (v : HaulStream) : Bool := bitOf v.w0 42
def layersOf (v : HaulStream) : Nat := fieldOf v.w0 40 34 + 1
def pageTokens (v : HaulStream) : Nat := 2 ^ fieldOf v.w0 33 30
def headsOf (v : HaulStream) : Nat := fieldOf v.w0 29 24 + 1
def dimOf (v : HaulStream) : Nat := 64 * 2 ^ fieldOf v.w0 23 22
def frameCount (v : HaulStream) : Nat := fieldOf v.w2 63 48
def tokensOf (v : HaulStream) : Nat := fieldOf v.w3 63 32
def pagesOf (v : HaulStream) : Nat := fieldOf v.w3 31 0
def quotaOf (v : HaulStream) : Nat := fieldOf v.w6 63 32 * 1000000

/-- Scale bytes of a group (R495). -/
def groupScale (v : HaulStream) : Nat :=
  match scaleForm v with
  | 1 => dimOf v / 32
  | 2 => 4
  | _ => 0

/-- Element and scale regions of a frame, and the bytes of its buffer (R489, R497). -/
def elemRegion (v : HaulStream) : Nat := 2 * headsOf v * pageTokens v * (dimOf v * fmtBits (elemFormat v) / 8)
def scaleRegion (v : HaulStream) : Nat := 2 * headsOf v * pageTokens v * groupScale v
def frameBytes (v : HaulStream) : Nat := (elemRegion v + scaleRegion v + 127) / 128 * 128

/-- Tokens of page `p` that exist (R487). -/
def pageRows (v : HaulStream) (p : Nat) : Nat := min (pageTokens v) (tokensOf v - p * pageTokens v)

/-- Pieces that make a frame complete (R490). -/
def framePieces (v : HaulStream) (p : Nat) : Nat := pageRows v p * (2 * headsOf v * dimOf v / 64)

/-- The group index of (kind, head, token of the page) (R497). -/
def groupIndex (v : HaulStream) (kind h u : Nat) : Nat :=
  if headMajor v then (kind * headsOf v + h) * pageTokens v + u else (2 * u + kind) * headsOf v + h

/-- The gallery offset of frame buffer `f` (R489). -/
def bufferAt (v : HaulStream) (f : Nat) : Nat := (placeOf v.w1).off + f * frameBytes v

def setStream (s : State) (n : Nat) (v : HaulStream) : State :=
  { s with haul := { s.haul with streams := tput {} s.haul.streams n v } }
def modStream (s : State) (n : Nat) (f : HaulStream → HaulStream) : State := setStream s n (f (streamAt s n))

def qpAt (s : State) (q : Nat) : QueuePair := tget {} s.haul.qps q
def setQp (s : State) (q : Nat) (v : QueuePair) : State := { s with haul := { s.haul with qps := tput {} s.haul.qps q v } }
def portAt (s : State) (e : Nat) : EthPort := tget {} s.haul.ports e
def modPort (s : State) (e : Nat) (f : EthPort → EthPort) : State :=
  { s with haul := { s.haul with ports := tmod {} s.haul.ports e f } }

/-- The claims that own a stream and a queue pair (R486). -/
def streamOwner (s : State) (n : Nat) : Option Nat := ownerBy s fun c => c.streamBase ≤ n && n < c.streamBase + c.streamCount
def qpOwner (s : State) (q : Nat) : Option Nat := ownerBy s fun c => c.qpBase ≤ q && q < c.qpBase + c.qpCount

def qpPort (v : QueuePair) : Nat := fieldOf v.w0 58 58
def qpMtu (v : QueuePair) : Nat := 1024 * 2 ^ min 2 (fieldOf v.w4 36 35)
def qpRetry (v : QueuePair) : Nat := fieldOf v.w4 42 40
def qpRnrRetry (v : QueuePair) : Nat := fieldOf v.w4 39 37
def qpWindow (v : QueuePair) : Nat := 65536 * fieldOf v.w5 63 48

/-- Bytes outstanding on a queue pair (R505). -/
def qpOut (v : QueuePair) : Nat := v.sent.foldl (fun n p => n + p.pkt.data.length) 0

/-- The number of a claim's current task (R488). -/
def taskNo (s : State) (k : Nat) : Nat := (claimAt s k).begun

/-! ### Sending packets (R499, R501) -/

/-- Wire bytes of a packet beside its data: preamble, Ethernet, VLAN, IP, UDP, BTH, ICRC, FCS and gap, the RETH of a first
packet and an immediate (*Frame and wire arithmetic*). -/
def packetOver (v : QueuePair) (p : HaulPkt) : Nat :=
  8 + 14 + (if bitOf v.w1 12 then 4 else 0) + (if bitOf v.w0 57 then 40 else 20) + 8 + 12 + 4 + 4 + 12 +
    (if p.opcode = 6 || p.opcode = 10 || p.opcode = 11 then 16 else 0) + (if p.imm.isSome then 4 else 0)

/-- A packet put on a queue pair's port with the next PSN. -/
def sendPacket (q : Nat) (p : SentPkt) (s : State) : State :=
  let v := qpAt s q
  let x := { p with pkt := { p.pkt with psn := v.psn } }
  let s1 := setQp s q { v with psn := (v.psn + 1) % 2 ^ 24, sent := v.sent ++ [x] }
  let s2 := modPort s1 (qpPort v) fun e => { e with bytes := wrapAdd 64 e.bytes (packetOver v x.pkt + x.pkt.data.length) }
  { s2 with haul := { s2.haul with wire := (q, x.pkt) :: s2.haul.wire } }

/-- The packets of one message: First, Middle and Last, or Only; the immediate goes with the last (R499, R501). -/
def messagePackets (mtu : Nat) (va : W64) (rkey : Nat) (data : List Byte) (imm : Option W32) : List HaulPkt :=
  let n := max 1 ((data.length + mtu - 1) / mtu)
  (upFrom 0 n).map fun i =>
    let last := i + 1 = n
    { opcode := if n = 1 then (if imm.isSome then 11 else 10) else if i = 0 then 6
        else if last then (if imm.isSome then 9 else 8) else 7
      va := va, rkey := rkey, data := (data.drop (i * mtu)).take mtu, imm := if last then imm else none }

/-- Immediate data (R501). -/
def pageImm (layer page : Nat) : W32 := BitVec.ofNat 32 (layer * 2 ^ 23 + page % 2 ^ 23)
def countImm (kind count : Nat) : W32 := BitVec.ofNat 32 (kind * 2 ^ 30 + count % 2 ^ 30)

/-- The receiver's virtual address of a page (R498). -/
def pageAddr (s : State) (r : HaulRecv) (p : Nat) : W64 :=
  BitVec.ofNat 64 (leNat (galBytes s ((placeOf r.pageTable).off + 8 * (p - r.pageFirst)) 8))

/-- The packets of a frame for a receiver, from the bytes of its element and scale regions (R498, R501). -/
def framePackets (s : State) (v : HaulStream) (r : HaulRecv) (layer page mtu : Nat) (data : List Byte) : List HaulPkt :=
  let e := elemRegion v
  let a := pageAddr s r page
  let base := a + BitVec.ofNat 64 (layer * r.layerStride)
  let imm := some (pageImm layer page)
  if scaleSep v then
    messagePackets mtu base r.rkey (data.take e) none ++
      messagePackets mtu (a + BitVec.ofNat 64 (r.scaleOffset + layer * r.scaleStride)) r.rkey
        ((data.drop e).take (scaleRegion v)) imm
  else messagePackets mtu base r.rkey (data.take (e + scaleRegion v)) imm

/-- The module queue pair of a receiver. -/
def recvQp (s : State) (k : Nat) (r : HaulRecv) : Nat := (claimAt s k).qpBase + r.qp

/-- Whether a queue pair may put packets on its port: ready, out of its RNR wait, the port up and not paused (R499, R502, R513). -/
def qpSends (s : State) (q : Nat) : Bool :=
  let v := qpAt s q
  let e := portAt s (qpPort v)
  v.state = 1 && !v.rnrWait && e.up && !(e.paused && fieldOf v.w0 56 54 = e.pfc)

/-- An immediate of kind 1 to 3 for a receiver, unless its queue pair is in state 2 (R506, R508, R510): it goes out when the
queue pair can send. -/
def sendImm (k : Nat) (r : HaulRecv) (kind count : Nat) (s : State) : State :=
  let q := recvQp s k r
  let p : SentPkt := { pkt := { opcode := 11, va := 0, rkey := r.rkey, data := [], imm := some (countImm kind count) } }
  if (qpAt s q).state ≠ 1 then s
  else if qpSends s q && (qpAt s q).waiting.isEmpty then sendPacket q p s
  else setQp s q { qpAt s q with waiting := (qpAt s q).waiting ++ [p] }

/-! ### Receivers -/

def recvAt (v : HaulStream) (r : Nat) : HaulRecv := v.recvs.getD r {}
def setRecv (s : State) (n r : Nat) (x : HaulRecv) : State := modStream s n fun v => { v with recvs := setAt v.recvs r x }

/-- Receiver `r` is through with a buffer; a buffer that every receiver is through with is free (R489). -/
def releaseBuf (n f r : Nat) (s : State) : State :=
  modStream s n fun v => match tget none v.buffers f with
    | some b =>
      let rel := setWith b.released r
      let y := if b.complete && setCount (recvCount v) rel = recvCount v then none else some { b with released := rel }
      { v with buffers := tput none v.buffers f y }
    | none => v

/-- The bound buffer of a frame. -/
def bufferOf (v : HaulStream) (layer page : Nat) : Option Nat :=
  firstSome (fun e => match e.2 with
    | some b => if b.layer = layer && b.page = page then some e.1 else none
    | none => none) v.buffers

/-- Positions of a receiver's fully acknowledged tokens (R512). -/
def ackedTokens (v : HaulStream) (x : HaulRecv) : Nat :=
  let pages := x.acked.foldl (fun a p => if a.contains p.2 then a else a ++ [p.2]) ([] : List Nat)
  pages.foldl (fun n p => n + (if (x.acked.filter fun q => q.2 = p).length = layersOf v then pageRows v p else 0)) 0

/-- The record of a receiver (R512). -/
def recordWords (s : State) (k n r status : Nat) : List W64 :=
  let v := streamAt s n
  let x := recvAt v r
  let q := qpAt s (recvQp s k x)
  let pages := x.acked.length
  [placed status 56 ||| placed (policyOf v) 53 ||| placed r 50 ||| placed (n - (claimAt s k).streamBase) 38,
   placed pages 32 ||| placed (ackedTokens v x) 0,
   placed x.spilledCount 32 ||| placed (x.spillPeak / 1000000) 0,
   placed (if x.shed then x.shedPage else pages) 32 ||| placed x.shedCause 16,
   placed q.retransmits 32 ||| placed q.cnps 0, 0, 0, 0]

/-- Firmware writes a receiver's record, in the gallery or in host space (R512, R521). -/
def writeRecord (k n r status : Nat) (s : State) : State :=
  let v := streamAt s n
  let a := placeOf v.w7
  let data := bytesOf (recordWords s k n r status)
  if a.space = 1 then writeGal s (a.off + 64 * r) data
  else if (claimAt s k).group && s.group.hostLost then
    { s with group := { s.group with heldRecords := s.group.heldRecords ++ [(k, a.off + 64 * r, recordWords s k n r status)] } }
  else if hostIsAway s k then
    { s with group := { s.group with
        forwards := (s.group.hostRank, .hostWrite (Fin.ofNat 8 k) (a.off + 64 * r) data) :: s.group.forwards } }
  else match hostFn s k with
    | some f => writeHost s f (a.off + 64 * r) data
    | none => s

/-- The stream's state becomes 2 when it is done for every receiver (R508). -/
def streamDone (n : Nat) (s : State) : State :=
  modStream s n fun v => if v.recvs.all fun r => r.finished then { v with state := 2 } else v

/-- The stream is done for a receiver: its record is written. -/
def recvDone (k n r status : Nat) (s : State) : State :=
  let s1 := writeRecord k n r status s
  streamDone n (setRecv s1 n r { recvAt (streamAt s1 n) r with finished := true })

/-- What a queue pair still had to send for a receiver is abandoned. -/
def abandon (q : Nat) (s : State) : State :=
  setQp s q { qpAt s q with sent := [], waiting := [], resendDue := false, tries := 0, rnrTries := 0, rnrWait := false }

/-! ### Haul movers (R373, R505) -/

/-- The haul movers without the copies that `gone` names. -/
def dropCopies (gone : SpillCopy → Bool) (s : State) : State :=
  let ms := (upFrom 0 8).foldl (fun m i => tmod [] m i fun xs => xs.filter fun x => !(gone x)) s.haul.movers
  { s with haul := { s.haul with movers := ms } }

/-- A copy goes to the lowest-numbered mover with room; with none it waits. -/
def startCopy (x : SpillCopy) (s : State) : State :=
  let ms := s.haul.movers
  if ms.any fun m => m.2.contains x then s
  else match (upFrom 0 8).find? fun i => (tget [] ms i).length < 16 with
    | some i => { s with haul := { s.haul with movers := tput [] ms i (tget [] ms i ++ [x]) } }
    | none => s

/-- Every copy that waits goes to a mover while one has room, in ascending stream and receiver (R513). -/
def startCopies (s : State) : State :=
  s.haul.streams.foldl (fun t e => (upFrom 0 e.2.recvs.length).foldl (fun u r =>
    (e.2.recvs.getD r {}).toSpill.foldl (fun w f => startCopy ⟨e.1, r, f⟩ w) u) t) s

/-- A receiver is shed (R506): outstanding frames are abandoned, its spill region emptied, one immediate of kind 3 sent. -/
def shedRecv (k n r cause : Nat) (s : State) : State :=
  let v := streamAt s n
  let x := recvAt v r
  if x.shed || x.finished then s
  else
    let s1 := abandon (recvQp s k x) s
    let y := { x with shed := true, shedCause := cause, shedPage := x.acked.length, queue := [], toSpill := [], spill := []
                      spillSent := 0, progress := 0 }
    let s2 := setRecv s1 n r y
    let s3 := v.buffers.foldl (fun t e => releaseBuf n e.1 r t) (dropCopies (fun c => c.stream = n && c.recv = r) s2)
    recvDone k n r 1 (sendImm k y 3 y.acked.length s3)

/-! ### Frames that become complete (R489, R498, R505) -/

/-- A complete frame is queued for a receiver: behind the frames that wait, or for its spill region while that is in use. -/
def queueFrame (f : Nat) (spill : Bool) (x : HaulRecv) : HaulRecv :=
  if x.shed then x
  else if spill && (!x.spill.isEmpty || !x.toSpill.isEmpty) then { x with toSpill := x.toSpill ++ [f] }
  else { x with queue := x.queue ++ [f] }

/-- Whether every receiver's page table covers a page (R498). -/
def pageCovered (v : HaulStream) (p : Nat) : Bool :=
  v.recvs.all fun r => r.pageFirst ≤ p && p < r.pageFirst + r.pageCount

/-- The last piece of a frame is written. -/
def frameComplete (k n f : Nat) (b : FrameBuf) (s : State) : State :=
  let v := streamAt s n
  if !(pageCovered v b.page) then haulDesc k 6 (n - (claimAt s k).streamBase) s
  else
    let gone := (upFrom 0 v.recvs.length).foldl (fun x r => if (recvAt v r).shed then setWith x r else x) 0
    let all := setCount (recvCount v) gone = recvCount v
    startCopies (setStream s n { v with
      buffers := tput none v.buffers f (if all then none else some { b with complete := true, released := gone })
      completed := v.completed + 1
      recvs := v.recvs.map (queueFrame f (policyOf v = 2)) })

/-! ### Hands (R488 to R493) -/

/-- The lowest-numbered free buffer of a stream (R489). -/
def freeBuffer (v : HaulStream) : Option Nat :=
  firstSome (fun f => if (tget none v.buffers f).isNone then some f else none) (upFrom 0 (frameCount v))

/-- The elements and scales of a piece as the gallery stores them, and what a bank-side quantise records (R493, R697). -/
def pieceData (v : HaulStream) (p : HandPiece) : List Byte × List Byte × ConvFlags :=
  if quantFormat v = 0 then (p.data, p.scales, {}) else quantRow (p.format = 1) p.data (quantFormat v) p.sat

/-- The bytes that a piece puts in its frame: (offset in the buffer, bytes), elements then scales (R493, R497). -/
def pieceWrites (v : HaulStream) (p : HandPiece) : List (Nat × List Byte) :=
  let d := dimOf v
  let h := 64 * p.block / d
  let c0 := 64 * p.block % d
  let j := groupIndex v (b2n p.isV) h (p.token % pageTokens v)
  let q := pieceData v p
  let e := (j * d + c0) * fmtBits (elemFormat v) / 8
  let sc := elemRegion v + j * groupScale v + (if scaleForm v = 1 then c0 / 32 else 0)
  (e, q.1) :: (if scaleForm v = 0 then [] else [(sc, q.2.1)])

/-- Gallery writes of a piece, each through the gate of the claim's gallery. -/
def pieceGate (s : State) (k o : Nat) (ws : List (Nat × List Byte)) : Gate :=
  gates (fun a n => galGate s (some k) (o + a) n false) (ws.map fun w => (w.1, w.2.length))

/-- Bytes with bits changed on their way. -/
def flipped (flips : List (Nat × Byte)) (bs : List Byte) : List Byte :=
  flips.foldl (fun r x => setAt r x.1 (r.getD x.1 0 ^^^ x.2)) bs

/-- A piece as it reaches the gallery bank (R641). -/
def arrivedPiece (flips : List (Nat × Byte)) (p : HandPiece) : HandPiece :=
  let r := flipped flips (p.data ++ p.scales)
  { p with data := r.take p.data.length, scales := r.drop p.data.length }

/-- A piece goes into its buffer; none when it must wait. The bank checks the CRC-32C that the dressing unit sent with it
(R641). -/
def putPiece (c : CoreId) (k n f : Nat) (flips : List (Nat × Byte)) (b : FrameBuf) (p : HandPiece) (s : State) : Option State :=
  let v := streamAt s n
  let o := bufferAt v f
  let p1 := arrivedPiece flips p
  let ws := pieceWrites v p1
  match pieceGate s k o ws with
  | .wait => none
  | .err i => some (raise (.netPort c) i s)
  | .go =>
    if crc32c (flipped flips (p.data ++ p.scales)) ≠ crc32c (p.data ++ p.scales) then some (raise (.netPort c) { name := .tileCrc, reason := 5, address := galPlace o } s)
    else
      let s1 := noteConv c (pieceData v p1).2.2 (ws.foldl (fun t w => writeGal t (o + w.1) w.2) s)
      let b1 := { b with pieces := b.pieces + 1 }
      let s2 := modStream s1 n fun x => { x with buffers := tput none x.buffers f (some b1) }
      some (if b1.pieces = framePieces v b.page then frameComplete k n f b1 s2 else s2)

/-- A piece of a stream that may be handed to: it finds its frame's buffer, binds the lowest free one, or waits. -/
def bindPiece (c : CoreId) (k n : Nat) (flips : List (Nat × Byte)) (p : HandPiece) (s : State) : Option State :=
  let v := streamAt s n
  let page := p.token / pageTokens v
  match bufferOf v p.layer page with
  | some f => match tget none v.buffers f with
    | some b => putPiece c k n f flips b p s
    | none => none
  | none => match freeBuffer v with
    | none => none
    | some f =>
      let b : FrameBuf := { layer := p.layer, page := page }
      let o := bufferAt v f
      match galGate s (some k) o (frameBytes v) false with
      | .wait => none
      | .err i => some (raise (.netPort c) i s)
      | .go =>
        putPiece c k n f flips b p
          (zeroGal (setStream s n { v with buffers := tput none v.buffers f (some b) }) o (frameBytes v))

/-- The HAUL_DESC of a hand (R486, R488, R492), if any. -/
def handReason (s : State) (k : Nat) (p : HandPiece) : Option Nat :=
  match streamNo s k p.stream with
  | none => some 1
  | some n =>
    let v := streamAt s n
    if v.state ≠ 1 then some 2
    else if v.task.any (fun t => t ≠ taskNo s k) then some 3
    else if headsOf v * dimOf v ≤ 64 * p.block || layersOf v ≤ p.layer then some 5
    else none

/-- HAUL_HAND: the next piece that the core's dressing unit has handed (R492, R494). -/
def haulHand (c : CoreId) (flips : List (Nat × Byte)) (s : State) : State :=
  match coreOwner s c, (coreAt s c).drs.hands with
  | some k, p :: rest =>
    if !(taskLive s k) then s
    else
      let taken (t : State) : State := modDrs t c fun d => { d with hands := rest }
      match handReason s k p, streamNo s k p.stream with
      | some n, _ => haulDesc k n p.stream (taken s)
      | none, some n =>
        let s1 := modStream s n fun v => { v with task := some (taskNo s k) }
        if tokensOf (streamAt s n) ≤ p.token then taken s1
        else match bindPiece c k n flips p s1 with
          | some t => taken t
          | none => s
      | none, none => s
  | _, _ => s

/-! ### Opening a stream (R504, R514) -/

/-- A receiver descriptor (R504). -/
def recvOf (w : List W64) : HaulRecv :=
  { qp := fieldOf (wordAt w 0) 63 52, rkey := fieldOf (wordAt w 0) 31 0, pageTable := wordAt w 1
    layerStride := (wordAt w 2).toNat, scaleOffset := fieldOf (wordAt w 3) 63 32, scaleStride := fieldOf (wordAt w 3) 31 0
    pageFirst := fieldOf (wordAt w 4) 63 32, pageCount := fieldOf (wordAt w 4) 31 0 }

def recvRsv (w : List W64) : Bool :=
  fieldOf (wordAt w 0) 51 32 ≠ 0 || wordAt w 5 ≠ 0 || wordAt w 6 ≠ 0 || wordAt w 7 ≠ 0

/-- The words of receiver `r`'s descriptor. -/
def recvWords (s : State) (v : HaulStream) (r : Nat) : List W64 :=
  wordsOf 8 (galBytes s ((placeOf v.w4).off + 64 * r) 64)

/-- Whether the element format belongs to the scale form (R495), and the quantise format is none or that format, a target
that R137 marks. -/
def formatFits (v : HaulStream) : Bool :=
  let e := elemFormat v
  (match scaleForm v with
   | 0 => 1 ≤ e && e ≤ 4
   | 1 => (7 ≤ e && e ≤ 11) || e = 13
   | 2 => e = 3 || e = 4
   | _ => false) &&
  (quantFormat v = 0 || (quantTarget (quantFormat v) && quantFormat v = e))

/-- Whether a range of the gallery, or of DRAM, is the claim's (reason 9). -/
def ownsGal (s : State) (k : Nat) (w : W64) (n : Nat) : Bool :=
  let p := placeOf w
  p.space = 1 && p.sel = 0 && p.off + n ≤ galSize && (unitsIn galBankSize p.off n).all fun b => bankOwner s b = some k
def ownsDram (s : State) (k : Nat) (w : W64) (n : Nat) : Bool :=
  let p := placeOf w
  p.space = 2 && p.sel = 0 && p.off + n ≤ dramSize && (unitsIn regionSize p.off n).all fun r => regionOwner s r = some k

/-- Whether another receiver of an open stream uses a queue pair (R504). -/
def qpTaken (s : State) (q : Nat) : Bool :=
  s.haul.streams.any fun e => e.2.state = 1 && (match streamOwner s e.1 with
    | some k => e.2.recvs.any fun r => recvQp s k r = q
    | none => false)

/-- The reason of HAUL_DESC for which an open fails (R487, R495, R497, R504, R514), if any. -/
def openReason (s : State) (k : Nat) (v : HaulStream) : Option Nat :=
  let n := recvCount v
  if fieldOf v.w0 23 22 = 3 || fieldOf v.w0 33 30 < 4 || 10 < fieldOf v.w0 33 30 || frameCount v = 0 ||
      4096 < frameCount v || policyOf v = 3 then some 1
  else if !(formatFits v) then some 4
  else if !(ownsGal s k v.w4 (64 * n)) then some 9
  else
    let ws := (upFrom 0 n).map (recvWords s v)
    let rs := ws.map recvOf
    let qs := rs.map fun r => r.qp
    if rs.any fun r => (claimAt s k).qpCount ≤ r.qp then some 1
    else if ws.any recvRsv || (upFrom 0 n).any (fun i => (qs.take i).contains (qs.getD i 0)) ||
        rs.any (fun r => qpTaken s (recvQp s k r)) then some 8
    else if !(ownsGal s k v.w1 (frameCount v * frameBytes v)) || rs.any (fun r => !(ownsGal s k r.pageTable (8 * r.pageCount)))
        || (policyOf v = 2 && !(ownsDram s k v.w5 (n * quotaOf v)))
        || !(ownsGal s k v.w7 (64 * n) || ((placeOf v.w7).space = 3 && (placeOf v.w7).sel = 0)) then some 9
    else none

/-- The fields of word 0 that a function writes (R514). -/
def streamWord0 (w : W64) : W64 := w &&& 0x07FFFDFFFFC00000

/-- A write that a stream or queue pair does not take in its state: recorded only (R500, R513, R514). -/
def haulIgnored (k stream qp : Nat) (s : State) : State := recordHaul 1 7 k stream qp s

/-- STREAM_OPEN: word 0 is written with state 1. -/
def streamOpen (f : FnId) (n : HaulId) (word0 : W64) (s : State) : State :=
  match streamOwner s n with
  | none => denied f (streamReg n 0) s
  | some k =>
    if !(actsFor s f k) then denied f (streamReg n 0) s
    else
      let v := { streamAt s n with w0 := streamWord0 word0 }
      let rel := n.val - (claimAt s k).streamBase
      if (streamAt s n).state ≠ 0 then haulIgnored k rel 0 s
      else match openReason s k v with
        | some r => recordHaul 1 r k rel 0 (setStream s n v)
        | none =>
          setStream s n { v with state := 1, task := none, buffers := [], completed := 0
                                 recvs := (upFrom 0 (recvCount v)).map fun r => recvOf (recvWords s v r) }

def execStreamOpen (f : FnId) (n : HaulId) (word0 : W64) (s : State) : Host.Outcome State Fault Refusal :=
  .next (streamOpen f n word0 s)

/-- STREAM_CLOSE: state 0 is written; it closes a done stream (R514). -/
def streamClose (f : FnId) (n : HaulId) (s : State) : State :=
  match streamOwner s n with
  | none => denied f (streamReg n 0) s
  | some k =>
    if !(actsFor s f k) then denied f (streamReg n 0) s
    else
      let v := streamAt s n
      if v.state = 1 then haulIgnored k (n.val - (claimAt s k).streamBase) 0 s
      else setStream s n { v with state := 0, task := none, buffers := [], completed := 0, recvs := [] }

def execStreamClose (f : FnId) (n : HaulId) (s : State) : Host.Outcome State Fault Refusal := .next (streamClose f n s)

def execHaulHand (c : CoreId) (flips : List (Nat × Byte)) (s : State) : Host.Outcome State Fault Refusal := .next (haulHand c flips s)

end Sys2Proof.Machine
end

