-- ==== Sys2Proof/Machine/Haul.lean ====
section
/-! DEFINITION. Events of the haul engine: sending, acknowledgements, the rate limiter, slow receivers, ports, and the end
of a stream with its task (13 R499 to R510). -/

namespace Sys2Proof.Machine

/-! ### Frames on the wire -/

/-- Packets of a frame from number `i` on, while the window has room (R505); how many went out. -/
def sendWhile (q : Nat) (layer page : Nat) (spill : Bool) : List HaulPkt → State → State × Nat
  | [], s => (s, 0)
  | p :: ps, s =>
    if qpOut (qpAt s q) + p.data.length ≤ qpWindow (qpAt s q) then
      let r := sendWhile q layer page spill ps
        (sendPacket q { pkt := p, layer := layer, page := page, fromSpill := spill, lastOfFrame := ps.isEmpty } s)
      (r.1, r.2 + 1)
    else (s, 0)

/-- The DRAM offset of a slot of a receiver's spill region (R505). -/
def spillAt (v : HaulStream) (r slot : Nat) : Nat := (placeOf v.w5).off + r * quotaOf v + slot * frameBytes v

/-- A frame goes on to a receiver from its bytes. -/
def sendFrame (k n r layer page : Nat) (spill : Bool) (data : List Byte) (s : State) : State :=
  let v := streamAt s n
  let x := recvAt v r
  let q := recvQp s k x
  let ps := framePackets s v x layer page (qpMtu (qpAt s q)) data
  let t := sendWhile q layer page spill (ps.drop x.progress) s
  let sent := x.progress + t.2
  setRecv t.1 n r (if sent < ps.length then { x with progress := sent }
    else if spill then { x with progress := 0, spillSent := x.spillSent + 1 }
    else { x with progress := 0, queue := x.queue.drop 1 })

/-- The gate of a frame's page-table entry (R498). -/
def tableGate (s : State) (k : Nat) (x : HaulRecv) (page : Nat) : Gate :=
  galGate s (some k) ((placeOf x.pageTable).off + 8 * (page - x.pageFirst)) 8 true

/-- FRAME_SEND: the oldest frame that waits for receiver `r` goes out, as far as the window allows (R501, R505). -/
def frameSend (n : HaulId) (r : Nat) (s : State) : State :=
  let v := streamAt s n
  let x := recvAt v r
  match streamOwner s n with
  | none => s
  | some k =>
    if v.state ≠ 1 || v.recvs.length ≤ r || x.shed || x.finished || !(qpSends s (recvQp s k x)) ||
        !(qpAt s (recvQp s k x)).waiting.isEmpty then s
    else match x.queue, x.spill[x.spillSent]? with
      | f :: _, _ => match tget none v.buffers f with
        | some b => match (tableGate s k x b.page).and (galGate s (some k) (bufferAt v f) (frameBytes v) true) with
          | .go => sendFrame k n r b.layer b.page false (galBytes s (bufferAt v f) (frameBytes v)) s
          | .wait => s
          | .err i => raiseFor k .haul i s
        | none => s
      | [], some y => match (tableGate s k x y.page).and (dramGate s (some k) (spillAt v r y.slot) (frameBytes v) true) with
        | .go => sendFrame k n r y.layer y.page true (dramBytes s (spillAt v r y.slot) (frameBytes v)) s
        | .wait => s
        | .err i => raiseFor k .haul i s
      | [], none => s

def execFrameSend (n : HaulId) (r : Fin 8) (s : State) : Host.Outcome State Fault Refusal := .next (frameSend n r s)

/-! ### Acknowledgements (R502, R508) -/

/-- The stream and receiver that a queue pair serves, among the open streams (R504). -/
def recvOfQp (s : State) (q : Nat) : Option (Nat × Nat × Nat) :=
  firstSome (fun e => if e.2.state ≠ 1 then none else match streamOwner s e.1 with
    | some k => firstSome (fun r =>
        if recvQp s k (recvAt e.2 r) = q && !(recvAt e.2 r).finished then some (k, e.1, r) else none)
        (upFrom 0 e.2.recvs.length)
    | none => none) s.haul.streams

/-- A spilled frame is taken out of the spill region (R505). -/
def unspill (layer page : Nat) : List Spilled → List Spilled
  | [] => []
  | y :: ys => if y.layer = layer && y.page = page then ys else y :: unspill layer page ys

/-- A receiver has acknowledged a frame: its buffer or its spill slot is released (R489, R505). -/
def ackFrame (n r : Nat) (p : SentPkt) (s : State) : State :=
  let v := streamAt s n
  let x := recvAt v r
  let y := { x with acked := x.acked ++ [(p.layer, p.page)] }
  if p.fromSpill then setRecv s n r { y with spill := unspill p.layer p.page x.spill, spillSent := x.spillSent - 1 }
  else
    let s1 := setRecv s n r y
    match bufferOf v p.layer p.page with
    | some f => releaseBuf n f r s1
    | none => s1

/-- The stream is done for a receiver when every frame of its layers and pages is acknowledged (R508). -/
def maybeDone (k n r : Nat) (s : State) : State :=
  let v := streamAt s n
  let x := recvAt v r
  if !x.finished && x.acked.length = layersOf v * pagesOf v then
    recvDone k n r 0 (sendImm k x 1 x.acked.length s)
  else s

/-- ACKNOWLEDGE: every packet up to a PSN is acknowledged. -/
def acknowledge (q : HaulId) (psn : Nat) (s : State) : State :=
  let v := qpAt s q
  match v.sent.findIdx? fun p => p.pkt.psn = psn with
  | none => s
  | some i =>
    let got := v.sent.take (i + 1)
    let s1 := setQp s q { v with sent := v.sent.drop (i + 1), tries := 0, rnrTries := 0 }
    match recvOfQp s q with
    | some (k, n, r) => maybeDone k n r ((got.filter fun p => p.lastOfFrame).foldl (fun t p => ackFrame n r p t) s1)
    | none => s1

def execAcknowledge (q : HaulId) (psn : BitVec 24) (s : State) : Host.Outcome State Fault Refusal :=
  .next (acknowledge q psn.toNat s)

/-- Whether the stream's own task is the claim's running one (R488). -/
def handsNow (s : State) (k n : Nat) : Bool := (claimAt s k).task.isSome && (streamAt s n).task = some (taskNo s k)

/-- A queue pair enters state 2 (R502, R506); the task that hands to its stream aborts under STALL. -/
def qpError (q : Nat) (s : State) : State :=
  let s1 := setQp s q { qpAt s q with state := 2 }
  match recvOfQp s q with
  | some (k, n, r) =>
    let v := streamAt s n
    if policyOf v ≠ 0 then shedRecv k n r 3 s1
    else
      let s2 := abandon q (setRecv s1 n r { recvAt v r with qpError := true })
      let s3 := recordHaul 2 0 k (n - (claimAt s k).streamBase) (q - (claimAt s k).qpBase) s2
      if handsNow s k n then raiseFor k .haul { name := .haulQpErr } s3 else s3
  | none => abandon q s1

/-- The packets of a queue pair that are not acknowledged go out again, from the oldest (R502). -/
def putAgain (q : Nat) (s : State) : State :=
  let v := qpAt s q
  let n := v.sent.length
  let bytes := v.sent.foldl (fun a p => a + packetOver v p.pkt + p.pkt.data.length) 0
  let s1 := setQp s q { v with retransmits := wrapAdd 32 v.retransmits n, resendDue := false }
  let s2 := modPort s1 (qpPort v) fun e => { e with bytes := wrapAdd 64 e.bytes bytes }
  { s2 with haul := { s2.haul with wire := (v.sent.reverse.map fun p => (q, p.pkt)) ++ s2.haul.wire } }

/-- A queue pair resends (R502); while its port is down or paused, or it waits an RNR time, the resend waits. -/
def resend (q : Nat) (s : State) : State :=
  if qpSends s q then putAgain q s else setQp s q { qpAt s q with resendDue := true }

/-- What waited for a queue pair's port or for its RNR time goes out. -/
def flushQp (q : Nat) (s : State) : State :=
  if !(qpSends s q) then s
  else
    let s1 := if (qpAt s q).resendDue then putAgain q s else s
    let ps := (qpAt s1 q).waiting
    ps.foldl (fun t p => sendPacket q p t) (setQp s1 q { qpAt s1 q with waiting := [] })

/-- The queue pairs of a port go on. -/
def flushPort (e : Nat) (s : State) : State :=
  s.haul.qps.foldl (fun t x => if qpPort x.2 = e then flushQp x.1 t else t) s

/-- A retry: state 2 when retry is exceeded, else a resend (R502). -/
def retryQp (q : Nat) (s : State) : State :=
  let v := qpAt s q
  if qpRetry v < v.tries + 1 then qpError q s else resend q (setQp s q { v with tries := v.tries + 1 })

/-- A NAK or an RNR NAK counts with the port (R515). -/
def countNak (q : Nat) (s : State) : State :=
  modPort s (qpPort (qpAt s q)) fun e => { e with naks := wrapAdd 32 e.naks 1 }

/-- NAK (R502). -/
def nakReceived (q : HaulId) (kind : NakKind) (s : State) : State :=
  let s1 := countNak q s
  if (qpAt s q).state ≠ 1 then s1
  else match kind with
    | .sequence => retryQp q s1
    | _ => qpError q s1

def execNak (q : HaulId) (kind : NakKind) (s : State) : Host.Outcome State Fault Refusal := .next (nakReceived q kind s)

/-- RNR_NAK (R502): 7 retries stand for unlimited. -/
def rnrNak (q : HaulId) (s : State) : State :=
  let v := qpAt s q
  let s1 := countNak q s
  if v.state ≠ 1 then s1
  else if qpRnrRetry v ≠ 7 && qpRnrRetry v < v.rnrTries + 1 then qpError q s1
  else setQp s1 q { v with rnrTries := v.rnrTries + 1, rnrWait := true }

def execRnrNak (q : HaulId) (s : State) : Host.Outcome State Fault Refusal := .next (rnrNak q s)

/-- RNR_WAIT_EXPIRY (R502). -/
def rnrWaitExpiry (q : HaulId) (s : State) : State :=
  let v := qpAt s q
  if v.state = 1 && v.rnrWait then flushQp q (setQp s q { v with rnrWait := false, resendDue := true }) else s

def execRnrWaitExpiry (q : HaulId) (s : State) : Host.Outcome State Fault Refusal := .next (rnrWaitExpiry q s)

/-- ACK_TIMEOUT (R502): a port that is down for longer than the timeout puts its queue pairs in state 2. -/
def ackTimeout (q : HaulId) (s : State) : State :=
  let v := qpAt s q
  if v.state ≠ 1 then s
  else if !(portAt s (qpPort v)).up then qpError q s
  else if v.sent.isEmpty then s
  else retryQp q s

def execAckTimeout (q : HaulId) (s : State) : Host.Outcome State Fault Refusal := .next (ackTimeout q s)

/-! ### The rate limiter (R503) -/

/-- Line rate, 50 GB/s, in units of 10 Mb/s. -/
def lineRate : Dyadic := ⟨40000, 0⟩
def subDyadic (a b : Dyadic) : Dyadic := addDyadic a ⟨-b.m, b.e⟩
def halfDyadic (a : Dyadic) : Dyadic := ⟨a.m, a.e - 1⟩
/-- (1 − g) × alpha. -/
def decayed (s : State) (alpha : Dyadic) : Dyadic := mulDyadic (subDyadic ⟨1, 0⟩ ⟨Int.ofNat s.haul.gain, -8⟩) alpha
def minDyadic (a b : Dyadic) : Dyadic := if (subDyadic a b).m ≤ 0 then a else b

/-- CNP: a cut when at least cut_gap has passed since the last one. -/
def cnpReceived (q : HaulId) (sinceCut : Nat) (s : State) : State :=
  let v := { qpAt s q with cnps := wrapAdd 32 (qpAt s q).cnps 1 }
  if v.state = 1 && s.haul.cutGap ≤ sinceCut then
    setQp s q { v with
      target := v.rate
      rate := mulDyadic v.rate (subDyadic ⟨1, 0⟩ (halfDyadic v.alpha))
      alpha := addDyadic (decayed s v.alpha) ⟨Int.ofNat s.haul.gain, -8⟩
      n := 0 }
  else setQp s q v

def execCnp (q : HaulId) (sinceCut : Nat) (s : State) : Host.Outcome State Fault Refusal := .next (cnpReceived q sinceCut s)

/-- RATE_INCREASE: an increase period without a cut. -/
def rateIncrease (q : HaulId) (s : State) : State :=
  let v := qpAt s q
  if v.state ≠ 1 then s
  else
    let n := v.n + 1
    let target := if 5 < n then minDyadic (addDyadic v.target ⟨Int.ofNat s.haul.aiStep, 0⟩) lineRate else v.target
    setQp s q { v with alpha := decayed s v.alpha, n := n, target := target
                       rate := halfDyadic (addDyadic v.rate target) }

def execRateIncrease (q : HaulId) (s : State) : Host.Outcome State Fault Refusal := .next (rateIncrease q s)

/-! ### Ports (R499, R515) -/

/-- INBOUND_PACKET_DROP (R499). -/
def execInboundPacketDrop (e : Fin 2) (s : State) : Host.Outcome State Fault Refusal :=
  .next (modPort s e fun p => { p with dropped := wrapAdd 32 p.dropped 1 })

/-- PFC_PAUSE: honoured for the port's PFC priority (R499). -/
def execPfcPause (e : Fin 2) (prio : Fin 8) (pause : Bool) (s : State) : Host.Outcome State Fault Refusal :=
  .next (flushPort e (modPort s e fun p => if p.pfc = prio.val then { p with paused := pause } else p))

/-- ETHERNET_PORT_DOWN: its queue pairs time out (R502, R513). -/
def execEthernetPortDown (e : Fin 2) (s : State) : Host.Outcome State Fault Refusal :=
  .next (modPort s e fun p => { p with up := false, paused := false })

/-- ETHERNET_PORT_UP (R515). -/
def execEthernetPortUp (e : Fin 2) (s : State) : Host.Outcome State Fault Refusal :=
  .next (flushPort e (modPort s e fun p => { p with up := true }))

/-! ### Queue pairs (R500) -/

/-- Whether the ranges of R500 and the supported MTUs hold. -/
def qpFits (v : QueuePair) : Bool :=
  1 ≤ fieldOf v.w4 47 43 && fieldOf v.w4 47 43 ≤ 20 && fieldOf v.w4 36 35 ≠ 3 && fieldOf v.w5 63 48 ≠ 0

/-- QP_READY: word 0 is written with state 1. -/
def qpReady (f : FnId) (q : HaulId) (word0 : W64) (s : State) : State :=
  match qpOwner s q with
  | none => denied f (qpReg q 0) s
  | some k =>
    let rel := q.val - (claimAt s k).qpBase
    if !(actsFor s f k) then denied f (qpReg q 0) s
    else
      let v := qpAt s q
      let u := { v with w0 := word0 &&& 0x07FFFFFFFF000000, psn := fieldOf word0 23 0 }
      if v.state ≠ 0 then haulIgnored k 0 rel s
      else if !(qpFits u) then recordHaul 1 1 k 0 rel (setQp s q u)
      else setQp s q { u with state := 1, sent := [], waiting := [], resendDue := false, tries := 0, rnrTries := 0, rnrWait := false
                              rate := lineRate, target := lineRate, alpha := ⟨1, 0⟩, n := 0 }

def execQpReady (f : FnId) (q : HaulId) (word0 : W64) (s : State) : Host.Outcome State Fault Refusal :=
  .next (qpReady f q word0 s)

/-- QP_RESET: state 0 is written, which only a queue pair in state 2 takes (R500, R502). -/
def qpReset (f : FnId) (q : HaulId) (s : State) : State :=
  match qpOwner s q with
  | none => denied f (qpReg q 0) s
  | some k =>
    if !(actsFor s f k) then denied f (qpReg q 0) s
    else
      let v := qpAt s q
      if v.state = 1 then haulIgnored k 0 (q.val - (claimAt s k).qpBase) s
      else abandon q (setQp s q { v with state := 0 })

def execQpReset (f : FnId) (q : HaulId) (s : State) : Host.Outcome State Fault Refusal := .next (qpReset f q s)

/-! ### Slow receivers (R505) -/

/-- SLOW_RECEIVER_DEADLINE: a complete frame has waited past the deadline for receiver `r`; a frame that has begun to go out
stays. -/
def slowReceiver (n : HaulId) (r : Nat) (s : State) : State :=
  let v := streamAt s n
  let x := recvAt v r
  match streamOwner s n with
  | none => s
  | some k =>
    if v.state ≠ 1 || v.recvs.length ≤ r || x.shed || x.finished || x.queue.isEmpty then s
    else match policyOf v with
      | 1 => shedRecv k n r 1 s
      | 2 =>
        let keep := if x.progress = 0 then 0 else 1
        startCopies (setRecv s n r { x with queue := x.queue.take keep, toSpill := x.toSpill ++ x.queue.drop keep })
      | _ => s

def execSlowReceiverDeadline (n : HaulId) (r : Fin 8) (s : State) : Host.Outcome State Fault Refusal :=
  .next (slowReceiver n r s)

/-- The lowest slot of a spill region that no frame takes, within the quota. -/
def freeSlot (v : HaulStream) (x : HaulRecv) : Option Nat :=
  firstSome (fun i => if x.spill.any fun y => y.slot = i then none else some i)
    (upFrom 0 (min (x.spill.length + 1) (quotaOf v / frameBytes v)))

/-- A frame copied to the spill region (R505). -/
def spillFrame (k n r f slot : Nat) (b : FrameBuf) (s : State) : State :=
  let v := streamAt s n
  let x := recvAt v r
  let g := (galGate s (some k) (bufferAt v f) (frameBytes v) true).and
    (dramGate s (some k) (spillAt v r slot) (frameBytes v) false)
  match g with
  | .wait => s
  | .err i => raiseFor k .haul i s
  | .go =>
    let s1 := writeDram s (spillAt v r slot) (galBytes s (bufferAt v f) (frameBytes v))
    let spill := x.spill ++ [⟨b.layer, b.page, slot⟩]
    startCopies (dropCopies (fun c => c = ⟨n, r, f⟩) (releaseBuf n f r (setRecv s1 n r { x with
      toSpill := x.toSpill.drop 1, spill := spill, spilledCount := x.spilledCount + 1
      spillPeak := max x.spillPeak (spill.length * frameBytes v) })))

/-- SPILL_COPY_DONE: a haul mover has copied the next frame for the spill region into it (R373); a copy that would pass the quota sheds the receiver. -/
def spillCopyDone (n : HaulId) (r : Nat) (s : State) : State :=
  let v := streamAt s n
  let x := recvAt v r
  match streamOwner s n, x.toSpill with
  | some k, f :: _ =>
    let mine (c : SpillCopy) : Bool := c = ⟨n.val, r, f⟩
    if v.state ≠ 1 || !(s.haul.movers.any fun m => m.2.any mine) then s
    else match freeSlot v x, tget none v.buffers f with
      | none, _ => startCopies (shedRecv k n r 2 s)
      | some i, some b => spillFrame k n r f i b s
      | some _, none => s
  | _, _ => s

def execSpillCopyDone (n : HaulId) (r : Fin 8) (s : State) : Host.Outcome State Fault Refusal := .next (spillCopyDone n r s)

/-! ### The end of a task that hands to streams (R509, R510) -/

/-- The open streams that a claim's current task has handed to. -/
def taskStreams (s : State) (k : Nat) : List Nat :=
  s.haul.streams.filterMap fun e =>
    if e.2.state = 1 && e.2.task = some (taskNo s k) && streamOwner s e.1 = some k then some e.1 else none

/-- Whether every complete frame of the task's streams is acknowledged, spilled or shed (R509). -/
def haulQuiet (s : State) (k : Nat) : Bool :=
  (taskStreams s k).all fun n => !((streamAt s n).buffers.any fun e => match e.2 with
    | some b => b.complete
    | none => false)

/-- A stream ends early for its receivers that are not done: an immediate of kind 2 and a record (R509, R510). -/
def endRecvs (k n status : Nat) (all : Bool) : Nat → State → State
  | 0, s => s
  | i + 1, s =>
    let s1 := endRecvs k n status all i s
    let x := recvAt (streamAt s1 n) i
    if x.shed || (x.finished && !all) then s1
    else
      let s2 := setRecv s1 n i { x with queue := [], toSpill := [], spill := [], spillSent := 0, progress := 0 }
      let s3 := dropCopies (fun c => c.stream = n && c.recv = i) (if x.finished then s2 else abandon (recvQp s k x) s2)
      recvDone k n i (if x.qpError then 4 else status) (sendImm k x 2 0 s3)

/-- Whether a stream is short at its task's end (R509). -/
def streamShort (v : HaulStream) : Bool := !v.buffers.isEmpty || v.completed < layersOf v * pagesOf v

/-- The streams of a task that ends: short ones are closed (R509). -/
def endStreams (k : Nat) (s : State) : State :=
  (taskStreams s k).foldl (fun t n =>
    if streamShort (streamAt t n) then
      endRecvs k n 3 false (streamAt t n).recvs.length (modStream t n fun v => { v with buffers := [] })
    else t) s

/-- The streams of a task that aborts (R510). -/
def abortStreams (k : Nat) (s : State) : State :=
  (taskStreams s k).foldl (fun t n =>
    modStream (endRecvs k n 2 true (streamAt t n).recvs.length (modStream t n fun v => { v with buffers := [] })) n
      fun v => { v with state := 2 }) s

end Sys2Proof.Machine
end

