-- ==== Sys2Proof/Machine/Images.lean ====
section
/-! DEFINITION. Program images: header, sections, relocations, and loading (09 R366 to R370). -/

namespace Sys2Proof.Machine

/-- `n` bytes at an offset as a number, least significant first. -/
def numAt (img : List Byte) (o n : Nat) : Nat := leNat ((img.drop o).take n)

/-- Physical units of a claim, in the order of their virtual numbers (R368). -/
def coresMap (s : State) (k : Nat) : List Nat := coresOf (claimAt s k).quads
def banksMap (s : State) (k : Nat) : List Nat := unitsOf 512 (claimAt s k).galBanks
def regionsMap (s : State) (k : Nat) : List Nat := unitsOf 225 (claimAt s k).dram

/-- A virtual gallery offset or DRAM offset as a physical one: unit by unit, keeping the position within it. -/
def mapOffset (units : List Nat) (size o : Nat) : Option Nat := (units[o / size]?).map fun u => u * size + o % size

/-- A range of virtual offsets as physical pieces: (physical offset, bytes). -/
def mapRange (units : List Nat) (size : Nat) : Nat → Nat → Nat → Option (List (Nat × Nat))
  | 0, _, _ => some []
  | fuel + 1, o, n =>
    if n = 0 then some []
    else
      let m := min n (size - o % size)
      match mapOffset units size o, mapRange units size fuel (o + m) (n - m) with
      | some a, some r => some ((a, m) :: r)
      | _, _ => none

/-- A section entry (R367). -/
structure Section where
  kind : Nat
  core : Nat
  tags : Nat
  rsv : Nat
  offset : Nat
  size : Nat
  file : Nat
  deriving DecidableEq, Repr

def sectionAt (img : List Byte) (i : Nat) : Section :=
  let o := numAt img 0x1C 4 + 32 * i
  { kind := numAt img o 1, core := numAt img (o + 1) 1, tags := numAt img (o + 2) 1, rsv := numAt img (o + 3) 5
    offset := numAt img (o + 8) 8, size := numAt img (o + 16) 8, file := numAt img (o + 24) 8 }

def sectionCount (img : List Byte) : Nat := numAt img 0x18 4
def relocCount (img : List Byte) : Nat := numAt img 0x20 4
def imageCores (img : List Byte) : Nat := numAt img 0x28 2

/-- Whether a section has bytes in the image. -/
def hasData (x : Section) : Bool := x.kind = 1 || x.kind = 2 || x.kind = 4 || x.kind = 6

/-- Whether header, tables and CRC are right (detail 1). -/
def headerFits (img : List Byte) (id : W64) : Bool :=
  let n := img.length
  128 ≤ n && numAt img 0 4 = 0x014B5045 && numAt img 4 2 = 1 && numAt img 6 2 < 4 && numAt img 8 8 = n &&
    numAt img 0x10 8 = id.toNat && numAt img 0x46 10 = 0 && numAt img 0x54 40 = 0 &&
    numAt img 0x1C 4 + 32 * sectionCount img ≤ n && numAt img 0x24 4 + 16 * relocCount img ≤ n &&
    numAt img 0x2C 4 + 8 * imageCores img ≤ n && 1 ≤ imageCores img && imageCores img ≤ 128 &&
    BitVec.ofNat 32 (numAt img 0x7C 4) = crc32c (img.take 0x7C ++ [0, 0, 0, 0] ++ img.drop 0x80)

/-- Whether the claim owns what the image needs (detail 2). -/
def needsMet (s : State) (k : Nat) (img : List Byte) : Bool :=
  let c := claimAt s k
  numAt img 0x30 1 ≤ setCount 32 c.quads && numAt img 0x31 1 ≤ setCount 225 c.dram &&
    numAt img 0x32 1 ≤ setCount 16 c.hubMovers && numAt img 0x33 1 ≤ setCount 16 c.collMovers &&
    numAt img 0x34 2 ≤ setCount 512 c.galBanks && numAt img 0x36 2 ≤ c.turnCount && numAt img 0x38 2 ≤ c.winCount &&
    numAt img 0x3A 2 ≤ c.sump && numAt img 0x3C 2 ≤ c.streamCount && numAt img 0x3E 2 ≤ c.qpCount &&
    numAt img 0x40 4 ≤ 1024 * c.tallyUnits && numAt img 0x44 2 ≤ 8 * c.convUnits &&
    imageCores img ≤ 4 * setCount 32 c.quads

/-- Whether the image is for the claim's group (detail 3). -/
def groupFits (s : State) (k : Nat) (img : List Byte) : Bool :=
  let size := if (claimAt s k).group then programGroup s else 0
  numAt img 0x2A 2 = size && !(numAt img 6 2 % 2 = 1 && size = 0)

/-- Whether a section lies in its space and its data in the image (detail 4). -/
def sectionFits (s : State) (k : Nat) (img : List Byte) (x : Section) : Bool :=
  1 ≤ x.kind && x.kind ≤ 7 && x.rsv = 0 && x.tags ≤ 2 && (!(hasData x) || x.file + x.size ≤ img.length) &&
  (match x.kind with
   | 1 => (x.core < imageCores img || x.core = 0xFF) && x.size % 8 = 0 && x.offset + x.size / 8 ≤ 16384
   | 2 | 3 => (x.core < imageCores img || x.core = 0xFF) && x.offset + x.size ≤ benchSize
   | 4 | 5 => x.offset + x.size ≤ galBankSize * (banksMap s k).length
   | _ => x.offset + x.size ≤ regionSize * (regionsMap s k).length)

/-- A relocation entry's mapping of a field (R368); none where it has no physical unit. -/
def relocated (s : State) (k kind v : Nat) : Option Nat :=
  let c := claimAt s k
  let nth (xs : List Nat) (i : Nat) : Option Nat := xs[i]?
  match kind with
  | 1 =>
    let p := placeOf (BitVec.ofNat 64 v)
    let at_ (sel off : Nat) : Nat := p.space * 2 ^ 60 + sel * 2 ^ 52 + off
    match p.space with
    | 0 => (nth (coresMap s k) p.sel).map fun x => at_ x p.off
    | 1 => (mapOffset (banksMap s k) galBankSize p.off).map (at_ p.sel)
    | 2 => (mapOffset (regionsMap s k) regionSize p.off).map (at_ p.sel)
    | _ => some v
  | 2 => nth (coresMap s k) v
  | 3 => some (v + 1024 * c.tallyBase)
  | 4 => some (v + 8 * c.convBase)
  | 5 => mapOffset (banksMap s k) galBankSize v
  | 6 => mapOffset (regionsMap s k) regionSize v
  | 7 => nth (unitsOf 16 c.hubMovers) v
  | 8 => if v < c.turnCount then some (v + c.turnBase) else none
  | 9 => if v < c.winCount then some (v + c.winBase) else none
  | _ => none

/-- One relocation applied to the image's bytes (R368); none where it fails. -/
def relocate (s : State) (k : Nat) (img : List Byte) (i : Nat) : Option (List Byte) :=
  let o := numAt img 0x24 4 + 16 * i
  let sec := numAt img o 2
  let x := sectionAt img sec
  let lsb := numAt img (o + 3) 1
  let width := numAt img (o + 4) 1
  let off := numAt img (o + 8) 8
  if sectionCount img ≤ sec || !(hasData x) || width = 0 || 64 < lsb + width || x.size < off + 8 || numAt img (o + 5) 3 ≠ 0
  then none
  else
    let a := x.file + off
    let w := numAt img a 8
    let v := w / 2 ^ lsb % 2 ^ width
    match relocated s k (numAt img (o + 2) 1) v with
    | some r =>
      if r < 2 ^ width then some (img.take a ++ leBytes 8 (w - v * 2 ^ lsb + r * 2 ^ lsb) ++ img.drop (a + 8)) else none
    | none => none

/-- Every relocation in turn: the count of entries and the number of the next one. -/
def relocateAll (s : State) (k : Nat) : Nat → Nat → List Byte → Option (List Byte)
  | 0, _, img => some img
  | n + 1, i, img => match relocate s k img i with
    | some x => relocateAll s k n (i + 1) x
    | none => none

/-- The physical cores that a section goes to (R367). -/
def sectionCores (s : State) (k : Nat) (img : List Byte) (x : Section) : List Nat :=
  let cs := (coresMap s k).take (imageCores img)
  if x.core = 0xFF then cs else (cs[x.core]?).toList

/-- A bench section written at one core, with the tag state of its slots (R367). -/
def loadBench (x : Section) (data : List Byte) (c : Nat) (s : State) : State :=
  let s1 := if x.kind = 3 then
      modBench s c fun b => { b with
        bytes := tfill 0 b.bytes x.offset x.size 0
        seals := clearAll (unitsIn 4096 x.offset x.size) b.seals
        poison := clearAll (wholeIn 8 x.offset x.size) b.poison }
    else writeBench s c x.offset data
  if x.tags = 0 then s1 else setTags s1 c (x.tags = 2) (unitsIn 1024 x.offset x.size)

/-- The physical pieces of a section with their data. -/
def writePieces (f : State → Nat → List Byte → State) : List (Nat × Nat) → List Byte → State → State
  | [], _, s => s
  | p :: ps, d, s => writePieces f ps (d.drop p.2) (f s p.1 (d.take p.2))

/-- One section loaded. -/
def loadSection (k : Nat) (img : List Byte) (x : Section) (s : State) : State :=
  let data := (img.drop x.file).take x.size
  match x.kind with
  | 1 => (sectionCores s k img x).foldl (fun t c => writeBench t c (instrBase + 8 * x.offset) data) s
  | 2 | 3 => (sectionCores s k img x).foldl (fun t c => loadBench x data c t) s
  | 4 => writePieces writeGal ((mapRange (banksMap s k) galBankSize 513 x.offset x.size).getD []) data s
  | 5 => ((mapRange (banksMap s k) galBankSize 513 x.offset x.size).getD []).foldl (fun t p => zeroGal t p.1 p.2) s
  | 6 => writePieces writeDram ((mapRange (regionsMap s k) regionSize 226 x.offset x.size).getD []) data s
  | 7 => ((mapRange (regionsMap s k) regionSize 226 x.offset x.size).getD []).foldl (fun t p => zeroDram t p.1 p.2) s
  | _ => s

/-- The core table: entry index and whether the core runs, by virtual core (R369). -/
def coreTable (img : List Byte) : List (Nat × Bool) :=
  let entries := (upFrom 0 (imageCores img)).map fun i => numAt img 0x2C 4 + 8 * i
  (upFrom 0 (imageCores img)).map fun v =>
    match entries.find? fun o => numAt img o 2 = v with
    | some o => (numAt img (o + 2) 2, numAt img (o + 6) 2 % 2 = 1)
    | none => (0, false)

/-- What an image load gives: the detail of a refusal (R538), or the image relocated. -/
inductive LoadCheck where
  | refuse (detail : Nat)
  | ok (img : List Byte)
  deriving DecidableEq, Repr

/-- The checks of R370, before any memory is written (R538). -/
def checkImage (s : State) (k : Nat) (img : List Byte) (id : W64) : LoadCheck :=
  if !(headerFits img id) then .refuse 1
  else if !(needsMet s k img) then .refuse 2
  else if !(groupFits s k img) then .refuse 3
  else if !((upFrom 0 (sectionCount img)).all fun i => sectionFits s k img (sectionAt img i)) then .refuse 4
  else match relocateAll s k (relocCount img) 0 img with
    | some x => .ok x
    | none => .refuse 5

/-- Load a checked image: its sections in table order; it is then resident (R366, R370, R537). -/
def loadImage (k : Nat) (img : List Byte) (place : W64) (s : State) : State :=
  let s1 := (upFrom 0 (sectionCount img)).foldl (fun t i => loadSection k img (sectionAt img i) t) s
  let id := BitVec.ofNat 64 (numAt img 0x10 8)
  let s2 := ((coresMap s k).take (imageCores img)).foldl (fun t c => modSeq t c fun q => { q with imageId := id }) s1
  modClaim s2 k fun c =>
    { c with
      loads := satAdd 0xFFFF c.loads 1
      image := some { imageId := id, place := place, size := img.length, argSize := numAt img 0x50 4
                      group := numAt img 6 2 % 2 = 1, cores := coreTable img } }

end Sys2Proof.Machine
end

