-- ==== Sys2Proof/Machine/Waits.lean ====
section
/-! DEFINITION. What each engine waits on (08 R326 to R331). -/

namespace Sys2Proof.Machine

/-- Who waits at a home, as an engine. -/
def waiterEngine : Waiter → Option Engine
  | .seq c => some (.sequencer c)
  | .mover m => some (moverEngine m)
  | .closing c => some (.dressing c)
  | .net e => some e
  | .coll m _ => some (.collMover m)

/-- An operation that waits: the kind of its object as CORE_SYNC_FAULT numbers it, the object, and the deadline class (R328,
R331). -/
structure EngineWait where
  kind : Nat
  object : Nat
  cls : Nat
  deriving DecidableEq, Repr

/-- The wait of a held or returned access of engine `e` at core `c`, while its slot is not ready. -/
def tagWaitOf (s : State) (e : Engine) (c : Nat) (a : HeldAccess) : Option EngineWait :=
  if a.eng = e then (rangeBlocks s c a.offset (heldLen a.op) a.isWrite).map fun x => ⟨0, x, a.cls⟩ else none

def tagWaits (s : State) (e : Engine) : List EngineWait :=
  (s.cores.flatMap fun k => k.2.bench.held.filterMap (tagWaitOf s e k.1)) ++ s.backoffs.filterMap fun b => match b.req with
    | .tagged c a => tagWaitOf s e c a
    | _ => none

def tallyWaits (s : State) (e : Engine) : List EngineWait :=
  let of (w : WaitEntry) : Option EngineWait :=
    if waiterEngine w.who = some e && !(reached (tallyAt s w.tally) w.target) then some ⟨1, w.tally, w.cls⟩ else none
  s.waits.filterMap of ++ s.backoffs.filterMap fun b => match b.req with
    | .wait w => of w
    | _ => none

def conveyorWaits (s : State) (e : Engine) : List EngineWait :=
  let pushOf (n : Nat) (p : WaitingPush) : Option EngineWait :=
    if waiterEngine p.who = some e then some ⟨2, n, p.cls⟩ else none
  let popOf (n : Nat) (p : WaitingPop) : Option EngineWait :=
    if waiterEngine p.who = some e then some ⟨2, n, p.cls⟩ else none
  (s.conveyors.flatMap fun v => (v.2.push.bind (pushOf v.1)).toList ++ (v.2.pop.bind (popOf v.1)).toList) ++
    s.backoffs.filterMap fun b => match b.req with
      | .push n p => pushOf n p
      | .pop n p => popOf n p
      | _ => none

/-- The operations of an engine that wait on a slot, a tally or a conveyor: those that carry a deadline class (R328). -/
def waitsOf (s : State) (e : Engine) : List EngineWait := tagWaits s e ++ tallyWaits s e ++ conveyorWaits s e

/-- The tally waits of a collective call (R302, R464, R479). -/
def callWaits (s : State) (v : CollCall) : List EngineWait :=
  let of (w : WaitEntry) : Option EngineWait :=
    if w.who = .coll (Fin.ofNat 16 v.mover) (callSeq v) && !(reached (tallyAt s w.tally) w.target) then
      some ⟨1, w.tally, w.cls⟩ else none
  s.waits.filterMap of ++ s.backoffs.filterMap fun b => match b.req with
    | .wait w => of w
    | _ => none

/-- The engine that CORE_SYNC_FAULT and CORE_SYNC_WAIT number (R331). -/
def syncEngine (c : CoreId) (n : Nat) : Engine :=
  match n with
  | 0 => .sequencer c | 1 => .matrix c | 2 => .dressing c | 3 => .coreMover c false | 4 => .coreMover c true
  | _ => .netPort c

/-- Whether a mover waits for credit or for its push. -/
def moverBlocked (v : MoverState) : Bool := v.pushing || v.lists.head?.any fun l => l.waited && !l.granted

/-- Whether an engine of a core waits (R331): on a slot, a tally, a conveyor, a turn or a grant, on its units, or, for a net
port, on the steps of a collective call. -/
def engineWaits (s : State) (c : CoreId) (n : Nat) : Bool :=
  let e := syncEngine c n
  let k := coreAt s c
  !(waitsOf s e).isEmpty || requestOut s e ||
    (match n with
     | 0 => k.seq.run = .waiting
     | 1 => k.att.kvWait
     | 2 => k.drs.closeWait
     | 3 => moverBlocked k.m0
     | 4 => moverBlocked k.m1
     | 5 => !k.net.calls.isEmpty
     | _ => false)

/-- The first operation on which a core is blocked: its sequencer's, else one of a unit's, in the order of R331; the engine,
the kind and the object. -/
def blockedOn (s : State) (c : CoreId) : Option (Nat × Nat × Nat) :=
  match (coreAt s c).seq.wait with
  | some w => some (0, w.kind, w.object)
  | none => firstSome (fun n => match waitsOf s (syncEngine c n) with
      | w :: _ => some (n, w.kind, w.object)
      | [] => if engineWaits s c n then some (n, 3, 0) else none) (upFrom 0 6)

end Sys2Proof.Machine
end

