-- ==== Sys2Proof/Machine/Tasks.lean ====
section
/-! DEFINITION. Tasks: start, end, abort and their records; watchdog, deadlines, holds and cancels (08 R326 to R330;
09 R363, R369; 10 R397 to R399; 14 R534 to R550; 17 R648). -/

namespace Sys2Proof.Machine

/-! ### Zeroing and losing contents -/

/-- A table of free predicates, at keys 0 to n - 1. -/
def freePreds (base n : Nat) : Table Pred :=
  (upFrom 0 n).filterMap fun i => if Config.freePred (base + i) = 0 then none else some (i, Config.freePred (base + i))

/-- Chutes, accumulators, wide registers and predicates of core `c` become undefined (R133, R205, R284); entry 21. -/
def looseChutes (c : Nat) (s : State) : State :=
  let d := s.draws
  let s1 := modMat s c (freeChutes d)
  let s2 := modDrs s1 c fun x => { x with wide := freeWords (d + 65536) 8192 }
  { (modSeq s2 c fun q => { q with preds := freePreds d 8 }) with draws := d + coreFree }

/-- Chutes, accumulators, wide registers and predicates of core `c` zeroed (R285). -/
def zeroChutes (c : Nat) (s : State) : State :=
  let s1 := modMat s c fun m => { m with weight := [], act := [], acc := [], intRow := [] }
  let s2 := modDrs s1 c fun x => { x with wide := [] }
  modSeq s2 c fun q => { q with preds := [] }

/-- The bench of core `c` zeroed but for the instruction region, every tag empty (R285, R536). -/
def zeroBenchData (c : Nat) (s : State) : State :=
  modBench s c fun b => { b with
    bytes := tfill 0 b.bytes 0 instrBase 0
    tags := [], seals := clearAll (upFrom 0 (instrBase / 4096)) b.seals
    poison := b.poison.filter fun e => instrBase ≤ 8 * e.1 }

/-- A core that leaves its claim: bench, chutes, tiles, wide registers and predicates zeroed (R133, R205, R284). -/
def zeroCore (c : Nat) (s : State) : State :=
  let s1 := modBench (zeroChutes c s) c fun b => { b with bytes := [], tags := [], seals := [], poison := [] }
  let s2 := modMat s1 c fun m => { m with active := {}, activeValid := false, shadow := .empty, shadowTile := {} }
  modSeq s2 c fun q => { q with imageId := 0 }

/-! ### Stopping the engines of a claim (R397) -/

/-- A mover stops: its lists and blocks are discarded. -/
def stopMover (v : MoverState) : MoverState :=
  { v with lists := [], out := [], prog := none, pushing := false
           stopped := v.stopped || !v.lists.isEmpty || !v.out.isEmpty }

/-- One core stops: items, lists and waits are discarded; the tile is invalid and the shadow EMPTY (R133). Its arrays go idle
as they do after any work, when CORE_ARR_CTRL.idle_after bubbles have passed (R108). -/
def stopCore (c : Nat) (s : State) : State :=
  let s1 := modCore s c fun k => { k with
    seq := { k.seq with run := if k.seq.run = .faulted then .faulted else .idle, wait := none, order := []
                        prologue := none, epilogue := none, odd := [] }
    mat := { k.mat with queue := [], fill := none, run := none, flight := [], activeValid := false, shadow := .empty }
    drs := { k.drs with queue := [], prog := none, position := if k.drs.prog.isSome then 3 else k.drs.position
                        handle := if k.drs.prog.isSome then 0 else k.drs.handle
                        hands := [], tiles := [], widths := [], cols := [], holdBytes := 0, closeWait := false }
    att := { k.att with call := none, kvWait := false }
    m0 := stopMover k.m0
    m1 := stopMover k.m1
    net := { k.net with queue := [], due := [], calls := [] } }
  looseChutes c s1

/-- Whether a waiter is of claim `k`. -/
def waiterOf (s : State) (k : Nat) (w : Waiter) : Bool :=
  match waiterEngine w with
  | some e => engineClaim s e = some k
  | none => false

/-- Whether a held access is of claim `k`: of an engine of it, or of one of another module through its window. -/
def heldOf (s : State) (k : Nat) (a : HeldAccess) : Bool := engineClaim s a.eng = some k || a.owner = some k

/-- Whether a refused request is of claim `k`; that of a request parked at a port goes with its entry. -/
def refusedOf (s : State) (k : Nat) : Refused → Bool
  | .tagged _ a => heldOf s k a
  | .wait w => waiterOf s k w.who
  | .push _ p => waiterOf s k p.who
  | .pop _ p => waiterOf s k p.who
  | .accumulate r => engineClaim s r.engine = some k
  | .junction _ r => engineClaim s r.eng = some k
  | .loser p n => (pendingAt s p).any fun r => r.entry = n && r.owner = .claim k

/-- A conveyor without the waits of claim `k`. -/
def clearConveyor (s : State) (k : Nat) (v : Conveyor) : Conveyor :=
  { v with push := v.push.filter fun p => !(waiterOf s k p.who), pop := v.pop.filter fun p => !(waiterOf s k p.who) }

/-- A table with every listed entry changed. -/
def mapTable {α : Type} [DecidableEq α] (d : α) (f : α → α) (m : Table α) : Table α :=
  m.foldr (fun e t => tput d t e.1 (f e.2)) m

/-- The waits, wait entries, held accesses, backoffs and turn holds of claim `k` are discarded (R330, R397). -/
def clearWaits (k : Nat) (s : State) : State :=
  { s with
    waits := s.waits.filter fun w => !(waiterOf s k w.who)
    backoffs := s.backoffs.filter fun b => !(refusedOf s k b.req)
    conveyors := mapTable {} (clearConveyor s k) s.conveyors
    cores := mapTable {} (fun c => { c with bench := { c.bench with
      held := c.bench.held.filter fun a => !(heldOf s k a) } }) s.cores
    gallery := { s.gallery with turns := mapTable {} (fun t => { t with
      hold := t.hold.filter fun r => engineClaim s r.engine ≠ some k }) s.gallery.turns }
    fabric := { s.fabric with
      sump := mapTable {} (fun x => if x.acquired = some k then { x with waiting := [] } else x) s.fabric.sump
      tables := mapTable {} (fun t => { t with pending := t.pending.filter fun r => r.owner ≠ .claim k }) s.fabric.tables
      slices := mapTable {} (fun t => { t with pending := t.pending.filter fun r => r.owner ≠ .claim k }) s.fabric.slices } }

/-- The collective calls of a core are discarded: their reduction slots become free, and their movers stop (R482). -/
def stopCalls (c : Nat) (s : State) : State :=
  (callsAt s c).foldl (fun t v =>
    v.slots.flatten.foldl (fun u i => setSump u i {})
      (modCollMover v.mover (fun m => { m with state := if m.state = 5 then 5 else 4 }) t)) s

/-- Every engine of claim `k` stops, and its queued work is discarded. -/
def stopClaim (k : Nat) (s : State) : State :=
  let q := claimAt s k
  let s1 := (coresOf q.quads).foldl (fun t c => stopCalls c t) (clearWaits k s)
  let s2 := (coresOf q.quads).foldl (fun t c => stopCore c t) s1
  (unitsOf 16 q.hubMovers).foldl (fun t n => setHubMover t n (stopMover (hubMoverAt t n))) s2

/-! ### Quad re-mapping (R648) -/

/-- Whether a quad holds a fenced array. -/
def quadFenced (s : State) (q : Nat) : Bool := (upFrom (4 * q) 4).any fun c => (coreAt s c).mat.fenced ≠ 0

/-- Whether a quad may replace another: spare, no fenced array, not withdrawn, on an operational die. -/
def quadSpare (s : State) (q : Nat) : Bool :=
  (quadOwner s q).isNone && !(quadFenced s q) && !(inSet s.ras.quadsWithdrawn q) && (tget {} s.dies (q / 4)).present

/-- The replacement of quad `q` of claim `k`, in the order of R648. -/
def replacement (s : State) (k q : Nat) : Option Nat :=
  let free := (upFrom 0 32).filter fun x => quadSpare s x
  let same := free.filter fun x => x / 4 = q / 4
  let other := free.filter fun x => (upFrom 0 32).any fun y => inSet (claimAt s k).quads y && y / 4 = x / 4
  (same ++ other ++ free).head?

/-- The claim takes a replacement for one quad; the failed quad is taken back and zeroed. -/
def remapQuad (k q : Nat) (s : State) : State :=
  match replacement s k q with
  | some x =>
    let s1 := modClaim s k fun c => { c with quads := setWith (setWithout c.quads q) x, image := none }
    let s2 := (upFrom (4 * q) 4).foldl (fun t c => zeroCore c t) s1
    addLog { kind := 8, claim := some k, unit := q, detail := placed x 0 } s2
  | none => modClaim s k fun c => { c with noSpare := true }

/-- The quads of a claim that hold a fenced array are re-mapped. -/
def remapFenced (k : Nat) (s : State) : State :=
  ((upFrom 0 32).filter fun q => inSet (claimAt s k).quads q && quadFenced s q).foldl (fun t q => remapQuad k q t) s

/-! ### Completion records (R540) -/

/-- What a completion record says beside the task's own fields. -/
structure RecordInfo where
  status : Nat
  detail : Nat := 0
  elapsed : Nat := 0
  fault : Option TaskFault := none
  others : Nat := 0
  arith : W64 := 0
  deriving DecidableEq, Repr

/-- Word 0 and the sums of CORE_ARITH_FLAGS over the task's cores (R165, R540). -/
def arithFlagBits (a : ArithFlags) : Nat :=
  32 * b2n a.galEvent + 16 * b2n a.scaleNan + 8 * b2n a.convSat + 4 * b2n a.convOvf + 2 * b2n a.accInf + b2n a.accNan

def arithWord (s : State) (k : Nat) : W64 :=
  let as := (coresOf (claimAt s k).quads).map fun c => (coreAt s c).mat.arith
  placed (min 0xFFFF (as.foldl (fun n a => n + a.satCount) 0)) 48 |||
    placed (min 0xFFFF (as.foldl (fun n a => n + a.ovfCount) 0)) 32 |||
    placed (as.foldl (fun n a => n ||| a.intOvf) 0 % 16) 8 ||| placed (as.foldl (fun n a => n ||| arithFlagBits a) 0 % 64) 0

def completionWords (t : Task) (r : RecordInfo) : List W64 :=
  let f := r.fault
  let g (x : TaskFault → Nat) : Nat := (f.map x).getD 0
  [placed r.status 56 ||| placed (g fun x => faultCode x.info.name) 48 ||| placed (g fun x => x.engine) 44 |||
     placed (g fun x => x.core) 37 ||| placed (g fun x => x.unit) 33 ||| placed (g fun x => x.rank) 27 |||
     flagAt (f.any fun x => x.second) 26 ||| placed (min 255 r.others) 18 ||| placed (t.user % 65536) 0,
   (f.map fun x => x.info.address).getD 0, r.arith, t.imageId,
   placed ((if f.isSome then g fun x => x.info.reason else r.detail) % 256) 56 ||| placed t.ring 52 |||
     placed (min 0xFFFFFFFF r.elapsed) 0, 0, 0, 0]

/-- The place of a task's record: the takeover place after a takeover (R546), the member's own place in a group (R547). -/
def recordPlace (s : State) (k : Nat) (t : Task) : W64 :=
  let c := claimAt s k
  let a := if t.overtaken then c.takeover else t.record
  if t.group then a + BitVec.ofNat 64 (64 * programRank s) else a

/-- Whether this module is the group host port module of a group claim (R547). -/
def drivesGroup (s : State) (k : Nat) : Bool := (claimAt s k).group && !(hostIsAway s k)

/-- Put a message for another member on the fabric. -/
def forwardTo (rank : Nat) (x : Forwarded) (s : State) : State :=
  { s with group := { s.group with forwards := (rank, x) :: s.group.forwards } }

/-- The other members of the group. -/
def otherMembers (s : State) : List Nat :=
  if s.group.stage = .none then [] else (upFrom 0 s.group.members).filter fun r => r ≠ s.group.rank

/-- A message for every other member. -/
def forwardAll (x : Forwarded) (s : State) : State := (otherMembers s).foldl (fun t r => forwardTo r x t) s

/-- A completion record is written to the claim's host, through the group host port module, or kept while control of the
group is lost (R521, R548, R549). -/
def putRecord (k : Nat) (t : Task) (words : List W64) (s : State) : State :=
  let a := recordPlace s k t
  if (claimAt s k).group && s.group.hostLost then
    { s with group := { s.group with heldRecords := s.group.heldRecords ++ [(k, (placeOf a).off, words)] } }
  else if hostIsAway s k then
    forwardTo s.group.hostRank (.record (Fin.ofNat 8 k) (Fin.ofNat 64 (programRank s)) words) s
  else match hostFn s k with
    | some f => if (placeOf a).space = 3 then writeHost s f (placeOf a).off (bytesOf words) else s
    | none => s

/-- The ring's completed count and its vector (R540, R541). -/
def ringDone (k : Nat) (t : Task) (s : State) : State :=
  let s1 := modClaim s k fun c => { c with
    rings := tmod {} c.rings t.ring fun r => { r with done := wrapAdd 32 r.done 1 } }
  if t.msix then signal s1 k t.ring else s1

/-- A record is written; the ring completes, in a group once every member's record has been written (R547). -/
def writeCompletion (k : Nat) (t : Task) (words : List W64) (s : State) : State :=
  let s1 := putRecord k t words s
  if hostIsAway s k then s1
  else if t.group && !t.awaiting.isEmpty then modClaim s1 k fun c => { c with closing := some t }
  else ringDone k t s1

/-! ### Starting a task (R534 to R539, R369) -/

/-- Bytes of host memory as a claim reads them; none where the host does not translate them. -/
def hostRead (s : State) (k : Nat) (place : W64) (n : Nat) : Option (List Byte) :=
  let p := placeOf place
  if p.space ≠ 3 || p.sel ≠ 0 then none
  else match hostFn s k with
    | some f => if hostMapped s f p.off n then some (hostBytes s f p.off n) else none
    | none => none

/-- The task that a record names. -/
def taskOf (ring : Nat) (w : List W64) (group forwarded : Bool) (awaiting : List Nat) : Task :=
  { ring := ring, msix := bitOf (wordAt w 0) 56, user := fieldOf (wordAt w 0) 47 32, imageId := wordAt w 2
    record := wordAt w 5, group := group, forwarded := forwarded, awaiting := awaiting }

/-- Whether a task record has a reserved kind, a nonzero RSV field, or a record place that is no aligned host place
(detail 7). -/
def recordBad (w : List W64) : Bool :=
  2 ≤ fieldOf (wordAt w 0) 63 60 || fieldOf (wordAt w 0) 55 48 ≠ 0 || fieldOf (wordAt w 6) 44 0 ≠ 0 || wordAt w 7 ≠ 0 ||
    (placeOf (wordAt w 5)).space ≠ 3 || (placeOf (wordAt w 5)).sel ≠ 0 || (placeOf (wordAt w 5)).off % 64 ≠ 0

/-- Checks of a task record against the claim and its resident image (R538): details 6 and 9. -/
def argBad (argSize : Nat) (w : List W64) : Bool := fieldOf (wordAt w 0) 31 0 ≠ argSize
def rangeBad (s : State) (k : Nat) (w : List W64) : Bool :=
  setCount 512 (claimAt s k).galBanks < fieldOf (wordAt w 6) 63 55 + fieldOf (wordAt w 6) 54 45 ||
    512 < fieldOf (wordAt w 6) 54 45

/-- The zero-fills that a task record asks for (R285, R536). -/
def zeroForTask (k : Nat) (w : List W64) (s : State) : State :=
  let cs := coresMap s k
  let s1 := if bitOf (wordAt w 0) 59 then cs.foldl (fun t c => zeroChutes c t) s else s
  let s2 := if bitOf (wordAt w 0) 58 then cs.foldl (fun t c => zeroBenchData c t) s1 else s1
  if bitOf (wordAt w 0) 57 then
    (((banksMap s k).drop (fieldOf (wordAt w 6) 63 55)).take (fieldOf (wordAt w 6) 54 45)).foldl
      (fun t b => zeroGal t (galBankSize * b) galBankSize) s2
  else s2

/-- One core at task start (R165, R369): CORE_ARITH_FLAGS cleared; a core whose flag is clear counts as having reached
END. -/
def startCore (rank size : Nat) (arg : W64) (v : Nat) (entry : Nat) (runs : Bool) (c : Nat) (s : State) : State :=
  let regs : Table W64 := tput 0 (tput 0 (tput 0 (tput 0 [] 0 arg) 1 (BitVec.ofNat 64 v)) 2 (BitVec.ofNat 64 rank)) 3
    (BitVec.ofNat 64 size)
  modCore s c fun k => { k with
    seq := { k.seq with
      regs := if runs then regs else k.seq.regs
      loops := if runs then [] else k.seq.loops, order := [], pc := if runs then entry else k.seq.pc
      run := if runs then .running else .ended, wait := none, prologue := none, epilogue := none, odd := [] }
    mat := { k.mat with arith := {} }
    m0 := { k.m0 with stopped := false }
    m1 := { k.m1 with stopped := false } }

/-- The cores of a claim start a task: virtual core `v` is the v-th core. -/
def startCores (rank size : Nat) (arg : W64) (table : List (Nat × Bool)) : Nat → List Nat → State → State
  | _, [], s => s
  | v, c :: cs, s =>
    let e := table.getD v (0, false)
    startCores rank size arg table (v + 1) cs (startCore rank size arg v e.1 e.2 c s)

/-- A checked task begins: zero-fills, sequencers, windows unfenced, the watchdog limit in force (R326, R428, R551). -/
def beginTask (k : Nat) (t : Task) (w : List W64) (s : State) : State :=
  let s1 := zeroForTask k w s
  let table := ((claimAt s k).image.map fun r => r.cores).getD []
  let s2 := startCores (programRank s) (programGroup s) (wordAt w 4) table 0 (coresMap s k) s1
  let s3 := (unitsOf 16 (claimAt s k).hubMovers).foldl (fun x n => setHubMover x n { hubMoverAt x n with stopped := false }) s2
  let s4 := (upFrom (claimAt s k).winBase (claimAt s k).winCount).foldl (fun x w =>
    setWindow x w { windowAt x w with cut := false }) s3
  modClaim s4 k fun c => { c with
    task := some t, fenced := false, wdLimit := c.watchdog, wdSkip := c.wdOff, begun := c.begun + 1
    held := false, heldHere := false, heldBy := [] }

/-- A task that ends before its first instruction (R538, R652): the record, and for an aborted one vector 16. -/
def endAtOnce (k : Nat) (t : Task) (status detail : Nat) (fault : Option FaultName) (s : State) : State :=
  let f := fault.map fun n => ({ info := { name := n }, engine := 10 } : TaskFault)
  let words := completionWords t { status := status, detail := detail, fault := f
                                   elapsed := fieldOf (Config.freeDetail s.draws) 31 0 }
  let s1 := writeCompletion k { t with awaiting := [] } words { s with draws := s.draws + 1 }
  if status = 1 then
    modClaim (signal s1 k 16) k fun c => { c with aborted := satAdd 0xFFFF c.aborted 1 }
  else s1

/-- The rest of a start, once the image is resident (details 6, 9). -/
def startResident (k : Nat) (t : Task) (w : List W64) (s : State) : State :=
  match (claimAt s k).image with
  | none => s
  | some r =>
    if argBad r.argSize w then endAtOnce k t 2 6 none s
    else if rangeBad s k w then endAtOnce k t 2 9 none s
    else beginTask k t w s

/-- A task record is served: a marker, a refusal, or a start with the image loaded when another is resident (R536 to R538,
R652). `image` is the image's bytes, none where they cannot be read. -/
def serveRecord (k : Nat) (t : Task) (w : List W64) (image : Option (List Byte)) (s : State) : State :=
  let c := claimAt s k
  if recordBad w then endAtOnce k t 2 7 none s
  else if fieldOf (wordAt w 0) 63 60 = 0 then endAtOnce k t 0 0 none s
  else match c.impaired with
    | some n => endAtOnce k t 1 0 (some n) s
    | none =>
      if c.quads = 0 then endAtOnce k t 2 2 none s
      else if c.image.any fun r => r.imageId = wordAt w 2 then startResident k t w s
      else match image with
        | none => endAtOnce k t 2 8 none s
        | some img => match checkImage s k img (wordAt w 2) with
          | .refuse d => endAtOnce k t 2 d none s
          | .ok x =>
            if argBad (numAt x 0x50 4) w then endAtOnce k t 2 6 none s
            else if rangeBad s k w then endAtOnce k t 2 9 none s
            else beginTask k t w (loadImage k x (wordAt w 1) s)

/-- Whether a ring is enabled and not empty (R534, R535). -/
def ringReady (r : Ring) : Bool := r.enable && r.head ≠ r.tail

/-- The ring that firmware serves next: highest priority, in rotation from the last ring served (R535). -/
def nextRing (c : Claim) : Option Nat :=
  let order := (upFrom 1 16).map fun i => (c.lastRing + i) % 16
  let ready := order.filter fun r => ringReady (tget {} c.rings r)
  let top := ready.foldl (fun p r => max p (tget {} c.rings r).prio) 0
  ready.find? fun r => (tget {} c.rings r).prio = top

/-- Whether the claim may take its next task: created, none running, no hold, every record of the last one written; HC0 runs,
and the module is not parked (R604, entry 97). -/
def canStart (s : State) (k : Nat) : Bool :=
  let c := claimAt s k
  c.created && !c.destroying && c.task.isNone && c.closing.isNone && !c.holdReq && !c.shed && !c.parked &&
    !(c.group && s.group.hostLost) && !(inSet s.sys.boot.stopped 0) && s.power.state = 0

/-- Descriptors of a ring; a size_log2 above 16 stands for 16 (entry 157). -/
def ringSlots (r : Ring) : Nat := 2 ^ min 16 r.sizeLog

/-- TASK_START (R535). -/
def taskStart (k : Nat) (s : State) : State :=
  let c := claimAt s k
  if !(canStart s k) then s
  else match nextRing c with
    | none => s
    | some i =>
      let r := tget {} c.rings i
      match hostRead s k (r.base + BitVec.ofNat 64 (64 * r.head)) 64 with
      | none => s
      | some bs =>
        let w := wordsOf 8 bs
        let s1 := modClaim s k fun q => { q with
          lastRing := i, rings := tput {} q.rings i { r with head := (r.head + 1) % ringSlots r } }
        let image := hostRead s k (wordAt w 1) (wordAt w 3).toNat
        let t := taskOf i w c.group false (if c.group then otherMembers s else [])
        let s2 := if c.group then
            forwardAll (.task (Fin.ofNat 8 k) (Fin.ofNat 16 i) w
              (if c.image.any fun x => x.imageId = wordAt w 2 then [] else image.getD [])) s1
          else s1
        serveRecord k t w image s2

def execTaskStart (k : ClaimId) (s : State) : Host.Outcome State Fault Refusal := .next (taskStart k s)

/-! ### The end of a task (R316, R362, R540) -/

/-- Whether every core of a claim has reached END and every access has been performed (R316, R362, R509). -/
def taskQuiet (s : State) (k : Nat) : Bool :=
  let c := claimAt s k
  (coresOf c.quads).all (fun x => (coreAt s x).seq.run = .ended && allDone s (Fin.ofNat 128 x)) &&
    (unitsOf 16 c.hubMovers).all (fun n => listsIdle (hubMoverAt s n) && !(engineOut s (.hubMover (Fin.ofNat 16 n)))) &&
    (unitsOf 16 c.collMovers).all (fun n => !(engineOut s (.collMover (Fin.ofNat 16 n)))) &&
    haulQuiet s k &&
    !(s.backoffs.any fun b => refusedOf s k b.req)

/-- A task that ends leaves its cores idle. -/
def idleCores (k : Nat) (s : State) : State :=
  (coresOf (claimAt s k).quads).foldl (fun t c => modSeq t c fun q => { q with run := .idle }) s

/-- TASK_END: the completion record is written after every access. -/
def taskEnd (k elapsed : Nat) (s : State) : State :=
  match (claimAt s k).task with
  | some t =>
    if t.fault.isSome || !(taskQuiet s k) then s
    else
      let words := completionWords t { status := 0, elapsed := elapsed, arith := arithWord s k }
      let s1 := endStreams k (idleCores k s)
      let s2 := modClaim s1 k fun c => { c with
        task := none, held := false, heldHere := false, completed := wrapAdd 32 c.completed 1 }
      writeCompletion k t words s2
  | none => s

def execTaskEnd (k : ClaimId) (elapsed : Nat) (s : State) : Host.Outcome State Fault Refusal := .next (taskEnd k elapsed s)

/-! ### Aborts (R397 to R399) -/

/-- The abort procedure of R397 for a task whose fault is recorded. -/
def abortTask (k elapsed : Nat) (s : State) : State :=
  match (claimAt s k).task with
  | none => s
  | some t => match t.fault with
    | none => s
    | some f =>
      let s1 := remapFenced k (abortStreams k (stopClaim k s))
      let status := if f.info.name = .hostCancel then 3 else 1
      let words := completionWords t { status := status, elapsed := elapsed, fault := some f, others := t.others
                                       arith := Config.freeArith s1.draws &&& 0xFFFFFFFF00000F3F }
      let s2 := if t.group && f.info.name ≠ .peerAbort && f.info.name ≠ .ringMemberLost && f.info.name ≠ .hostCancel then
          forwardAll (.abort (Fin.ofNat 8 k) (Fin.ofNat 64 (programRank s1))) s1
        else s1
      let s3 := modClaim { s2 with draws := s2.draws + 1 } k fun c =>
        { c with task := none, held := false, heldHere := false, fenced := true, aborted := satAdd 0xFFFF c.aborted 1 }
      signal (writeCompletion k t words s3) k 16

def execTaskAbort (k : ClaimId) (elapsed : Nat) (s : State) : Host.Outcome State Fault Refusal := .next (abortTask k elapsed s)

/-- PEER_ABORT: this member aborts the same task, naming the rank that aborted (R397). -/
def peerAbort (k rank : Nat) (s : State) : State :=
  match (claimAt s k).task with
  | some t => if t.group then taskFaultFull k { info := { name := .peerAbort }, engine := 10, rank := rank } s else s
  | none => s

def execPeerAbort (k : ClaimId) (rank : Rank) (s : State) : Host.Outcome State Fault Refusal := .next (peerAbort k rank s)

/-! ### Watchdog and deadlines (R325 to R329) -/

/-- The operation on which a core was blocked is recorded (R327, R331). -/
def recordStall (c : CoreId) (s : State) : State :=
  match blockedOn s c with
  | some (n, kind, object) =>
    recordSync (modSync s c fun y => { y with recorded := some ⟨kind, object⟩ }) c 3 n kind object 0
  | none => modSync s c fun y => { y with recorded := none }

/-- WATCHDOG_STALL: the watchdog pauses while the hold is in effect and may be disabled by firmware (R326, R363). -/
def watchdogStall (k : Nat) (s : State) : State :=
  let c := claimAt s k
  if !(taskLive s k) || c.wdSkip || c.held || shedNow c then s
  else raiseFor k .firmware { name := .watchdogStall } ((coresOf c.quads).foldl (fun t x => recordStall (Fin.ofNat 128 x) t) s)

def execWatchdogStall (k : ClaimId) (s : State) : Host.Outcome State Fault Refusal := .next (watchdogStall k s)

/-- The number of a kind in CORE_SYNC_FAULT. -/
def syncKindNo : SyncKind → Nat
  | .tag => 0 | .tally => 1 | .conveyor => 2 | .other => 3

/-- The call of a core's net port that waits so, if one does. -/
def callWith (s : State) (c : Nat) (w : EngineWait) : Option CollCall :=
  (callsAt s c).find? fun v => (callWaits s v).contains w

/-- DEADLINE_MISS: in real-time mode an operation of class 1 to 15 that still waits on an object passes its limit, while the
core's beats run (R328 to R330); a collective call's wait is one of its issuing core's net port, and its mover raises it
(R484). -/
def deadlineMiss (c : CoreId) (n : Nat) (kind : SyncKind) (object cls : Nat) (s : State) : State :=
  match coreOwner s c with
  | some k =>
    let w : EngineWait := ⟨syncKindNo kind, object, cls⟩
    let call := if n = 5 then callWith s c w else none
    if !(unitLive s c) || !(claimAt s k).rtMode || cls = 0 ||
        !((waitsOf s (syncEngine c n)).contains w || call.isSome) then s
    else
      let s1 := recordSync s c 1 n (syncKindNo kind) object cls
      match call with
      | some v => raiseCollMover v.mover (callSeq v) { name := .deadlineMiss } s1
      | none => raise (syncEngine c n) { name := .deadlineMiss } s1
  | none => s

def execDeadlineMiss (c : CoreId) (engine : Fin 6) (kind : SyncKind) (object : Nat) (cls : Fin 16) (s : State) :
    Host.Outcome State Fault Refusal :=
  .next (coincide (syncEngine c engine) (deadlineMiss c engine kind object cls) s)

/-! ### Holds, cancels and doorbells (R363, R542 to R545) -/

/-- Whether the host's hold is in effect: here, and for a group claim on every other member (R545). -/
def hostHeld (s : State) (k : Nat) : Bool :=
  let c := claimAt s k
  c.holdReq && c.heldHere && (!c.group || (otherMembers s).all c.heldBy.contains)

/-- CLM_HOLD.held as the hold stands; vector 17 is signalled, where the claim's function is, when it takes effect (R541,
R542). -/
def settleHold (k : Nat) (s : State) : State :=
  let now := hostHeld s k
  let s1 := if now && !(claimAt s k).held && !(hostIsAway s k) then signal s k 17 else s
  modClaim s1 k fun c => { c with held := now }

/-- Tell the other members of a group claim whether it is held here (R545). -/
def tellHeld (k : Nat) (held : Bool) (s : State) : State :=
  if (claimAt s k).group then forwardAll (.claimHeld (Fin.ofNat 8 k) (Fin.ofNat 64 (programRank s)) held) s else s

/-- The host's hold is requested and every core is held already. -/
def reportHold (k : Nat) (s : State) : State :=
  let c := claimAt s k
  settleHold k (if c.holdReq && c.heldHere then tellHeld k true s else s)

/-- HOLD_TAKES_EFFECT: every core is held at a break or has reached END (R363). A governor hold, which does not change CLM_HOLD,
then puts the cores into L1 or L2 (R572, R573). -/
def holdTakesEffect (k : Nat) (s : State) : State :=
  let c := claimAt s k
  let cs := coresOf c.quads
  if !(taskLive s k) || !(c.holdReq || c.shed || c.parked) || c.heldHere then s
  else if cs.all fun x => (coreAt s x).seq.run = .held || (coreAt s x).seq.run = .ended then
    let s1 := reportHold k (modClaim s k fun q => { q with heldHere := true })
    let s2 := if c.holdReq then s1 else signal s1 k 17
    if c.shed || c.parked then governorSleep k s2 else s2
  else s

def execHoldTakesEffect (k : ClaimId) (s : State) : Host.Outcome State Fault Refusal := .next (holdTakesEffect k s)

/-- The offset of CLM_HOLD. -/
def holdReg (k : Nat) : Nat := claimsBase + 0x10000 * (k + 1) + 0x20

/-- A write of a claim's page by its function, else an access that R519 counts. -/
def claimWrite (f : FnId) (k off : Nat) (go : State → State) (s : State) : State :=
  if actsFor s f k then go s else denied f off s

/-- A message for every other member, when this module drives a group claim (R545, R547). -/
def forwardGroup (k : Nat) (x : Forwarded) (s : State) : State := if drivesGroup s k then forwardAll x s else s

def holdOn (k : Nat) (s : State) : State :=
  let s1 := modClaim s k fun c => { c with holdReq := true }
  if (claimAt s k).heldHere then reportHold k s1 else s1

/-- Held cores continue from their breaks, in L0 (R542, R543). -/
def resumeCore (c : Nat) (s : State) : State :=
  let s1 := if (coreAt s c).pwr.state = 0 then s else coreWake c s
  if (coreAt s1 c).seq.run = .held then modSeq s1 c fun q => { q with run := .running } else s1

/-- A claim's hold is lifted; its cores stay while the governor holds the claim (R542, R573). -/
def holdOff (k : Nat) (s : State) : State :=
  let c := claimAt s k
  let s1 := modClaim (if c.heldHere then tellHeld k false s else s) k fun q => { q with holdReq := false, held := false }
  if c.shed || c.parked then s1
  else (coresOf c.quads).foldl (fun t x => resumeCore x t) (modClaim s1 k fun q => { q with heldHere := false })

/-- A member says whether the claim is held there (R545). -/
def receiveHeld (k rank : Nat) (held : Bool) (s : State) : State :=
  settleHold k (modClaim s k fun c => { c with
    heldBy := (if held then [rank] else []) ++ c.heldBy.filter fun r => r ≠ rank })

/-- HOLD_REQUEST and HOLD_LIFT (R542, R545). -/
def execHoldRequest (f : FnId) (k : ClaimId) (s : State) : Host.Outcome State Fault Refusal :=
  .next (claimWrite f k (holdReg k) (fun t => forwardGroup k (.hold k) (holdOn k t)) s)

def execHoldLift (f : FnId) (k : ClaimId) (s : State) : Host.Outcome State Fault Refusal :=
  .next (claimWrite f k (holdReg k) (fun t => forwardGroup k (.holdLift k) (holdOff k t)) s)

/-- The running, held or hold-pending task of a claim is cancelled (R544); with none there is no effect. -/
def cancelTask (k : Nat) (s : State) : State := raiseFor k .firmware { name := .hostCancel } s

def execCancel (f : FnId) (k : ClaimId) (s : State) : Host.Outcome State Fault Refusal :=
  .next (claimWrite f k (holdReg k) (fun t => forwardGroup k (.cancel k) (cancelTask k t)) s)

/-- Every ring of a claim disabled. -/
def disableRings (k : Nat) (s : State) : State :=
  modClaim s k fun c => { c with rings := mapTable {} (fun r => { r with enable := false }) c.rings }

/-- FUNCTION_LEVEL_RESET of the bound function (R544). -/
def functionReset (f : FnId) (s : State) : State :=
  match boundClaim s f with
  | some k => disableRings k (forwardGroup k (.cancel (Fin.ofNat 8 k)) (cancelTask k s))
  | none => s

def execFunctionLevelReset (f : FnId) (s : State) : Host.Outcome State Fault Refusal := .next (functionReset f s)

/-- Host writes that PCIe ordering places before a doorbell (R315). -/
def hostWrites (f : FnId) (ws : List HostWrite) (s : State) : State := ws.foldl (fun t w => writeHost t f.val w.iova w.data) s

/-- DOORBELL: the tail of a ring (R534). -/
def execDoorbell (f : FnId) (k : ClaimId) (ring : Fin 16) (tail : Nat) (writes : List HostWrite) (s : State) :
    Host.Outcome State Fault Refusal :=
  .next (claimWrite f k (claimsBase + 0x10000 * (k.val + 1) + 0x800 + 0x20 * ring.val + 0x10) (fun t =>
    modClaim t k fun c => { c with rings := tmod {} c.rings ring fun r => { r with tail := tail % ringSlots r } })
    (hostWrites f writes s))

/-- ATS_INVALIDATION: the pages leave the claim's translation cache, and the host translates them or not from now on
(R402, R522). -/
def atsInvalidate (f : FnId) (page pages : Nat) (mapped : Bool) (s : State) : State :=
  let keep := s.host.unmapped.filter fun r => !(r.1 = f.val && page ≤ r.2.1 && r.2.1 + r.2.2 ≤ page + pages)
  let s1 := { s with host := { s.host with unmapped := if mapped then keep else (f.val, page, pages) :: keep } }
  match boundClaim s f with
  | some k => modClaim s1 k fun c => { c with atc := c.atc.filter fun p => !(page ≤ p && p < page + pages) }
  | none => s1

def execAtsInvalidation (f : FnId) (page pages : Nat) (mapped : Bool) (s : State) : Host.Outcome State Fault Refusal :=
  .next (atsInvalidate f page pages mapped s)

end Sys2Proof.Machine
end

