-- ==== Sys2Proof/Machine/Power.lean ====
section
/-! DEFINITION. Droops and voltage steps (02 R71 to R75, 15 R566), the power states of cores, dies and the module
(15 R593 to R596), estimates and the fast limiter (R552 to R555, R571, R588), and the hardware limits (R586, R587). -/

namespace Sys2Proof.Machine

/-! ### Droops and voltage steps -/

/-- A droop is detected: the clamp is half of the applied pace before it, and a second droop only restarts the hold (R71 to
R73); voltage steps are deferred (R74). -/
def droopStart (s : State) (x : DieState) : DieState :=
  { x with
    droopCount := wrapAdd 32 x.droopCount 1
    droopSeen := true
    droopHold := false
    droopClamp := if x.droopClamp = 0 then max 10 (appliedPace s x / 2) else x.droopClamp
    deferred := if x.droopClamp = 0 && x.vSet ≠ x.vGoal then some x.vGoal else x.deferred
    vGoal := if x.droopClamp = 0 then x.vSet else x.vGoal }

/-- DROOP_DETECT (R71). A droop of a die in L2 or L3, whose beats do not run, has no effect and is not counted: the spec does
not say whether the detector acts there (DESIGN CHOICE, log entry 139). -/
def execDroopDetect (d : DieId) (s : State) : Host.Outcome State Fault Refusal :=
  .next (if dieRuns (dieAt s d) then modDie s d (droopStart s) else s)

/-- DROOP_HOLD_START: the rail is back within its band, and the hold of 2 µs runs (R73). -/
def execDroopHoldStart (d : DieId) (s : State) : Host.Outcome State Fault Refusal :=
  .next (if (dieAt s d).droopClamp = 0 then s else modDie s d fun x => { x with droopHold := true })

/-- The clamp releases, and the deferred voltage request is applied (R73, R74). -/
def droopEnd (x : DieState) : DieState :=
  let y := { x with droopClamp := 0, droopHold := false, deferred := none }
  match x.deferred with
  | some v => requestVolt v y
  | none => y

/-- DROOP_CLAMP_RELEASE (R73). -/
def execDroopClampRelease (d : DieId) (s : State) : Host.Outcome State Fault Refusal :=
  .next (if (dieAt s d).droopClamp ≠ 0 && (dieAt s d).droopHold then modDie s d droopEnd else s)

/-- VOLTAGE_STEP_SETTLE: one step of 12.5 mV (R64, R566). -/
def execVoltageStepSettle (d : DieId) (s : State) : Host.Outcome State Fault Refusal :=
  let x := dieAt s d
  .next (if dieRuns x && x.droopClamp = 0 && x.vSet ≠ x.vGoal then modDie s d settleStep else s)

/-! ### Cores in L0, L1 and L2 (R594, R601) -/

/-- A write of request in CORE_PWR_STATE: it is stored, and takes effect only while the claim is held, else the refused bit is
set (R17, R594, R601). -/
def corePower (f : FnId) (c : CoreId) (level : Nat) (go : State → State) (s : State) : State :=
  coreWrite f c 0x100 (fun k t =>
    let u := modPwr t c fun p => { p with request := level }
    if (claimAt u k).held || shedNow (claimAt u k) then go u else modPwr u c fun p => { p with refused := true }) s

/-- CORE_L0_REQUEST: a core under a governor hold stays where that has put it (R573). -/
def execCoreL0Request (f : FnId) (c : CoreId) (s : State) : Host.Outcome State Fault Refusal :=
  .next (corePower f c 0 (fun t => if (coreAt t c).pwr.govHeld then t else coreWake c t) s)

/-- CORE_L1_REQUEST. -/
def execCoreL1Request (f : FnId) (c : CoreId) (s : State) : Host.Outcome State Fault Refusal :=
  .next (corePower f c 1 (coreSleep 1 false c) s)

/-- CORE_L2_REQUEST. -/
def execCoreL2Request (f : FnId) (c : CoreId) (s : State) : Host.Outcome State Fault Refusal :=
  .next (corePower f c 2 (coreSleep 2 false c) s)

/-! ### Contents lost in L3 and L4 (R133, R205, R284, R595) -/

/-- Tags of a bench whose contents are lost. -/
def freeTags (base n : Nat) : Table Bool :=
  (upFrom 0 n).filterMap fun i => if Config.freeByte (base + i) = 0 then none else some (i, true)

/-- A core whose power is cut: chutes, tiles, wide registers, predicates, bench and tags are lost (entry 21). -/
def loseCore (c : Nat) (s : State) : State :=
  let s1 := looseChutes c s
  let d := s1.draws
  let s2 := modBench s1 c fun b => { b with
    bytes := freeBytes d benchSize, tags := freeTags (d + benchSize) 8192, seals := [], poison := [] }
  let s3 := modMat s2 c fun m => { m with active := {}, activeValid := false, shadow := .empty, shadowTile := {} }
  { (modSeq s3 c fun q => { q with imageId := 0 }) with draws := d + benchSize + 8192 }

/-- The tallies and conveyors homed on a die read 0 and empty (R595). -/
def loseHomes (d : Nat) (s : State) : State :=
  { s with
    tallies := tfill 0 s.tallies (16384 * d) 16384 0
    conveyors := (upFrom (64 * d) 64).foldl (fun m n => tput {} m n {}) s.conveyors }

/-- Images that use the die are no longer resident (R537). -/
def loseImages (d : Nat) (s : State) : State :=
  claimNos.foldl (fun t k => if (upFrom (4 * d) 4).any fun q => inSet (claimAt t k).quads q
    then modClaim t k fun c => { c with image := none } else t) s

def loseDie (d : Nat) (s : State) : State :=
  loseImages d (loseHomes d ((coresOfDie d).foldl (fun t c => loseCore c t) s))

/-- A turn counter whose state is lost. -/
def freeTurn (n : Nat) : TurnCounter :=
  let w (i : Nat) : Nat := (Config.freeWord (n + i)).toNat
  { next := w 0, count := w 1, tally := w 2, tallyEn := w 3 % 2 = 1, rounds := w 4 }

/-- The gallery's bytes and turn counters are lost (R284). -/
def loseGallery (s : State) : State :=
  let d := s.draws
  { s with
    gallery := { s.gallery with
      bytes := freeBytes d galSize, poison := []
      turns := (upFrom 0 512).foldl (fun m t => tput {} m t (freeTurn (d + 8 * t))) [] }
    draws := d + galSize }

/-! ### L3 and L4 (R595, R596) -/

/-- Whether a claim has a task that has started and not ended. -/
def hasTask (s : State) (k : Nat) : Bool := (claimAt s k).task.isSome
def anyTask (s : State) : Bool := claimNos.any (hasTask s)

/-- Whether a claim owns a quad, a gallery bank, a tally or a conveyor on a die (R531, R595). -/
def usesDie (s : State) (k d : Nat) : Bool :=
  let q := claimAt s k
  q.created && ((upFrom (4 * d) 4).any (inSet q.quads) || (upFrom (64 * d) 64).any (inSet q.galBanks) ||
    (q.tallyBase < 16 * (d + 1) && 16 * d < q.tallyBase + q.tallyUnits) ||
    (q.convBase < 8 * (d + 1) && 8 * d < q.convBase + q.convUnits))

/-- A die enters L3. -/
def enterKeep (d : Nat) (s : State) : State :=
  modDie (loseDie d s) d fun x => { x with mode := .keep, natural := 0 }

def dieStateReg (d : Nat) : Nat := powerBase + 0x2300 + 8 * d

/-- DIE_L3_REQUEST: refused while a claim with resources on the die has a task. -/
def execDieL3Request (f : FnId) (d : DieId) (s : State) : Host.Outcome State Fault Refusal :=
  let x := dieAt s d
  .next (if !(isControl s f) then denied f (dieStateReg d) s
    else
      let t := modDie s d fun y => { y with request := 3 }
      if !x.present || x.mode = .keep || x.mode = .off then t
      else if claimNos.any (fun k => usesDie s k d && hasTask s k) then modDie t d fun y => { y with refused := true }
      else enterKeep d (leaveRetain d t))

/-- DIE_L0_REQUEST: a die leaves L3. -/
def execDieL0Request (f : FnId) (d : DieId) (s : State) : Host.Outcome State Fault Refusal :=
  .next (if !(isControl s f) then denied f (dieStateReg d) s
    else modDie s d fun x =>
      if x.present && x.mode = .keep then { x with mode := .run, request := 0 } else { x with request := 0 })

/-- The module enters L4: the dies go off, and the gallery is lost; DRAM is kept; bridges carry nothing (R27, R593, R596). -/
def enterPark (s : State) : State :=
  let s1 := loseGallery ((upFrom 0 8).foldl (fun t d => dropDie d (loseDie d (leaveRetain d t))) s)
  let s2 := mapDies (fun x => { x with
    present := false, mode := .off, natural := 0, vKept := if x.present then x.vSet else x.vKept, vSet := 0
    vGoal := 0, droopClamp := 0, droopHold := false, deferred := none, raiseTo := none }) s1
  modPower s2 fun p => { p with state := 4 }

/-- The module leaves L4: every die that is not off for another reason is up again at the voltage it held. -/
def leavePark (s : State) : State :=
  let back (d : Nat) (t : State) : State := modDie t d fun x =>
    if x.control && !x.tripped && !(inSet s.ras.diesFailed d) then
      { x with present := true, mode := .run, vSet := x.vKept, vGoal := x.vKept }
    else x
  modPower ((upFrom 0 8).foldl (fun t d => back d t) s) fun p => { p with state := 0 }

/-- Whether the module is ready and not parked: boot has finished, main is there (R608). -/
def moduleReady (s : State) : Bool := s.sys.boot.main && s.sys.boot.stage = 6

def moduleStateReg : Nat := powerBase + 0x2340

/-- MODULE_L4_REQUEST. -/
def execModuleL4Request (f : FnId) (s : State) : Host.Outcome State Fault Refusal :=
  .next (if !(isControl s f) then denied f moduleStateReg s
    else
      let t := modPower s fun p => { p with request := 4 }
      if s.power.state = 4 then t
      else if anyTask s then modPower t fun p => { p with refused := true }
      else enterPark t)

/-- MODULE_L0_REQUEST. -/
def execModuleL0Request (f : FnId) (s : State) : Host.Outcome State Fault Refusal :=
  .next (if !(isControl s f) then denied f moduleStateReg s
    else
      let t := modPower s fun p => { p with request := 0 }
      if s.power.state = 4 then leavePark t else t)

/-- HOST_LIMIT_WRITE: ignored without host authority or outside the range (R557, R598). -/
def execHostLimitWrite (f : FnId) (watts : Nat) (s : State) : Host.Outcome State Fault Refusal :=
  .next (if !(isControl s f) then denied f powerBase s
    else if s.power.hostAuth && capInRange s watts then modPower s fun p => applyCap { p with hostLimit := watts }
    else s)

/-! ### Estimates and the fast limiter -/

/-- A die's current in units of 0.125 A, from its estimate in units of 0.125 W. -/
def dieCurrent (est v : Nat) : Nat := if v = 0 then 0 else est * 2000 / v

/-- The 2 µs of an interval are added to each reason that is active (R589). -/
def countReasons (s : State) : State :=
  modPower s fun p => { p with reasons := (upFrom 0 8).foldl (fun m i =>
    if reasonActive s i then tmod 0 m i (fun t => wrapAdd 63 t 2) else m) p.reasons }

/-- A figure scaled by a coefficient scale, in units of 1/4,096 (R555). -/
def scaled (calib n : Nat) : Nat := n * calib / 4096

/-- The estimate of a die over 2 µs, in units of 0.125 W: Σ k_i n_i pJ × (V ÷ 0.70)² ÷ 2 µs, calibrated, plus leakage (R552); 0
without a rail. It is rounded down (DESIGN CHOICE, log entry 140). -/
def dieEstimate (d : Nat) (x : DieState) (counts : List Nat) : Nat :=
  let e := ((upFrom 0 counts.length).zip counts).foldl (fun n c => n + Config.activityEnergy d c.1 * c.2) 0
  if x.vSet = 0 then 0
  else e * x.calib * x.vSet ^ 2 / (4096 * 1400 ^ 2 * 250000) + Config.leakPower d x.vSet x.tMax

/-- One die's part of an interval: its monitors, its activity and its estimate. -/
def dieInterval (e : Estimates) (d : Nat) (x : DieState) : DieState :=
  let n := dieEstimate d x (e.activity.getD d [])
  { (takeNatural (e.monitors.getD d []) x) with
    activity := e.activity.getD d [], estimate := n, current := dieCurrent n x.vSet, estSum := x.estSum + n }

/-- POWER_ESTIMATE_TICK: the estimates of one interval (R61, R552, R553, R599). -/
def execPowerEstimateTick (e : Estimates) (s : State) : Host.Outcome State Fault Refusal :=
  let s1 := (upFrom 0 8).foldl (fun t d => modDie t d (dieInterval e d)) s
  let total := (upFrom 0 8).foldl (fun n d => n + (dieAt s1 d).estimate) 0
  let c (i n : Nat) : Nat := scaled (s.power.calibClass.getD i 4096) n
  let classes := [c 0 e.memory, c 1 e.links, c 2 e.fixed]
  let s2 := modPower s1 fun p => { p with
    estimate := total + classes.foldl (· + ·) 0, estCompute := total, estMemory := classes.getD 0 0
    estLinks := classes.getD 1 0, estFixed := classes.getD 2 0, seq := wrapAdd 16 p.seq 1
    sumClass := (upFrom 0 3).map fun i => p.sumClass.getD i 0 + classes.getD i 0, estTicks := p.estTicks + 1 }
  .next (if moduleReady s then countReasons s2 else s)

/-- Whether a live claim holds a quad of a die (R563, R571). -/
def liveOn (s : State) (d : Nat) : Bool :=
  claimNos.any fun k => hasTask s k && (upFrom (4 * d) 4).any fun q => inSet (claimAt s k).quads q

/-- Whether a die's current exceeds its limit (R588): est / 8 W over v / 2000 V. -/
def overCurrent (s : State) (x : DieState) : Bool := railLimit s * 8 * x.vSet < x.estimate * 2000

/-- The fast limiter's cuts of one die. -/
def limiterCut (s : State) (d : Nat) (tooMuch : Bool) (x : DieState) : DieState :=
  let cut := b2n (tooMuch && liveOn s d && 10 < govTarget x) + b2n (dieRuns x && overCurrent s x)
  { x with assistCut := satAdd 255 x.assistCut cut }

/-- FAST_LIMITER_TICK: hardware in the hub (R571, R588). -/
def execFastLimiterTick (s : State) : Host.Outcome State Fault Refusal :=
  let tooMuch := 8 * s.power.effCap < s.power.estimate && !(anyDie s fun x => x.vGoal < x.vSet)
  let s1 := (upFrom 0 8).foldl (fun t d => modDie t d (limiterCut s d tooMuch)) s
  let bits := (upFrom 0 8).foldl (fun n d => n + (if dieRuns (dieAt s d) && overCurrent s (dieAt s d) then 2 ^ d else 0)) 0
  .next (if moduleReady s then modPower s1 fun p => { p with iccDies := bits } else s)

/-- Coefficients scaled by measured over mean, by at most 1 % (R555), in units of 1/4,096. -/
def calibrated (c mean measured : Nat) : Nat :=
  if mean = 0 then c else min (c * 101 / 100) (max (c * 99 / 100) (c * measured / mean))

/-- Whether a hub control core is stopped (R604). -/
def coreStopped (s : State) (n : Nat) : Bool := inSet s.sys.boot.stopped n

/-- The mean of a sum of the estimates since the last calibration. -/
def meanOf (s : State) (sum : Nat) : Nat := if s.power.estTicks = 0 then 0 else sum / s.power.estTicks

/-- The 1 ms mean of the module estimate (R562). -/
def meanEstimate (s : State) : Nat :=
  meanOf s ((upFrom 0 8).foldl (fun n d => n + (dieAt s d).estSum) 0 + s.power.sumClass.foldl (· + ·) 0)

/-- CALIBRATION_TICK: the coefficients of each die and class, and the length of an excursion (R555, R562). -/
def execCalibrationTick (rails : List Nat) (s : State) : Host.Outcome State Fault Refusal :=
  let s1 := (upFrom 0 8).foldl (fun t d => modDie t d fun x =>
    { x with calib := calibrated x.calib (meanOf s x.estSum) (rails.getD d 0), estSum := 0 }) s
  .next (if !(moduleReady s) || coreStopped s 1 then s
    else modPower s1 fun p => { p with
      calibClass := (upFrom 0 3).map fun i =>
        calibrated (p.calibClass.getD i 4096) (meanOf s (p.sumClass.getD i 0)) (rails.getD (8 + i) 0)
      sumClass := [0, 0, 0], estTicks := 0
      excursion := if 8 * p.effCap < meanEstimate s then satAdd 0xFFFF p.excursion 1 else 0 })

/-- One die's rate correction: one factor for every step, the measured rate over the characterised one of the present step,
and the floor code from it (R566, R567). A rate that has not been read yet corrects nothing. -/
def correctRates (s : State) (x : DieState) : DieState :=
  let r := x.rates.getD (stepOf x.vSet) 0
  if !(dieRuns x) || r = 0 || x.natural = 0 || x.vSet < lowVolt then x
  else
    let y := { x with scaleNum := x.natural, scaleDen := r }
    { y with floorCode := floorCodeOf s y }

/-- The dies' control cores read their monitors (R61). -/
def readMonitors (monitors : List (List Nat)) (s : State) : State :=
  (upFrom 0 8).foldl (fun t d => modDie t d (takeNatural (monitors.getD d []))) s

/-- RATE_CORRECTION_TICK: the natural rates as the dies then measure them (R61), and the correction from them, which HC1
makes. -/
def execRateCorrectionTick (monitors : List (List Nat)) (s : State) : Host.Outcome State Fault Refusal :=
  let t := readMonitors monitors s
  .next (if !(moduleReady s) || coreStopped s 1 then t else mapDies (correctRates t) t)

/-! ### The hardware limits (R586, R587, R669) -/

/-- VR_ALERT_N_ASSERT: no force while main is absent (R693). -/
def execVrAlertAssert (s : State) : Host.Outcome State Fault Refusal :=
  let s1 := modPower s fun p => { p with vrPin := true }
  .next (if s.sys.boot.main then forceAll (modPower s1 fun p => { p with vrAlert := true }) else s1)

/-- PWR_BRAKE_N_ASSERT. -/
def execPwrBrakeAssert (s : State) : Host.Outcome State Fault Refusal :=
  let s1 := modPower s fun p => { p with brakePin := true }
  .next (if s.sys.boot.main then forceAll (modPower s1 fun p => { p with pwrBrake := true }) else s1)

/-- VR_ALERT_N_DEASSERT: the force stays until FORCE_RELEASE. -/
def execVrAlertDeassert (s : State) : Host.Outcome State Fault Refusal :=
  .next (modPower s fun p => { p with vrPin := false })

/-- PWR_BRAKE_N_DEASSERT. -/
def execPwrBrakeDeassert (s : State) : Host.Outcome State Fault Refusal :=
  .next (modPower s fun p => { p with brakePin := false })

/-- The forces that have been without their cause for 100 µs end: those of the pins together (R693), and the input limit's. -/
def endForces (p : PowerState) : PowerState :=
  let pins := p.vrPin || p.brakePin
  { p with vrAlert := p.vrAlert && pins, pwrBrake := p.pwrBrake && pins, inputLimit := p.inputLimit && !p.inputLow }

/-- FORCE_RELEASE: the dies are released once no force is left. -/
def execForceRelease (s : State) : Host.Outcome State Fault Refusal :=
  let s1 := modPower s endForces
  let p := s1.power
  .next (if p.vrAlert || p.pwrBrake || p.inputLimit then s1 else releaseAllDies s1)

/-- INPUT_POWER_SAMPLE: above 900 W or 24 A the limit acts; below 850 W and 22.5 A it may release (R587, R669). -/
def execInputPowerSample (volt amp watts mean : Nat) (s : State) : Host.Outcome State Fault Refusal :=
  let tooMuch := 900 < watts || 2400 < amp
  let s1 := modPower s fun p => { p with
    inVoltage := volt % 65536, inCurrent := amp % 65536, inPower := mean % 65536, inPeak := max p.inPeak (mean % 65536)
    inputLow := watts < 850 && amp < 2250, inputLimit := p.inputLimit || tooMuch }
  .next (if !s.sys.boot.main then s else if tooMuch then forceAll s1 else s1)

/-- FAILSAFE_TIMEOUT: the fail-safe cap replaces the rack cap (R559). -/
def execFailsafeTimeout (s : State) : Host.Outcome State Fault Refusal :=
  .next (if s.power.failsafeTimeout = 0 then s else modPower s fun p => applyCap { p with failsafe := true })

end Sys2Proof.Machine
end

