-- ==== Sys2Proof/Machine/Governor.lean ====
section
/-! DEFINITION. The governor loop (15 R563 to R575, R579), excursions (R562) and pace matching (R576 to R580). -/

namespace Sys2Proof.Machine

/-! ### Demands and preferred points -/

/-- Live claims: a task has started and not ended, held claims included (R563). -/
def liveClaims (s : State) : List Nat := claimNos.filter (hasTask s)

/-- What a preferred code stands for (R569, R602). -/
def phaseCode (s : State) (n : Nat) : Nat := if n = 0 then topCode s else max 10 (min (topCode s) n)

/-- Whether a core runs: not held, not at END. -/
def coreRuns (s : State) (c : Nat) : Bool :=
  match (coreAt s c).seq.run with
  | .running | .waiting | .stalled => true
  | _ => false

/-- A claim's preferred point: the highest preferred code among the current phases of its running cores (R569); code 10
when none runs (entry 94). -/
def preferred (s : State) (k : Nat) : Nat :=
  (((coresOf (claimAt s k).quads).filter (coreRuns s)).map fun c =>
    phaseCode s (tget 0 (claimAt s k).phases (coreAt s c).seq.phase)).foldl max 10

/-- An estimate in units of 0.125 W in whole watts, rounded up. -/
def inWatts (n : Nat) : Nat := (n + 7) / 8

/-- A claim's quads on a die. -/
def quadsOn (s : State) (k d : Nat) : Nat := ((upFrom (4 * d) 4).filter (inSet (claimAt s k).quads)).length

/-- The claim that the quads without an owner are charged to: the one with most quads on the die, the lower number on a tie
(R570). -/
def chargedClaim (s : State) (d : Nat) : Option Nat :=
  (claimNos.filter fun k => 0 < quadsOn s k d).foldl (fun a k => match a with
    | some b => if quadsOn s b d < quadsOn s k d then some k else some b
    | none => some k) none

/-- The quads of a die that a claim's predicted power counts: its own, and those without an owner if they are charged to it. -/
def quadsCharged (s : State) (k d : Nat) : Nat :=
  quadsOn s k d + (if chargedClaim s d = some k then 4 - claimNos.foldl (fun n x => n + quadsOn s x d) 0 else 0)

/-- The predicted power of a claim at a pace code, in W: for each die it uses, its part of the die's (R570); none where
firmware has no prediction. -/
def claimPower (s : State) (p : Forecast) (k n : Nat) : Option Nat :=
  ((upFrom 0 8).foldl (fun a d => a.bind fun sum =>
    if quadsOn s k d = 0 then some sum
    else ((p.dies.getD d [])[n - 10]?).map fun w => sum + w * quadsCharged s k d) (some 0)).map fun q => inWatts (q / 4)

/-- A claim's demand: its predicted power at its preferred point (R564). -/
def demandOf (s : State) (p : Forecast) (k : Nat) : Nat := (claimPower s p k (preferred s k)).getD 0

/-- The demand of the compute class (R564). -/
def computeDemand (s : State) (p : Forecast) : Nat := (liveClaims s).foldl (fun n k => n + demandOf s p k) 0

/-! ### Class budgets (R563, R564) -/

/-- The floors in force: links, memory, compute. -/
def floorsOf (s : State) (p : Forecast) : List Nat :=
  [max s.power.linksFloor p.linksFloor, max s.power.memFloor p.memFloor, max s.power.compFloor p.compFloor]

def demandsOf (s : State) (p : Forecast) : List Nat :=
  [inWatts s.power.estLinks, inWatts s.power.estMemory, computeDemand s p]

/-- The L1 floor of the module (R563). -/
def moduleFloor (s : State) (p : Forecast) : Nat := inWatts s.power.estFixed + (floorsOf s p).foldl (· + ·) 0

/-- The budgets of the classes in a priority order, from what is left of λ (R572). -/
def budgetsOf (floors demands : List Nat) : List Nat → Nat → List Nat → List Nat
  | [], _, got => got
  | k :: ks, spare, got =>
    let extra := min (demands.getD k 0 - floors.getD k 0) spare
    budgetsOf floors demands ks (spare - extra) (setAt got k (floors.getD k 0 + extra))

/-- The classes in the priority order of GOV_CLASS_CTRL. -/
def classOrder (p : PowerState) : List Nat := [p.first, p.second, p.third]

/-- The budgets of links, memory and compute. -/
def classBudgets (s : State) (p : Forecast) (lam : Nat) : List Nat :=
  let f := floorsOf s p
  budgetsOf f (demandsOf s p) (classOrder s.power) (lam - moduleFloor s p) f

/-! ### The split (R570, R572) -/

/-- A claim's part in the split: its number, quads, demand, and what it is given. -/
structure Part where
  claim : Nat
  quads : Nat
  demand : Nat
  give : Nat
  deriving DecidableEq, Repr

def givenSum (ps : List Part) : Nat := ps.foldl (fun n p => n + p.give) 0

/-- One watt each for the first `n` parts below their demand, in ascending claim number (entry 95). -/
def oneEach : Nat → List Part → List Part
  | _, [] => []
  | 0, ps => ps
  | n + 1, p :: ps => if p.give < p.demand then { p with give := p.give + 1 } :: oneEach n ps else p :: oneEach (n + 1) ps

/-- One round of sharing the rest in proportion to quads, none above its demand. -/
def shareRound (rest : Nat) (ps : List Part) : List Part :=
  let q := (ps.filter fun p => p.give < p.demand).foldl (fun n p => n + p.quads) 0
  let next := ps.map fun p =>
    if p.give < p.demand then { p with give := p.give + min (p.demand - p.give) (rest * p.quads / q) } else p
  if givenSum next = givenSum ps then oneEach rest ps else next

def shareRest (b : Nat) : Nat → List Part → List Part
  | 0, ps => ps
  | fuel + 1, ps =>
    if b ≤ givenSum ps || ps.all (fun p => p.demand ≤ p.give) then ps else shareRest b fuel (shareRound (b - givenSum ps) ps)

/-- What each live claim is given of the compute budget. -/
def split (s : State) (p : Forecast) (b : Nat) : List Part :=
  let ps : List Part := (liveClaims s).map fun k =>
    ⟨k, setCount 32 (claimAt s k).quads, demandOf s p k, min (claimAt s k).share (demandOf s p k)⟩
  let sum := givenSum ps
  if b < sum then ps.map fun x => { x with give := x.give * b / sum } else shareRest b 32 ps

/-! ### Targets (R572) -/

/-- The highest code up to the preferred point whose predicted power is within what the claim is given, if any; else 10. -/
def paceOf (s : State) (p : Forecast) (x : Part) : Nat :=
  ((((upFrom 10 (preferred s x.claim - 9)).reverse).find? fun n => (claimPower s p x.claim n).any fun w => w ≤ x.give)).getD 10

/-- Whether a claim owns a quad of a die. -/
def onDie (s : State) (k d : Nat) : Bool := (upFrom (4 * d) 4).any fun q => inSet (claimAt s k).quads q

/-- The lowest of a list of codes. -/
def lowestCode (xs : List Nat) : Option Nat := match xs with
  | [] => none
  | x :: r => some (r.foldl min x)

/-- The target of a die: the lowest pace of its live claims, a shed one with the pace it had; the floor code without one (R572;
log entry 108). -/
def targetOf (s : State) (d : Nat) : Nat :=
  let ks := (liveClaims s).filter fun k => onDie s k d && (claimAt s k).pace ≠ 0
  (lowestCode (ks.map fun k => (claimAt s k).pace)).getD (dieAt s d).floorCode

/-- The loop writes one die's target, and asks for the voltage of the lowest of it and the clamps (R566, R572, R579). It
does not raise a die whose current is cut (R588). -/
def writeDie (s : State) (d : Nat) : State :=
  modDie s d fun x =>
    if !(dieRuns x) then x
    else
      let t := targetOf s d
      let n := if inSet s.power.iccDies d then min t x.fwTarget else t
      writeTarget n (voltFor s x (limited (limited n x.thermalClamp) x.matchTarget)) x

/-! ### Shedding and parking (R572 to R575) -/

/-- Claims with a governor hold. -/
def govClaims (s : State) : List Nat := claimNos.filter fun k => (claimAt s k).shed || (claimAt s k).parked

/-- A governor hold is pending: requested, and not in effect. -/
def shedPending (s : State) : Bool := (govClaims s).any fun k => hasTask s k && !(claimAt s k).heldHere

/-- The first of a list of claims by a strict order. -/
def pickClaim (better : Nat → Nat → Bool) : List Nat → Option Nat
  | [] => none
  | k :: ks => some (ks.foldl (fun a b => if better b a then b else a) k)

/-- A governor hold is requested; where the claim is held already, its cores go down at once. -/
def govHold (k : Nat) (park : Bool) (s : State) : State :=
  let s1 := modClaim s k fun c => if park then { c with parked := true, shed := false } else { c with shed := true }
  if (claimAt s k).heldHere then governorSleep k s1 else s1

/-- The governor's hold is lifted: the cores return to L0, and run on unless the host holds the claim (R573, R597). -/
def govLift (k : Nat) (s : State) : State :=
  let s1 := modClaim s k fun c => { c with shed := false, parked := false }
  let cs := coresOf (claimAt s k).quads
  if (claimAt s k).holdReq then
    cs.foldl (fun t c => if (coreAt t c).pwr.govHeld then coreWake c t else t) s1
  else cs.foldl (fun t c => resumeCore c t) (modClaim s1 k fun c => { c with heldHere := false })

/-- shed() of R572. -/
def shedOne (s : State) : State :=
  if shedPending s then s
  else
    let cs := (liveClaims s).filter fun k => !(claimAt s k).shed && !(claimAt s k).parked
    let s1 := match pickClaim (fun a b => (claimAt s a).prio < (claimAt s b).prio ||
        ((claimAt s a).prio = (claimAt s b).prio && b < a)) cs with
      | some k => govHold k false s
      | none => s
    modPower s1 fun p => { p with capUnmet := true, unmetReason := if cs.isEmpty then 3 else p.unmetReason }

/-- unshed() of R572; a pending hold is withdrawn (R597). -/
def unshedOne (p : Forecast) (lam : Nat) (s : State) : State :=
  let s1 := ((govClaims s).filter fun k => hasTask s k && !(claimAt s k).heldHere).foldl (fun t k => govLift k t) s
  let s2 := match pickClaim (fun a b => (claimAt s1 b).prio < (claimAt s1 a).prio ||
      ((claimAt s1 a).prio = (claimAt s1 b).prio && a < b)) (govClaims s1) with
    | some k => if 100 * p.predictedUnshed ≤ 95 * lam then govLift k s1 else s1
    | none => s1
  if (govClaims s2).isEmpty then modPower s2 fun x => { x with capUnmet := false } else s2

/-- park(): every live claim is held in L2. -/
def parkAll (s : State) : State := (liveClaims s).foldl (fun t k => govHold k true t) s

/-- The L1 floor is met again: parked claims become shed claims, their cores in L1. -/
def unparkAll (s : State) : State :=
  (claimNos.filter fun k => (claimAt s k).parked).foldl (fun t k =>
    let t1 := modClaim t k fun c => { c with parked := false, shed := true }
    if (claimAt t k).heldHere then governorSleep k t1 else t1) s

/-- Whether some live claim that is not shed is paced below a floor code of its dies (R574). -/
def pacedLow (s : State) : Bool := (liveClaims s).any fun k =>
  !(claimAt s k).shed && (upFrom 0 8).any fun d => onDie s k d && (claimAt s k).pace < (dieAt s d).floorCode

/-- The reason of R574 after a run of the loop. -/
def unmetOf (s : State) (tooMuch : Bool) : Nat :=
  if s.power.belowFloor then 4
  else if tooMuch && (liveClaims s).all (fun k => (claimAt s k).shed && (claimAt s k).heldHere) then 3
  else if shedPending s then 2
  else if pacedLow s then 1
  else 0

/-! ### The loop -/

/-- The claims' parts of the split, and the paces of those that are not shed (entry 108). -/
def writeClaims (p : Forecast) (parts : List Part) (s : State) : State :=
  parts.foldl (fun t x => modClaim t x.claim fun c => { c with
    budget := x.give, pref := preferred s x.claim, pace := if c.shed then c.pace else paceOf s p x
    predicted := if c.shed then 0
      else (claimPower s p x.claim (paceOf s p x)).getD 0 }) s

/-- Whether the loop holds some die or claim below its preferred point (R589). -/
def belowPreferred (s : State) : Bool := (liveClaims s).any fun k => (claimAt s k).pace < (claimAt s k).pref

/-- The loop above the L1 floor. -/
def loopBody (p : Forecast) (lam : Nat) (s : State) : State :=
  let s0 := if s.power.belowFloor then unparkAll s else s
  let b := classBudgets s0 p lam
  let s1 := modPower s0 fun x => { x with
    belowFloor := false, budgetLinks := b.getD 0 0, budgetMemory := b.getD 1 0, budgetCompute := b.getD 2 0
    dramM := max 8 (min 64 p.dramCeiling), haulGbs := max 1 (min 100 p.haulCeiling)
    demand := inWatts x.estFixed + (demandsOf s p).foldl (· + ·) 0 }
  let s2 := writeClaims p (split s1 p (b.getD 2 0)) s1
  let s3 := (upFrom 0 8).foldl (fun t d => writeDie t d) s2
  let tooMuch := lam < p.predicted || 10 ≤ s.power.excursion
  let s4 := if tooMuch then shedOne s3 else unshedOne p lam s3
  modPower s4 fun x => { x with unmetReason := unmetOf s4 tooMuch, below := belowPreferred s4 }

/-- GOVERNOR_LOOP (R572); HC1 runs it (R603, R604). -/
def execGovernorLoop (p : Forecast) (s : State) : Host.Outcome State Fault Refusal :=
  let lam := limitOf s.power.effCap
  .next (if !(moduleReady s) || coreStopped s 1 || s.power.state = 4 then s
    else if lam < moduleFloor s p then
      modPower (parkAll s) fun x => { x with belowFloor := true, unmetReason := 4 }
    else loopBody p lam s)

/-- EXCURSION_REPORT: an excursion has reached 10 ms (R562). -/
def execExcursionReport (s : State) : Host.Outcome State Fault Refusal :=
  .next (if s.power.excursion < 10 then s
    else
      let s1 := modPower s fun p => { p with excursionRpt := true }
      let s2 := shedOne s1
      if coreStopped s 1 then s1 else modPower s2 fun p => { p with unmetReason := unmetOf s2 true })

/-! ### Pace matching (R576 to R580) -/

/-- The matched dies: those with a quad of a group claim that has match set. -/
def matchedDies (s : State) : List Nat :=
  if s.group.stage ≠ .formed && s.group.stage ≠ .reforming then []
  else (upFrom 0 8).filter fun d => claimNos.any fun k =>
    (claimAt s k).created && (claimAt s k).group && (claimAt s k).matchOn && onDie s k d

/-- The achievable code: the lowest governor target and thermal clamp of the matched dies (R577). -/
def achievable (s : State) : Option Nat :=
  lowestCode ((matchedDies s).map fun d => limited (govTarget (dieAt s d)) (dieAt s d).thermalClamp)

/-- A message of group firmware for every other member. -/
def tellAll (m : GroupMsg) (s : State) : State :=
  (otherMembers s).foldl (fun t r => { t with group := { t.group with sent := (r, m) :: t.group.sent } }) s

/-- ACHIEVABLE_CODE_REPORT (R577). -/
def execAchievableCodeReport (s : State) : Host.Outcome State Fault Refusal :=
  .next (if coreStopped s 1 then s
    else match achievable s with
      | some n => tellAll (.code n) (modPower s fun p => { p with own := n })
      | none => s)

/-- MATCH_REPORT_RECEIVE: a member's achievable code (R577, R578). -/
def execMatchReportReceive (rank : Rank) (code : Nat) (s : State) : Host.Outcome State Fault Refusal :=
  .next (if (otherMembers s).contains rank.val && code ≠ 0 then
      modPower s fun p => { p with reports := tput 0 p.reports rank.val (code % 256) }
    else s)

/-- A period ends: the matched dies take the lowest code of the reports received and the own one; without a report of
another member the match target is cleared (R578). -/
def matchBoundary (s : State) : State :=
  let got := s.power.reports.map fun e => e.2
  let m := if got.isEmpty || (matchedDies s).isEmpty then 0
    else got.foldl min (if s.power.own = 0 then 255 else s.power.own)
  let s1 := (upFrom 0 8).foldl (fun t d => modDie t d fun x => { x with
    matchTarget := if (matchedDies s).contains d then m else 0 }) s
  modPower s1 fun p => { p with
    groupMin := m, matchActive := m ≠ 0, periods := wrapAdd 16 p.periods 1
    missed := satAdd 0xFFFF p.missed ((otherMembers s).length - got.length), reports := [] }

/-- Whether this module is in a group that matches paces. -/
def grouped (s : State) : Bool := decide (s.group.stage = .formed) || decide (s.group.stage = .reforming)

/-- The lowest live rank: the lowest that is not declared failed. -/
def lowestLive (s : State) : Option Nat := (upFrom 0 s.group.members).find? fun r => !(s.group.failed.contains r)

/-- GRP_SYNC_DRIVE: the member of lowest rank drives a pulse (R578, R682). Every member, the driver too, sees it as
GRP_SYNC_PULSE. -/
def execGrpSyncDrive (s : State) : Host.Outcome State Fault Refusal :=
  .next (if grouped s && lowestLive s = some s.group.rank && s.sys.boot.main then
      { s with group := { s.group with pulses := s.group.pulses + 1 } }
    else s)

/-- GRP_SYNC_PULSE: a low level of 0.5 µs to 2 µs is a pulse (R681). -/
def execGrpSyncPulse (low : Nat) (s : State) : Host.Outcome State Fault Refusal :=
  .next (if grouped s && 5 ≤ low && low ≤ 20 then matchBoundary (modPower s fun p => { p with ownPulse := false }) else s)

/-- GRP_SYNC_TIMEOUT: no pulse for 200 µs; the member uses its own boundaries (R578). -/
def execGrpSyncTimeout (s : State) : Host.Outcome State Fault Refusal :=
  .next (if grouped s then matchBoundary (modPower s fun p => { p with ownPulse := true }) else s)

end Sys2Proof.Machine
end

