-- ==== Sys2Proof/Machine/Thermal.lean ====
section
/-! DEFINITION. Temperatures, thermal clamps and ceilings (15 R581 to R584, R600, R701). Temperatures are in units of
0.125 °C. The trips of R585 are in `Ras`. -/

namespace Sys2Proof.Machine

/-- The hottest of a list of sensors. -/
def hottest : List Int → Int
  | [] => 0
  | x :: xs => xs.foldl max x

/-- The lowest index of the hottest sensor. -/
def hotIndex (xs : List Int) : Nat := ((upFrom 0 xs.length).find? fun i => xs[i]? = some (hottest xs)).getD 0

/-- The mean, rounded down. -/
def meanTemp (xs : List Int) : Int := xs.foldl (· + ·) 0 / (xs.length : Int)

/-- The thermal clamp after a reading `t` (R581); 105 °C also asks for 0.55 V. -/
def clampStep (s : State) (t : Int) (x : DieState) : DieState :=
  let on : Int := s.therm.onset
  if 840 ≤ t then requestVolt lowVolt { x with thermalClamp := 10 }
  else if on + 8 ≤ t then
    { x with thermalClamp := max 10 ((if x.thermalClamp = 0 then appliedPace s x else x.thermalClamp) - 1) }
  else if x.thermalClamp ≠ 0 && t ≤ on - 8 then
    { x with thermalClamp := if topCode s ≤ x.thermalClamp + 1 then 0 else x.thermalClamp + 1 }
  else x

/-- THERM_TRIP_N stays asserted while some tripped die is at 95 °C or above (R585). -/
def tripHeld (s : State) : Bool := anyDie s fun x => x.tripped && 760 ≤ x.tMax

/-- THERMAL_SAMPLE: the 24 sensors of a die; a die that is off is read by HC3 (R581, R701). -/
def execThermalSample (d : DieId) (sensors : List Int) (s : State) : Host.Outcome State Fault Refusal :=
  let t := hottest sensors
  let s1 := modDie s d fun x =>
    let y := { x with tMax := t, tMean := meanTemp sensors, hotSensor := hotIndex sensors }
    if x.present then clampStep s t y else y
  .next (if sensors.length ≠ 24 || !s.sys.boot.main || s.sys.boot.stage < 3 then s
    else { s1 with therm := { s1.therm with tripPin := s1.therm.tripPin && tripHeld s1 } })

/-- A stack's ceiling after a reading: halved from the ceiling in force at 95 °C or above, doubled below 90 °C up to the
budget's (R583). -/
def stackStep (s : State) (t : Int) (x : StackTherm) : StackTherm :=
  let y := { x with tMax := t, refresh2x := 680 < t }
  if coreStopped s 1 then y
  else if 760 ≤ t then { y with ceiling := max 8 (min x.ceiling s.power.dramM / 2) }
  else if t < 720 then { y with ceiling := max x.ceiling (if s.power.dramM ≤ 2 * x.ceiling then 64 else 2 * x.ceiling) }
  else y

/-- DRAM_THERMAL_TICK (R583). -/
def execDramThermalTick (s0 s1 : Int) (s : State) : Host.Outcome State Fault Refusal :=
  let ts := tmod {} (tmod {} s.therm.stackSet 0 (stackStep s s0)) 1 (stackStep s s1)
  .next (if s.sys.boot.main && 3 ≤ s.sys.boot.stage then { s with therm := { s.therm with stackSet := ts } } else s)

/-- HUB_THERMAL_TICK: both ceilings are halved at 105 °C or above, and restored below 100 °C (R584). -/
def execHubThermalTick (t : Int) (s : State) : Host.Outcome State Fault Refusal :=
  let x := { s.therm with hubMax := t }
  let y := if coreStopped s 1 then x
    else if 840 ≤ t then { x with
      hubThrottle := true
      hubDram := max 8 (min x.hubDram s.power.dramM / 2), hubHaul := max 1 (min x.hubHaul s.power.haulGbs / 2) }
    else if t < 800 then { x with hubThrottle := false, hubDram := 64, hubHaul := 100 }
    else x
  .next (if s.sys.boot.main && 3 ≤ s.sys.boot.stage then { s with therm := y } else s)

end Sys2Proof.Machine
end

