-- ==== Sys2Proof/Machine/FirmOps.lean ====
section
/-! DEFINITION. Image selection (16 R606, R607) and the resets of the whole module (16 R625, R626). -/

namespace Sys2Proof.Machine

def modSys (s : State) (f : ModuleState → ModuleState) : State := { s with sys := f s.sys }
def modFlash (s : State) (f : FlashState → FlashState) : State := modSys s fun y => { y with flash := f y.flash }
def modFirm (s : State) (f : FirmState → FirmState) : State := modSys s fun y => { y with firm := f y.firm }
def modBoot (s : State) (f : BootState → BootState) : State := modSys s fun y => { y with boot := f y.boot }

/-! ### Image selection -/

/-- Whether an image is valid (R606). -/
def imageValid (floor : Nat) (i : Option FwImage) : Bool := i.any fun x => x.genuine && floor ≤ x.security

def imageOf (f : FlashState) (b : Bool) : Option FwImage := if b then f.imageB else f.imageA
def versionOf (i : Option FwImage) : Nat := (i.map fun x => x.version).getD 0

/-- Whether the boot record is read from its second copy: the copy with a good CRC, the higher sequence number if both are good
(R607). -/
def readsCopyB (f : FlashState) : Bool := f.copyB.good && (!f.copyA.good || f.copyA.seq < f.copyB.seq)

/-- The boot record (R607): image A, not on trial, when neither copy is good. -/
def bootRecord (f : FlashState) : BootRecord :=
  if readsCopyB f then f.copyB else if f.copyA.good then f.copyA else {}

/-- The boot record is written: over the copy that is not read, so that the other can be used if aux is lost meanwhile (R627;
DEDUCED, log entry 143), with the next sequence number. -/
def putBootRecord (activeB trial : Bool) (count : Nat) (f : FlashState) : FlashState :=
  let r : BootRecord := { seq := (bootRecord f).seq + 1, activeB := activeB, trial := trial, trialCount := count }
  if readsCopyB f then { f with copyA := r } else { f with copyB := r }

/-- The boot record after its trial count is examined: an image that has failed twice is abandoned (R607). -/
def abandonTrial (y : ModuleState) : ModuleState :=
  let r := bootRecord y.flash
  if r.trial && 2 ≤ r.trialCount then
    { y with
      flash := putBootRecord (!r.activeB) false 0 y.flash
      firm := { y.firm with fallback := 2, abandoned := versionOf (imageOf y.flash r.activeB) } }
  else y

/-- Boot an image of the flash. -/
def bootImage (b : Bool) (y : ModuleState) : ModuleState :=
  { y with firm := { y.firm with version := versionOf (imageOf y.flash b), imageB := b, trial := (bootRecord y.flash).trial && b = (bootRecord y.flash).activeB } }

/-- Step 1 of the boot: the management island selects and verifies an image, or stays in recovery (R607, R610). -/
def selectImage (y : ModuleState) : ModuleState :=
  let y1 := abandonTrial { y with firm := {} }
  let floor := y1.ident.secFloor
  let r := bootRecord y1.flash
  let a := r.activeB
  if imageValid floor (imageOf y1.flash a) then
    let y2 := bootImage a y1
    { y2 with
      flash := if r.trial then putBootRecord a true (r.trialCount + 1) y1.flash else y1.flash
      boot := { y2.boot with stage := 1, recovery := false } }
  else if imageValid floor (imageOf y1.flash (!a)) then
    let y2 := bootImage (!a) { y1 with firm := { y1.firm with fallback := 1 } }
    { y2 with boot := { y2.boot with stage := 1, recovery := false } }
  else { y1 with boot := { y1.boot with stage := 0, recovery := true } }

/-! ### The persistent log (R660) -/

/-- Entries that firmware has not copied yet go to the persistent log of 262,144 entries. -/
def persistLog (r : RasState) : RasState :=
  { r with
    plog := (r.plog ++ r.unsaved).drop (r.plog.length + r.unsaved.length - 262144)
    plogTotal := wrapAdd 32 r.plogTotal r.unsaved.length
    unsaved := [] }

/-- An array's entry of a fence. -/
def arrayFence (e : LogEntry) : Bool := e.kind = 7 && e.fault = 10

/-- What the Errors and RAS block holds after a reset: the persistent log and what it shows (R625, R659). Discarded
withdrawals and fences are gone (ERR_PERSIST). -/
def rasAfter (r : RasState) : RasState :=
  let keep (e : LogEntry) : Bool := !(r.dropWithdrawals && e.kind = 9) && !(r.dropFences && arrayFence e)
  let plog := r.plog.filter keep
  { plog := plog, plogTotal := r.plogTotal, boots := r.boots
    quadsWithdrawn := if r.dropWithdrawals then 0 else r.quadsWithdrawn
    galWithdrawn := if r.dropWithdrawals then 0 else r.galWithdrawn
    dramWithdrawn := if r.dropWithdrawals then 0 else r.dramWithdrawn
    withdrawnRec := plog.any fun e => e.kind = 9
    fenceRec := plog.any arrayFence }

/-! ### Resets -/

/-- What a reset that restarts the firmware keeps: the outside's memory and pins, flash and fuses, straps, the persistent
log, and the port addresses of the configuration record (R605, R625). -/
def clearedState (s : State) : State :=
  { pending := s.pending, draws := s.draws, host := s.host, answer := s.answer
    ras := rasAfter s.ras
    haul := { ports := mapTable {} (fun e => ({ mac := e.mac, ip := e.ip } : EthPort)) s.haul.ports }
    power := { rackCap := s.sys.flash.bootCap, hostLimit := envelope s, effCap := min s.sys.flash.bootCap (envelope s)
               vrPin := s.power.vrPin, brakePin := s.power.brakePin }
    therm := { hubTrip := s.therm.hubTrip }
    sys := { ident := s.sys.ident, flash := s.sys.flash, boot := s.sys.boot
             links := mapTable {} (fun x => { x with up := false }) s.sys.links } }

/-- A main cycle or module reset keeps the rack cap, the fail-safe cap and timeout, and host authority (R625). -/
def restarted (s : State) : State :=
  let t := clearedState s
  let p := s.power
  { t with power := applyCap { t.power with
      rackCap := p.rackCap, failsafeCap := p.failsafeCap, failsafeTimeout := p.failsafeTimeout, hostAuth := p.hostAuth } }

/-- The firmware restarts: the boot record is read again. -/
def restart (s : State) : State :=
  let t := restarted s
  modSys t fun y => selectImage { y with boot := { y.boot with stage := 0, standby := false, stopped := 0 } }

/-- A module reset (R625, R626): entries of the log that are not copied yet are copied first. -/
def moduleReset (s : State) : State := restart { s with ras := persistLog s.ras }

/-- Every live task is cancelled, and its record written (R626, R655). -/
def cancelAll (e : Engine) (i : FaultInfo) (s : State) : State :=
  claimNos.foldl (fun t k =>
    if hasTask t k then abortTask k (fieldOf (Config.freeDetail t.draws) 31 0) { (raiseFor k e i t) with draws := (raiseFor k e i t).draws + 1 }
    else t) s

end Sys2Proof.Machine
end

