-- ==== Sys2Proof/Machine/ClaimOps.lean ====
section
/-! DEFINITION. Which units are free, and what a creation request is granted (14 R524 to R527, R551; 17 R636, R649). -/

namespace Sys2Proof.Machine

/-! ### Free units -/

def dieUp (s : State) (d : Nat) : Bool := (dieAt s d).present

/-- The claims that exist. -/
def createdClaims (s : State) : List Nat := claimNos.filter fun k => (claimAt s k).created

/-- Whether unit `u` of a range from `base` of `n` units of some claim is taken. -/
def rangeTaken (s : State) (base count : Claim → Nat) (u : Nat) : Bool :=
  (createdClaims s).any fun k => base (claimAt s k) ≤ u && u < base (claimAt s k) + count (claimAt s k)

def quadFree (s : State) (q : Nat) : Bool := dieUp s (q / 4) && quadSpare s q
def bankFree (s : State) (b : Nat) : Bool :=
  dieUp s (b / 64) && (bankOwner s b).isNone && !(inSet s.ras.galWithdrawn b)
def regionFree (s : State) (r : Nat) : Bool :=
  (regionOwner s r).isNone && !(inSet s.ras.dramWithdrawn r) && !(inSet s.ras.dramLost r) && !(inSet s.dram.zeroing r)
/-- Tallies in units of 1,024, 16 on a die; conveyors in units of 8, 8 on a die; turn counters, 64 on a die. -/
def tallyFree (s : State) (u : Nat) : Bool :=
  dieUp s (u / 16) && !(rangeTaken s (fun q => q.tallyBase) (fun q => q.tallyUnits) u)
def convFree (s : State) (u : Nat) : Bool := dieUp s (u / 8) && !(rangeTaken s (fun q => q.convBase) (fun q => q.convUnits) u)
def turnFree (s : State) (u : Nat) : Bool := dieUp s (u / 64) && !(rangeTaken s (fun q => q.turnBase) (fun q => q.turnCount) u)
def winFree (s : State) (u : Nat) : Bool := !(rangeTaken s (fun q => q.winBase) (fun q => q.winCount) u)
def streamFree (s : State) (u : Nat) : Bool := !(rangeTaken s (fun q => q.streamBase) (fun q => q.streamCount) u)
def qpFree (s : State) (u : Nat) : Bool := !(rangeTaken s (fun q => q.qpBase) (fun q => q.qpCount) u)
def hubMoverFree (s : State) (n : Nat) : Bool := (ownerBy s fun q => inSet q.hubMovers n).isNone
def collMoverFree (s : State) (n : Nat) : Bool :=
  (ownerBy s fun q => inSet q.collMovers n).isNone && !(inSet s.ras.collFenced n)

/-- Free units among the first `n`, and how many there are. -/
def freeUnits (n : Nat) (free : Nat → Bool) : List Nat := (upFrom 0 n).filter free
def countFree (n : Nat) (free : Nat → Bool) : Nat := (freeUnits n free).length

/-- Pool slots that no claim has reserved (R441). -/
def sumpLeft (s : State) : Nat := 512 - (createdClaims s).foldl (fun n k => n + (claimAt s k).sump) 0

/-- The power that shares may still take: the envelope less 35 W (R568). -/
def sharesTaken (s : State) : Nat := (createdClaims s).foldl (fun n k => n + (claimAt s k).share) 0

/-- Runs of free units: for each unit below `n`, how many free units begin there. -/
def freeRuns (free : Nat → Bool) (n : Nat) : List Nat :=
  (upFrom 0 n).foldr (fun u r => (if free u then r.headD 0 + 1 else 0) :: r) []

/-- The first unit of a free range of `m` units: one whose first unit is preferred, lowest first, else the lowest. -/
def findRange (n m : Nat) (free prefer : Nat → Bool) : Option Nat :=
  if m = 0 then some 0
  else
    let starts := ((upFrom 0 n).zip (freeRuns free n)).filterMap fun x => if m ≤ x.2 then some x.1 else none
    match starts.find? prefer with
    | some u => some u
    | none => starts.head?

/-- A set of units as a number. -/
def setOf (us : List Nat) : Nat := us.foldl setWith 0

/-! ### A creation request (R526, R551) -/

/-- What a request asks for. -/
structure Request where
  claim : Nat
  fn : Nat
  standby : Option Nat
  group : Bool
  /-- The claim is created here for another member's host port, and has no function (R548). -/
  remote : Bool
  quads : Nat
  mem : W64
  sync : W64
  share : Nat
  /-- The ranges that the group host port module chose for every member (R527); none chosen yet. -/
  bases : List Nat := []
  deriving DecidableEq, Repr

def reqBanks (r : Request) : Nat := fieldOf r.mem 63 54
def reqDies (r : Request) : Nat := fieldOf r.mem 53 46
def reqDram (r : Request) : Nat := fieldOf r.mem 45 38
def reqTurns (r : Request) : Nat := fieldOf r.mem 37 28
def reqWins (r : Request) : Nat := fieldOf r.mem 27 19
def reqHub (r : Request) : Nat := fieldOf r.mem 18 14
def reqColl (r : Request) : Nat := fieldOf r.mem 13 9
def reqTallies (r : Request) : Nat := fieldOf r.sync 63 56
def reqConvs (r : Request) : Nat := fieldOf r.sync 55 49
def reqSump (r : Request) : Nat := fieldOf r.sync 48 39
def reqStreams (r : Request) : Nat := fieldOf r.sync 38 26
def reqQps (r : Request) : Nat := fieldOf r.sync 25 13

/-- Whether a die holds a quad of the request. -/
def reqOnDie (r : Request) (d : Nat) : Bool := (upFrom (4 * d) 4).any (inSet r.quads)

/-- The banks that a request may be given, in order (R524). -/
def bankPool (s : State) (r : Request) : List Nat :=
  let own := (upFrom 0 8).filter (reqOnDie r)
  let pref := (upFrom 0 8).filter fun d => !(reqOnDie r d) && inSet (reqDies r) d
  (own ++ pref).flatMap fun d => (upFrom (64 * d) 64).filter (bankFree s)

/-- Whether a function is bound to a claim, or registered as a standby. -/
def fnTaken (s : State) (f : Nat) : Bool := (createdClaims s).any fun k =>
  ((claimAt s k).fn = f && !((claimAt s k).group && s.group.hostRank ≠ s.group.rank)) || (claimAt s k).standby = some f

def fnFree (s : State) (f : Nat) : Bool := (tget {} s.functions f).present && !(fnTaken s f)

/-- Whether the function, and the standby on the other port, may be bound (R525). -/
def fnFits (s : State) (r : Request) : Bool :=
  r.remote || (fnFree s r.fn && match r.standby with
    | some g => fnFree s g && (tget {} s.functions g).link / 2 ≠ (tget {} s.functions r.fn).link / 2
    | none => true)

/-- Whether a request with the group bit may be granted (R527, 16 R627). -/
def groupGrant (s : State) (r : Request) : Bool :=
  !r.group || (s.group.stage = .formed && (r.remote || s.group.hostRank = s.group.rank))

/-- A range for a request: the `i`-th of those chosen for the group where it is free here, else one of its own (R527). -/
def chosenRange (r : Request) (i n m : Nat) (free prefer : Nat → Bool) : Option Nat :=
  match r.bases[i]? with
  | some b => if b + m ≤ n && (upFrom b m).all free then some b else none
  | none => findRange n m free prefer

/-- The ranges that a request is given. -/
def tallyRange (s : State) (r : Request) : Option Nat :=
  chosenRange r 0 128 (reqTallies r) (tallyFree s) fun u => reqOnDie r (u / 16)
def convRange (s : State) (r : Request) : Option Nat :=
  chosenRange r 1 64 (reqConvs r) (convFree s) fun u => reqOnDie r (u / 8)
def turnRange (s : State) (r : Request) : Option Nat := chosenRange r 2 512 (reqTurns r) (turnFree s) fun _ => true
def winRange (s : State) (r : Request) : Option Nat := chosenRange r 3 256 (reqWins r) (winFree s) fun _ => true
def streamRange (s : State) (r : Request) : Option Nat := chosenRange r 4 4096 (reqStreams r) (streamFree s) fun _ => true
def qpRange (s : State) (r : Request) : Option Nat := chosenRange r 5 4096 (reqQps r) (qpFree s) fun _ => true

/-- The bases of the ranges that a request is given. -/
def basesOf (s : State) (r : Request) : List Nat :=
  [tallyRange s r, convRange s r, turnRange s r, winRange s r, streamRange s r, qpRange s r].map fun x => x.getD 0

/-- The first resource that cannot be granted, and how many of it are free (R526, R551). -/
def claimRefusal (s : State) (r : Request) : Option (Nat × Nat) :=
  let quads := unitsOf 32 r.quads
  firstSome (fun x : Bool × Nat × Nat => if x.1 then none else some x.2) [
    (!(claimAt s r.claim).created, 2, 8 - (createdClaims s).length),
    (fnFits s r, 3, countFree 8 (fnFree s)),
    (quads.all (quadFree s), 4, countFree 32 (quadFree s)),
    (reqBanks r ≤ (bankPool s r).length, 5, countFree 512 (bankFree s)),
    (reqDram r ≤ countFree 225 (regionFree s), 6, countFree 225 (regionFree s)),
    ((turnRange s r).isSome, 7, countFree 512 (turnFree s)),
    ((winRange s r).isSome, 8, countFree 256 (winFree s)),
    (reqHub r ≤ countFree 16 (hubMoverFree s), 9, countFree 16 (hubMoverFree s)),
    (reqColl r ≤ countFree 16 (collMoverFree s), 10, countFree 16 (collMoverFree s)),
    ((tallyRange s r).isSome, 11, countFree 128 (tallyFree s)),
    ((convRange s r).isSome, 12, countFree 64 (convFree s)),
    (reqSump r ≤ sumpLeft s, 13, sumpLeft s),
    ((streamRange s r).isSome, 14, countFree 4096 (streamFree s)),
    ((qpRange s r).isSome, 15, countFree 4096 (qpFree s)),
    (groupGrant s r, 16, 0),
    (sharesTaken s + r.share ≤ envelope s - 35, 17, envelope s - 35 - sharesTaken s)]

/-- The claim that a request is given. -/
def grantedClaim (s : State) (r : Request) : Claim :=
  { created := true, fn := r.fn, standby := r.standby, group := r.group, unbound := r.remote, quads := r.quads
    galBanks := setOf ((bankPool s r).take (reqBanks r))
    dram := setOf ((freeUnits 225 (regionFree s)).take (reqDram r))
    tallyBase := (tallyRange s r).getD 0, tallyUnits := reqTallies r
    convBase := (convRange s r).getD 0, convUnits := reqConvs r
    turnBase := (turnRange s r).getD 0, turnCount := reqTurns r
    winBase := (winRange s r).getD 0, winCount := reqWins r
    hubMovers := setOf ((freeUnits 16 (hubMoverFree s)).take (reqHub r))
    collMovers := setOf ((freeUnits 16 (collMoverFree s)).take (reqColl r))
    sump := reqSump r
    streamBase := (streamRange s r).getD 0, streamCount := reqStreams r
    qpBase := (qpRange s r).getD 0, qpCount := reqQps r, share := r.share }

/-- Collective movers show the claim that owns them (12 R484). -/
def showCollMovers (s : State) (k set : Nat) : State :=
  (unitsOf 16 set).foldl (fun t n => modCollMover n (fun m => { m with claim := k }) t) s

/-- Turn counters of a range at their initial state (R268, R284). -/
def clearTurns (base n : Nat) (s : State) : State :=
  { s with gallery := { s.gallery with turns := (upFrom base n).foldl (fun m t => tput {} m t {}) s.gallery.turns } }

/-- Grant a request that nothing refuses, and recompute the slot tables (R528); its turn counters are at their initial state
(R268). -/
def grantClaim (r : Request) (s : State) : State :=
  let q := grantedClaim s r
  let s1 := clearTurns q.turnBase q.turnCount { s with claims := tput {} s.claims r.claim q }
  recomputeSlots (showCollMovers s1 r.claim q.collMovers)

end Sys2Proof.Machine
end

