-- ==== Sys2Proof/Machine/Claims.lean ====
section
/-! DEFINITION. Creating and destroying claims (14 R526 to R529; 07 R284, R286; 08 R330). -/

namespace Sys2Proof.Machine

def modReq (s : State) (f : ClaimReq → ClaimReq) : State := { s with claimReq := f s.claimReq }

/-- CLM_REQ_CTRL as written (R551). -/
def storeCtrl (w : W64) (q : ClaimReq) : ClaimReq :=
  { q with claim := fieldOf w 63 61, fn := fieldOf w 60 58, standbyEn := bitOf w 57, standby := fieldOf w 56 54
           group := bitOf w 53 }

/-- What CLM_REQ_STATUS shows of the last request. -/
def reqAnswer (k result free : Nat) (q : ClaimReq) : ClaimReq :=
  { q with result := result, lastClaim := k, free := min 0xFFFF free, busy := false }

/-- The request that the registers spell. -/
def requestOf (q : ClaimReq) : Request :=
  { claim := q.claim, fn := q.fn, standby := if q.standbyEn then some q.standby else none, group := q.group
    remote := false, quads := q.quads, mem := q.mem, sync := q.sync, share := q.share }

/-- The registers of a request as words, for the other members (R527). -/
def ctrlWord (q : ClaimReq) : W64 :=
  placed q.claim 61 ||| placed q.fn 58 ||| flagAt q.standbyEn 57 ||| placed q.standby 54 ||| flagAt q.group 53
def forwardedRequest (q : ClaimReq) (bases : List Nat) : Forwarded :=
  .claimCreate (ctrlWord q) (placed q.quads 0) q.mem q.sync (placed q.share 54) bases

/-- A creation request that nothing stands against any more is granted in full, or refused with nothing changed. -/
def createHere (r : Request) (s : State) : State :=
  match claimRefusal s r with
  | some x => modReq s (reqAnswer r.claim x.1 x.2)
  | none => modReq (grantClaim r s) (reqAnswer r.claim 1 0)

/-- A creation request; one with the group bit that may be granted here goes to every other member, and waits for their answers
(R527). -/
def createClaim (s : State) : State :=
  let r := requestOf s.claimReq
  if r.group && (claimRefusal s r).isNone && !(otherMembers s).isEmpty then
    modReq (forwardAll (forwardedRequest s.claimReq (basesOf s r)) s) fun q =>
      { q with busy := true, waiting := 4, awaiting := otherMembers s }
  else createHere r s

/-- The request of a group is decided: granted once every member has granted it, else refused by every member with reason 16
(R527). -/
def decideCreate (s : State) : State :=
  let r := requestOf s.claimReq
  let undo (t : State) : State := forwardAll (.claimDestroy (Fin.ofNat 8 r.claim)) t
  if s.claimReq.waiting ≠ 4 || !s.claimReq.awaiting.isEmpty then s
  else
    let s1 := createHere r (modReq s fun q => { q with waiting := 0 })
    if s1.claimReq.result = 1 then s1 else undo s1

/-- A member's answer to a creation request of the group. -/
def receiveAnswer (k rank : Nat) (granted : Bool) (s : State) : State :=
  if s.claimReq.waiting ≠ 4 || s.claimReq.claim ≠ k || !(s.claimReq.awaiting.contains rank) then s
  else if granted then
    decideCreate (modReq s fun q => { q with awaiting := q.awaiting.filter fun r => r ≠ rank })
  else
    modReq (forwardAll (.claimDestroy (Fin.ofNat 8 k)) s) fun q => { reqAnswer k 16 0 q with waiting := 0, awaiting := [] }

/-- CLAIM_CREATE: a control function writes CLM_REQ_CTRL with op 1; while HC0 is stopped the request waits (R604). -/
def execClaimCreate (f : FnId) (ctrl : W64) (s : State) : Host.Outcome State Fault Refusal :=
  .next (if !(isControl s f) then denied f claimsBase s
    else if s.claimReq.busy then s
    else
      let s1 := modReq s (storeCtrl ctrl)
      if coreStopped s 0 then modReq s1 fun q => { q with busy := true, waiting := 1 } else createClaim s1)

/-! ### Destroying -/

/-- A claim's windows are closed (R425, R428). -/
def closeWindows (k : Nat) (s : State) : State :=
  (upFrom (claimAt s k).winBase (claimAt s k).winCount).foldl (fun t w => setWindow t w { windowAt t w with kind := 0 }) s

/-- Tallies of a range set to 0, conveyors emptied with depth 32 (R284, R330). -/
def clearTallies (base n : Nat) (s : State) : State :=
  { s with tallies := tfill 0 s.tallies (1024 * base) (1024 * n) 0 }
def clearConveyors (base n : Nat) (s : State) : State :=
  { s with conveyors := (upFrom (8 * base) (8 * n)).foldl (fun m c => tput {} m c {}) s.conveyors }

/-- The gallery banks of a set zeroed. -/
def zeroBanks (set : Nat) (s : State) : State :=
  (unitsOf 512 set).foldl (fun t b => zeroGal t (galBankSize * b) galBankSize) s

/-- Haul streams and queue pairs of a claim are idle again. -/
def clearHaul (k : Nat) (s : State) : State :=
  let q := claimAt s k
  let h := s.haul
  { s with haul := { h with
      movers := mapTable [] (fun m => m.filter fun x => !(q.streamBase ≤ x.stream && x.stream < q.streamBase + q.streamCount)) h.movers
      streams := (upFrom q.streamBase q.streamCount).foldl (fun m n => tput {} m n {}) h.streams
      qps := (upFrom q.qpBase q.qpCount).foldl (fun m n => tput {} m n {}) h.qps } }

/-- The sump slots of a claim are free: its barrier slots and its pool slots (R441). -/
def clearSump (k : Nat) (s : State) : State :=
  let mine := (upFrom (64 * k) 64) ++ (s.fabric.sump.filter fun e => e.2.acquired = some k).map fun e => e.1
  let s1 := mine.foldl (fun t i => setSump t i {}) s
  { s1 with coll := { s1.coll with barriers := tput [] s1.coll.barriers k [] } }

/-- The claim's cores, zeroed and in L0. -/
def clearCores (k : Nat) (s : State) : State :=
  (coresOf (claimAt s k).quads).foldl (fun t c => coreWake c (zeroCore c t)) s

/-- The memory and the objects of a claim, set as R284, R286 and R330 give. -/
def clearOwned (k : Nat) (s : State) : State :=
  let q := claimAt s k
  let s1 := clearHaul k (clearSump k (clearCores k s))
  let s2 := clearTurns q.turnBase q.turnCount (zeroBanks q.galBanks s1)
  let s3 := clearConveyors q.convBase q.convUnits (clearTallies q.tallyBase q.tallyUnits s2)
  { s3 with dram := { s3.dram with zeroing := s3.dram.zeroing ||| q.dram } }

/-- A number that the spec leaves outside the promise, drawn for a record's elapsed field (R540). -/
def freeElapsed (s : State) : Nat := fieldOf (Config.freeDetail s.draws) 31 0

/-- A running or held task is cancelled at once (R529, R544). -/
def cancelNow (k : Nat) (s : State) : State :=
  if hasTask s k then
    let s1 := cancelTask k s
    abortTask k (freeElapsed s1) { s1 with draws := s1.draws + 1 }
  else s

/-- Whether a window of the claim has accepted an access that is not performed yet. -/
def windowsBusy (s : State) (k : Nat) : Bool := (upFrom (claimAt s k).winBase (claimAt s k).winCount).any (windowBusy s)

/-- The memory and objects of a claim cleared, and its resources returned (R529). -/
def endClaim (k : Nat) (s : State) : State :=
  let s1 := clearWaits k s
  let s2 := modSys (clearOwned k s1) fun y => { y with rings := tput none y.rings k none }
  recomputeSlots { s2 with claims := tput {} s2.claims k {} }

/-- A claim is destroyed (R529): its task cancelled, its windows closed; its memory and objects are cleared once every access
that its windows accepted has been performed (R428). -/
def destroyClaim (k : Nat) (s : State) : State :=
  let s1 := closeWindows k (cancelNow k s)
  if windowsBusy s1 k then modClaim s1 k fun c => { c with destroying := true } else endClaim k s1

/-- A claim that was being destroyed is gone; a request that waited for it is answered. -/
def endDestroy (k : Nat) (s : State) : State :=
  let t := endClaim k s
  if t.claimReq.waiting = 3 && t.claimReq.claim = k then modReq t fun q => { reqAnswer k 1 0 q with waiting := 0 } else t

/-- The claims that are being destroyed and whose windows are no longer busy. -/
def endDestroys (s : State) : State :=
  claimNos.foldl (fun t k => if (claimAt t k).destroying && !(windowsBusy t k) then endDestroy k t else t) s

/-- A destroy request; a claim that does not exist is a refusal of the claim number (entry 96). -/
def destroyRequest (s : State) : State :=
  let k := s.claimReq.claim
  if !(claimAt s k).created then modReq s (reqAnswer k 2 (8 - (createdClaims s).length))
  else
    let s1 := if drivesGroup s k then forwardAll (.claimDestroy (Fin.ofNat 8 k)) s else s
    let s2 := destroyClaim k s1
    if (claimAt s2 k).destroying then modReq s2 fun q => { q with busy := true, waiting := 3 }
    else modReq s2 (reqAnswer k 1 0)

/-- CLAIM_DESTROY: a control function writes CLM_REQ_CTRL with op 2. -/
def execClaimDestroy (f : FnId) (ctrl : W64) (s : State) : Host.Outcome State Fault Refusal :=
  .next (if !(isControl s f) then denied f claimsBase s
    else if s.claimReq.busy then s
    else
      let s1 := modReq s (storeCtrl ctrl)
      if coreStopped s 0 then modReq s1 fun q => { q with busy := true, waiting := 2 } else destroyRequest s1)

/-- A request that waited for HC0 is served (R604). -/
def serveWaitingRequest (s : State) : State :=
  match s.claimReq.waiting with
  | 1 => createClaim (modReq s fun q => { q with waiting := 0 })
  | 2 => destroyRequest (modReq s fun q => { q with waiting := 0 })
  | _ => s

end Sys2Proof.Machine
end

