-- ==== Sys2Proof/Machine/MailboxOps.lean ====
section
/-! DEFINITION. The firmware mailbox (16 R618, R619). -/

namespace Sys2Proof.Machine

def pageAt (s : State) (f : Nat) : MbxPage := tget {} s.sys.pages f
def setPage (s : State) (f : Nat) (p : MbxPage) : State := modSys s fun y => { y with pages := tput {} y.pages f p }

/-- A list of words put at the indices from `i`. -/
def putWords (i : Nat) (ws : List W64) (t : Table W64) : Table W64 := tputN 0 t i ws

/-- A command completes: its result, and its results in MBX_DATA from DATA`i`. -/
def finishPage (f code seq result i : Nat) (data : List W64) (s : State) : State :=
  let p := pageAt s f
  setPage s f { p with cmd := code, reqSeq := seq, data := putWords i data p.data, result := result, seq := seq
                       busy := false, done := true }

/-- A command is in progress on the page. -/
def busyPage (f code seq : Nat) (s : State) : State :=
  let p := pageAt s f
  setPage s f { p with cmd := code, reqSeq := seq, busy := true }

/-- A mailbox command of a function: ignored while another is in progress on its page; while HC0 is stopped it waits, and
runs when it is presented again (R604, R618). -/
def mailbox (f : FnId) (code : Nat) (seq : BitVec 16) (go : State → State) (s : State) : State :=
  let p := pageAt s f
  let forming := s.group.forming && s.group.formPage = f.val
  let waits := p.busy && p.cmd = code && p.reqSeq = seq.toNat && !forming
  if !(functionAt s f).present || (p.busy && !waits) then s
  else if coreStopped s 0 then busyPage f code seq.toNat s
  else go s

/-- A command that completes at once with a result. -/
def answerCommand (f : FnId) (code : Nat) (seq : BitVec 16) (r : Nat × State) : State :=
  finishPage f code seq.toNat r.1 0 [] r.2

/-- A command of a control function alone: result 2 for others. -/
def controlCommand (f : FnId) (code : Nat) (seq : BitVec 16) (go : State → Nat × State) (s : State) : State :=
  mailbox f code seq (fun t => answerCommand f code seq (if isControl t f then go t else (2, t))) s

end Sys2Proof.Machine
end

