-- ==== Sys2Proof/Machine/Ras.lean ====
section
/-! DEFINITION. Failures of dies, stacks, the hub and control cores, trips, scrubbing and the persistent log
(15 R585; 16 R604; 17 R634, R652 to R656, R660). -/

namespace Sys2Proof.Machine

/-! ### Scrubbing (R634, R635) -/

/-- A scrub finds an uncorrectable word: it is poisoned and logged, and no task aborts. -/
def scrubPoison (cls : Nat) (address : W64) (s : State) : State :=
  let s1 := countErr cls (fun c => { c with ue := satAdd 0xFFFF c.ue 1 }) (modRas s fun r => { r with ue := true })
  addLog { kind := 3, cls := cls, address := address, detail := Config.freeDetail s1.draws &&& 0xFFFFFFFFFFFF }
    { s1 with draws := s1.draws + 1 }

/-- Whether a request waits at a slice port for a gallery bank. -/
def bankAwaited (s : State) (b : Nat) : Bool :=
  (upFrom 0 19).any fun p => (sliceAt s (19 * (b / 64) + p)).pending.any fun r => r.unit = b

/-- Whether a word may be scrubbed: its bank or region is powered, a bench word's claim runs no task, no request waits for the
gallery bank, and firmware's request for the DRAM unit has been granted (R634). -/
def mayScrub (s : State) : MemWord → Bool
  | .bench c w =>
    8 * w < benchSize && (dieAt s (dieOf c)).present && !(taskOn s c) &&
      !(inSet (coreAt s c).bench.off (benchBank (8 * w))) && inSet (coreAt s c).bench.ready (benchBank (8 * w))
  | .gallery w => 8 * w < galSize && inSet s.gallery.ready (galBank (8 * w)) && dieUp s (galBank (8 * w) / 64) &&
      !(bankAwaited s (galBank (8 * w)))
  | .dram u => 64 * u < dramSize && inSet s.dram.ready (dramRegion (64 * u)) && s.ras.stacksFailed = 0 &&
      !(parkedFor s .firmware (.dram (64 * u)))

/-- SCRUB_ACCESS. -/
def scrub (w : MemWord) (ecc : Ecc) (s : State) : State :=
  if !(mayScrub s w) then s
  else match ecc, w with
    | .clean, _ => s
    | .corrected, .bench c i => correctedBench c i s
    | .corrected, .gallery i => correctedGal i s
    | .corrected, .dram u => correctedDram u s
    | .uncorrectable, .bench c i => scrubPoison 1 (benchPlace c (8 * i)) (poisonBench c i s)
    | .uncorrectable, .gallery i => scrubPoison 3 (galPlace (8 * i)) (poisonGal i s)
    | .uncorrectable, .dram u => scrubPoison 6 (dramPlace (64 * u)) (poisonDram u s)


/-! ### A C-die fails (R531, R652, R653) -/

/-- The slice of a die: its banks and the turn counters homed there are lost. -/
def loseSlice (d : Nat) (s : State) : State :=
  let n := 64 * galBankSize
  let x := s.draws
  { s with
    gallery := { s.gallery with
      bytes := (s.gallery.bytes.filter fun e => e.1 < d * n) ++
        (freeBytes x n).map (fun e => (d * n + e.1, e.2)) ++ (s.gallery.bytes.filter fun e => (d + 1) * n ≤ e.1)
      poison := s.gallery.poison.filter fun e => galSlice (8 * e.1) ≠ d
      turns := (upFrom (64 * d) 64).foldl (fun m t => tput {} m t (freeTurn (x + 8 * t))) s.gallery.turns }
    draws := x + n }

/-- Whether a claim has a turn counter homed on a die. -/
def turnsOn (q : Claim) (d : Nat) : Bool := q.turnBase < 64 * (d + 1) && 64 * d < q.turnBase + q.turnCount

/-- A quad of a failed die is replaced (R648); whether it could be. -/
def replaceQuad (k q : Nat) (x : Bool × State) : Bool × State :=
  match replacement x.2 k q with
  | some _ => (x.1, remapQuad k q x.2)
  | none => (false, x.2)

/-- The free banks that may replace some of a claim: of its own dies first, then of any. -/
def spareBanks (s : State) (k : Nat) : List Nat :=
  let own := (upFrom 0 8).filter fun d => onDie s k d
  (own ++ (upFrom 0 8).filter fun d => !(onDie s k d)).flatMap fun d => (upFrom (64 * d) 64).filter (bankFree s)

/-- The banks of a claim on a failed die are replaced by free ones. -/
def replaceBanks (k d : Nat) (x : Bool × State) : Bool × State :=
  let s := x.2
  let gone := (upFrom (64 * d) 64).filter (inSet (claimAt s k).galBanks)
  let new := (spareBanks s k).take gone.length
  if new.length < gone.length then (false, s)
  else (x.1, modClaim s k fun q => { q with galBanks := setMinus q.galBanks (setOf gone) ||| setOf new })

/-- A range of a claim that reaches the failed die is replaced by a free one of the same size. -/
def replaceRange (on : Bool) (start : Option Nat) (put : Nat → State → State) (x : Bool × State) : Bool × State :=
  if !on then x
  else match start with
    | some b => (x.1, put b x.2)
    | none => (false, x.2)

def replaceTallies (k d : Nat) (x : Bool × State) : Bool × State :=
  let s := x.2
  let q := claimAt s k
  replaceRange (q.tallyBase < 16 * (d + 1) && 16 * d < q.tallyBase + q.tallyUnits)
    (findRange 128 q.tallyUnits (tallyFree s) fun u => onDie s k (u / 16))
    (fun b t => modClaim (clearTallies b q.tallyUnits (clearTallies q.tallyBase q.tallyUnits t)) k fun c => { c with tallyBase := b }) x

def replaceConvs (k d : Nat) (x : Bool × State) : Bool × State :=
  let s := x.2
  let q := claimAt s k
  replaceRange (q.convBase < 8 * (d + 1) && 8 * d < q.convBase + q.convUnits)
    (findRange 64 q.convUnits (convFree s) fun u => onDie s k (u / 8))
    (fun b t => modClaim (clearConveyors b q.convUnits (clearConveyors q.convBase q.convUnits t)) k fun c => { c with convBase := b }) x

def replaceTurns (k d : Nat) (x : Bool × State) : Bool × State :=
  let s := x.2
  let q := claimAt s k
  replaceRange (turnsOn q d) (findRange 512 q.turnCount (turnFree s) fun _ => true)
    (fun b t => modClaim (clearTurns b q.turnCount (clearTurns q.turnBase q.turnCount t)) k fun c => { c with turnBase := b }) x

/-- A claim is given replacements for what it had on a failed die; one that is not whole is impaired (R652). -/
def replaceAll (k d : Nat) (s : State) : State :=
  let quads := (upFrom (4 * d) 4).filter (inSet (claimAt s k).quads)
  let r := replaceTurns k d (replaceConvs k d (replaceTallies k d (replaceBanks k d
    (quads.foldl (fun x q => replaceQuad k q x) (true, s)))))
  let s1 := modClaim r.2 k fun q => { q with image := none }
  if r.1 then s1
  else addLog { kind := 17, claim := some k, fault := faultCode .dieTrip, die := d }
    (modClaim s1 k fun q => { q with impaired := some .dieTrip })

/-- Exports into the slice of a failed die are fenced (R653). -/
def cutWindows (d : Nat) (s : State) : State :=
  modFabric s fun x => { x with windows := mapTable {} (fun v =>
    let p := placeOf v.w1
    if v.kind = 1 && p.space = 1 && p.off < sliceSize * (d + 1) && sliceSize * d < p.off + fieldOf v.w2 63 16 then
      { v with cut := true } else v) x.windows }

/-- The running task of a claim with resources on the die aborts with DIE_TRIP (R531). -/
def tripTask (k : Nat) (s : State) : State :=
  if hasTask s k then
    let s1 := raiseFor k .firmware { name := .dieTrip } s
    abortTask k (freeElapsed s1) { s1 with draws := s1.draws + 1 }
  else s

/-- A C-die fails: its rail is cut, the tasks of claims with resources on it abort, and each is given replacements. -/
def failDie (d : Nat) (s : State) : State :=
  let ks := claimNos.filter fun k => usesDie s k d || ((claimAt s k).created && turnsOn (claimAt s k) d)
  let hit := claimNos.filter fun k => usesDie s k d
  let s1 := modDie s d fun x => { x with
    present := false, mode := .off, natural := 0, vSet := 0, vGoal := 0, droopClamp := 0, droopHold := false
    deferred := none, raiseTo := none, thermalClamp := 0, matchTarget := 0 }
  let s2 := addLog { kind := 10, die := d }
    (modRas s1 fun r => { r with diesFailed := setWith r.diesFailed d, die := true })
  let s3 := hit.foldl (fun t k => tripTask k t) s2
  let s4 := cutWindows d (dropDie d (loseSlice d (loseDie d s3)))
  let s5 := ks.foldl (fun t k => replaceAll k d t) s4
  if s5.claims = s4.claims then s5 else recomputeSlots s5

/-- DIE_FAIL: loss of the rail regulator's output, or an uncorrectable error in the die's control state. -/
def execDieFail (d : DieId) (s : State) : Host.Outcome State Fault Refusal :=
  .next (if (dieAt s d).present then failDie d s else s)

/-- DIE_THERMAL_TRIP: a comparator at 120 °C cuts the rail and asserts THERM_TRIP_N (R585). A die that trips in boot step 4
or 5 stays off (R627). -/
def thermalTrip (d : Nat) (s : State) : State :=
  let x := dieAt s d
  if x.vSet = 0 then s
  else
    let s1 := if x.present then failDie d s else modDie s d fun y => { y with mode := .off, vSet := 0, vGoal := 0 }
    let s2 := modDie s1 d fun y => { y with tripped := true }
    { s2 with therm := { s2.therm with
        tripPin := true, tripSeen := setWith s2.therm.tripSeen d, trips := satAdd 0xFFFF s2.therm.trips 1 } }

def execDieThermalTrip (d : DieId) (s : State) : Host.Outcome State Fault Refusal := .next (thermalTrip d s)

/-! ### Stacks, the hub, the module (R654, R655) -/

/-- Whether a receiver of an open stream needs a spill copy. -/
def needsSpill (x : HaulRecv) : Bool := !x.shed && !x.finished && (!x.spill.isEmpty || !x.toSpill.isEmpty)

/-- Receivers that need a spill copy are shed with cause 2. -/
def shedSpills (s : State) : State :=
  s.haul.streams.foldl (fun t e =>
    match streamOwner t e.1 with
    | none => t
    | some k =>
      if (streamAt t e.1).state ≠ 1 then t
      else (upFrom 0 (streamAt t e.1).recvs.length).foldl (fun u r =>
        if needsSpill (recvAt (streamAt u e.1) r) then shedRecv k e.1 r 2 u else u) t) s

/-- A DRAM stack fails: every region is lost until the next module reset. -/
def failStack (n : Nat) (s : State) : State :=
  let s1 := addLog { kind := 11, die := n, cls := 6 } (modRas s fun r => { r with
    stacksFailed := setWith r.stacksFailed n, die := true, dramLost := 2 ^ 225 - 1 })
  let s2 := claimNos.foldl (fun t k =>
    if hasTask t k && (claimAt t k).dram ≠ 0 then raiseFor k .firmware { name := .memUe, reason := 8 } t else t) s1
  shedSpills s2

/-- A stack that has met uncorrectable errors at 16 distinct units within 1 s fails (R654). -/
def stackCheck (s : State) : State :=
  (upFrom 0 2).foldl (fun t n =>
    if !(inSet t.ras.stacksFailed n) && 16 ≤ (t.dram.ueUnits.filter fun u => dramStack (64 * u.1) = n).length then failStack n t
    else t) s

/-- SCRUB_ACCESS. -/
def execScrubAccess (w : MemWord) (ecc : Ecc) (s : State) : Host.Outcome State Fault Refusal := .next (stackCheck (scrub w ecc s))

/-- DRAM_ACCESS (R276, R277, R632, R654). -/
def execDramAccess (eng : Engine) (offset len : Nat) (data : List Byte) (ecc : Ecc) (s : State) :
    Host.Outcome State Fault Refusal :=
  .next (stackCheck (dramAccess eng offset len data ecc s))

/-- STACK_FAIL (R654): a stack that was in use. -/
def execStackFail (n : Fin 2) (s : State) : Host.Outcome State Fault Refusal :=
  .next (if s.dram.ready = 0 || inSet s.ras.stacksFailed n then s else failStack n s)

/-- MODULE_FAULT: every live task is cancelled with MEM_UE, reason 10, the fault is logged, and the module is reset; in
recovery only the LED shows it (R655, R693). -/
def moduleFault (s : State) : State :=
  let lit (t : State) : State := modBoot t fun b => { b with faulted := true }
  if !s.sys.boot.main then s
  else if s.sys.boot.recovery then lit s
  else moduleReset (lit (addLog { kind := 15 } (cancelAll .firmware { name := .memUe, reason := 10 } s)))

def execModuleFault (s : State) : Host.Outcome State Fault Refusal := .next (moduleFault s)

/-- With all 16 adders fenced the sump is failed, which is a module fault (R651). -/
def sumpCheck (s t : State) : State :=
  if s.ras.sumpFenced ≠ 0xFFFF && t.ras.sumpFenced = 0xFFFF then moduleFault t else t

/-- SUMP_CONTRIBUTE. -/
def execSumpContribute (k : ClaimId) (i : SlotId) (part : Nat) (data : List Byte) (upset : Option AdderErr) (s : State) :
    Host.Outcome State Fault Refusal :=
  .next (sumpCheck s (sumpContribute k i part data upset s))

/-- SUMP_ATOMIC. -/
def execSumpAtomic (k : ClaimId) (i : SlotId) (op : RedOp) (ty : RedType) (data : List Byte) (upset : Option AdderErr)
    (s : State) : Host.Outcome State Fault Refusal :=
  .next (sumpCheck s (sumpAtomic k i op ty data upset s))

/-- HUB_THERMAL_TRIP: every main rail is cut, and the module stays off until a main cycle (R585, R655, R683). -/
def hubTrip (s : State) : State :=
  let t := restarted s
  { (modBoot t fun b => { b with stage := 0, hubOff := true, stopped := 0 }) with
    therm := { t.therm with hubTrip := true } }

def execHubThermalTrip (s : State) : Host.Outcome State Fault Refusal :=
  .next (if s.sys.boot.main && !s.sys.boot.hubOff then hubTrip s else s)

/-! ### Pins that show failures (R683, R684) -/

/-- THERM_TRIP_N is asserted: by a C-die trip, or by a hub trip until main is removed. -/
def tripAsserted (s : State) : Bool := s.sys.boot.aux && (s.therm.tripPin || s.therm.hubTrip)

/-- FAULT_LED shows the first condition that holds: a module fault, recovery at 1 Hz, a failed C-die or stack at 4 Hz. -/
def faultLed (s : State) : LedShow :=
  if !s.sys.boot.aux then .off
  else if s.sys.boot.faulted then .on
  else if s.sys.boot.recovery then .slow
  else if s.ras.diesFailed ≠ 0 || s.ras.stacksFailed ≠ 0 then .fast
  else .off

/-! ### Control cores (R604, R656) -/

/-- A formation in progress ends with a result, and nothing has changed (R604, R613). -/
def endForming (result : Nat) (data : List W64) (s : State) : State :=
  if s.group.forming then
    let s1 := { s with group := { s.group with stage := .none, forming := false, answered := [] } }
    finishPage s.group.formPage 6 s.group.formSeq result 0 data s1
  else s

/-- CONTROL_CORE_WATCHDOG: a hub core stops and restarts within 50 ms; a second expiry within 1 s resets the module; a C-die
control core that stops fails its die (R39). -/
def controlCoreWatchdog (n sinceLast : Nat) (s : State) : State :=
  if 4 ≤ n then
    let d := n - 4
    if (dieAt s d).present then modDie (failDie d s) d fun x => { x with control := false } else s
  else if s.sys.boot.stage < 3 || !s.sys.boot.main then s
  else if sinceLast < 1000 then moduleReset s
  else
    let s1 := modBoot s fun b => { b with stopped := setWith b.stopped n }
    let s2 := if n = 2 then addLog { kind := 15, unit := 2 } s1 else s1
    if n = 0 || n = 2 then endForming 9 [] s2 else s2

def execControlCoreWatchdog (n : Fin 12) (sinceLast : Nat) (s : State) : Host.Outcome State Fault Refusal :=
  .next (controlCoreWatchdog n sinceLast s)

/-- CONTROL_CORE_RESTARTED: what waited for HC0 is served. -/
def execControlCoreRestarted (n : Fin 4) (s : State) : Host.Outcome State Fault Refusal :=
  let s1 := modBoot s fun b => { b with stopped := setWithout b.stopped n }
  .next (if n.val = 0 && coreStopped s 0 then serveWaitingRequest s1 else s1)

/-- LOG_PERSIST: entries of the persistent kinds are copied to flash (R660). -/
def execLogPersist (s : State) : Host.Outcome State Fault Refusal :=
  .next (if coreStopped s 3 then s else { s with ras := persistLog s.ras })

end Sys2Proof.Machine
end

