-- ==== Sys2Proof/Machine/GroupOps.lean ====
section
/-! DEFINITION. Membership of a group: plans, joining, leaving, control, and the re-formation (16 R611 to R617; 11 R417, R429,
R447; 12 R480; 14 R549). -/

namespace Sys2Proof.Machine

def modGroup (s : State) (f : GroupState → GroupState) : State := { s with group := f s.group }

/-- A message of group firmware to a rank, or to the far end of link `n` as 64 + n. -/
def sendMsg (target : Nat) (m : GroupMsg) (s : State) : State := modGroup s fun g => { g with sent := (target, m) :: g.sent }

/-- A message over every trained link (R613). -/
def tellLinks (m : GroupMsg) (s : State) : State :=
  ((upFrom 0 12).filter fun l => linkUp (linkAt s l)).foldl (fun t l => sendMsg (64 + l) m t) s

/-! ### Plans (R611 to R613, R629) -/

def planSize (w : W64) : Nat := fieldOf w 63 62
def planMembers (w : W64) : Nat := 16 * 2 ^ planSize w
def planLiveness (w : W64) : Nat := fieldOf w 61 52
def planHost (w : W64) : Nat := fieldOf w 51 46
def planHostFn (w : W64) : Nat := fieldOf w 45 43
def planStandby (w : W64) : Option (Nat × Nat) := if bitOf w 42 then some (fieldOf w 41 36, fieldOf w 35 33) else none

/-- Whether the arguments of a plan are in range: this module is the group host port module. -/
def planFits (s : State) (w : W64) : Bool :=
  planSize w < 3 && 5 ≤ planLiveness w && planLiveness w ≤ 1000 && planHost w = s.sys.boot.modId &&
    fieldOf w 32 0 = 0 && (match planStandby w with
      | some x => x.1 < planMembers w && x.1 ≠ planHost w
      | none => true)

/-- Whether this module may join: ready, not in a group, without a live task (R611). -/
def mayJoin (s : State) : Bool := moduleReady s && decide (s.group.stage = .none) && !(anyTask s)

/-- Every position of a group of `n`, its rank from its coordinates (R6, R616). -/
def fullRankMap (n : Nat) : Table RankEntry :=
  (upFrom 0 n).map fun r => (r, { valid := true, oldRank := r, x := r % 4, y := r / 4 % 4, z := r / 16 })

/-- This module becomes a member under a plan (R613 step 4). -/
def joinGroup (w : W64) (s : State) : State :=
  let g := s.group
  let s1 := modGroup s fun _ => {
    stage := .formed, size := planSize w, liveness := planLiveness w, hostRank := planHost w, hostFn := planHostFn w
    standbyEn := (planStandby w).isSome
    standbyRank := ((planStandby w).map fun x => x.1).getD 0, standbyFn := ((planStandby w).map fun x => x.2).getD 0
    members := planMembers w, rankMap := fullRankMap (planMembers w), rank := s.sys.boot.modId, planWord := w
    forwards := g.forwards, sent := g.sent, pulses := g.pulses }
  recomputeSlots { s1 with fabric := { s1.fabric with detours := [] } }

/-- This module leaves the group: its rank is 0x3F; a creation request that waits for members is refused (R527). -/
def leaveGroup (s0 : State) : State :=
  let s := if s0.claimReq.waiting = 4 then
      modReq s0 fun q => { reqAnswer q.claim 16 0 q with waiting := 0, awaiting := [] } else s0
  let g := s.group
  let s1 := mapDies (fun x => { x with matchTarget := 0 }) (modGroup s fun _ =>
    { forwards := g.forwards, sent := g.sent, pulses := g.pulses, lost := g.lost })
  recomputeSlots { (modPower s1 fun p => { p with groupMin := 0, matchActive := false, ownPulse := false, reports := [] }) with
    fabric := { s1.fabric with detours := [] } }

/-! ### Control of the group (R549) -/

/-- Records that were held go to the group host port, or to the host if that is here. -/
def flushHeld (s : State) : State :=
  let held := s.group.heldRecords
  held.foldl (fun t h =>
    if hostIsAway t h.1 then forwardTo t.group.hostRank (.hostWrite (Fin.ofNat 8 h.1) h.2.1 (bytesOf h.2.2)) t
    else match hostFn t h.1 with
      | some f => writeHost t f h.2.1 (bytesOf h.2.2)
      | none => t) (modGroup s fun g => { g with heldRecords := [] })

/-- The group claims of this module answer to function `f`, or to none when the host port is elsewhere (R548). -/
def bindGroupClaims (f : Option Nat) (s : State) : State :=
  (createdClaims s).foldl (fun t k =>
    if (claimAt t k).group then modClaim t k fun q => { q with fn := f.getD q.fn, unbound := f.isNone, takenOver := false }
    else t) s

/-- The group host port is function `f` of the member of a rank. -/
def setControl (rank f : Nat) (s : State) : State :=
  let s1 := modGroup s fun g => { g with hostRank := rank, hostFn := f, hostLost := false }
  flushHeld (bindGroupClaims (if rank = s.group.rank then some f else none) s1)

/-- A registered standby that becomes the host port takes over running tasks: their records go to its takeover places, and
vector 18 is signalled (R546, R549). -/
def takeOverGroup (s : State) : State :=
  (createdClaims s).foldl (fun t k =>
    let q := claimAt t k
    if q.group then
      signal (disableRings k (modClaim t k fun c => { c with task := c.task.map fun x => { x with overtaken := true } })) k 18
    else t) s

/-! ### Routes around lost positions (R417) -/

/-- Whether a position is held by a member. -/
def positionHeld (s : State) (at_ : List Nat) : Bool := (upFrom 0 s.group.members).any fun r => coordsOf s r = at_

/-- The positions on the way along one dimension, in steps. -/
def walkDim (n dim : Nat) (minus : Bool) (target : Nat) : Nat → List Nat → List (List Nat)
  | 0, _ => []
  | fuel + 1, p =>
    if p.getD dim 0 = target then []
    else
      let q := setAt p dim ((p.getD dim 0 + (if minus then n - 1 else 1)) % n)
      q :: walkDim n dim minus target fuel q

/-- The positions that a route passes, its own end not counted. -/
def routePositions (s : State) (minus : Nat) (you : List Nat) : List Nat → List Nat → List (List Nat)
  | [], _ => []
  | d :: ds, p =>
    let way := walkDim (dimSize s d) d (inSet minus d) (you.getD d 0) 4 p
    way ++ routePositions s minus you ds (setAt p d (you.getD d 0))

/-- The directions of R416, as a set of dimensions that leave in the − direction. -/
def plainMinus (s : State) (me you : List Nat) : Nat :=
  setOf ((upFrom 0 3).filter fun d => dimSize s d = 4 && (you.getD d 0 + 4 - me.getD d 0) % 4 = 3)

/-- Whether this module has a link up in the direction of the first hop of a route (R412). -/
def leavesOpen (s : State) (order minus : Nat) (me you : List Nat) : Bool :=
  match (orderOf order).find? fun d => me.getD d 0 ≠ you.getD d 0 with
  | some d => (hopLinks s (d, inSet minus d)).any fun l => linkUp (linkAt s l) || (linkAt s l).mode == .retraining
  | none => true

/-- A route that passes only held positions and, from this module, leaves where a link is up (R412, R417). -/
def routeHeld (s : State) (order minus : Nat) (me you : List Nat) : Bool :=
  (routePositions s minus you (orderOf order) me).all (positionHeld s) &&
    (me ≠ coordsOf s s.group.rank || leavesOpen s order minus me you)

/-- The channels of one dimension of a route: dimension, direction, virtual channel and position of each hop (R416). -/
def dimChannels (n dim : Nat) (minus : Bool) (target : Nat) : Nat → Nat → List Nat → List (List Nat)
  | 0, _, _ => []
  | fuel + 1, vc, p =>
    let x := p.getD dim 0
    if x = target then []
    else
      let v := if n = 4 && x = (if minus then 0 else 3) then 1 else vc
      (dim :: b2n (minus && n = 4) :: v :: p) ::
        dimChannels n dim minus target fuel v (setAt p dim ((x + (if minus then n - 1 else 1)) % n))

/-- The channels of a route; VC2 and VC3 of its responses stand to each other as VC0 and VC1 do. -/
def routeChannels (s : State) (minus : Nat) (you : List Nat) : List Nat → List Nat → List (List Nat)
  | [], _ => []
  | d :: ds, p =>
    dimChannels (dimSize s d) d (inSet minus d) (you.getD d 0) 4 0 p ++
      routeChannels s minus you ds (setAt p d (you.getD d 0))

/-- The channel dependencies of a route: each channel waits for the next one. -/
def routeWaits (s : State) (order minus : Nat) (me you : List Nat) : List (List Nat × List Nat) :=
  let cs := routeChannels s minus you (orderOf order) me
  cs.zip (cs.drop 1)

/-- Whether dependencies form no cycle: those on a channel that waits for none are taken off until none is left. -/
def acyclic : Nat → List (List Nat × List Nat) → Bool
  | 0, es => es.isEmpty
  | fuel + 1, es =>
    let left := es.filter fun e => es.any fun x => x.1 = e.2
    es.isEmpty || (left.length < es.length && acyclic fuel left)

/-- Dependencies added to others, each once. -/
def addWaits (es new : List (List Nat × List Nat)) : List (List Nat × List Nat) :=
  new.foldl (fun acc e => if acc.contains e then acc else e :: acc) es

/-- The six orders with the eight directions. -/
def detourChoices : List (Nat × Nat) := (upFrom 0 6).flatMap fun o => (upFrom 0 8).map fun m => (o, m)

/-- The entry of one pair of members whose route of R416 is not whole, and the dependencies with it: the first order and
directions that pass only held positions and close no cycle, else unreachable (R417, entry 98). -/
def detourFor (s : State) (waits : List (List Nat × List Nat)) (me you : List Nat) :
    Detour × List (List Nat × List Nat) :=
  let with_ (x : Nat × Nat) := addWaits waits (routeWaits s x.1 x.2 me you)
  match detourChoices.find? fun x => routeHeld s x.1 x.2 me you && acyclic (with_ x).length (with_ x) with
  | some x => ({ inUse := true, order := x.1, minus := x.2 }, with_ x)
  | none => ({ inUse := true, unreachable := true }, waits)

/-- Whether the route of R416 between two ranks is whole. -/
def routeWhole (s : State) (x : Nat × Nat) : Bool :=
  let me := coordsOf s x.1
  let you := coordsOf s x.2
  routeHeld s 0 (plainMinus s me you) me you

/-- This module's detour table. Firmware finds the tables of all members, in the order of source and destination; an entry is not
in use where the route of R416 is whole. -/
def detourTable (s : State) : Table Detour :=
  let ranks := upFrom 0 s.group.members
  let pairs := ranks.flatMap fun a => ranks.map fun b => (a, b)
  let broken := pairs.filter fun x => !(routeWhole s x)
  if broken.isEmpty then []
  else
    let base := (pairs.filter (routeWhole s)).foldl (fun es x =>
      let me := coordsOf s x.1
      let you := coordsOf s x.2
      addWaits es (routeWaits s 0 (plainMinus s me you) me you)) []
    (broken.foldl (fun (acc : Table Detour × List (List Nat × List Nat)) x =>
      let r := detourFor s acc.2 (coordsOf s x.1) (coordsOf s x.2)
      (if x.1 = s.group.rank then tput {} acc.1 x.2 r.1 else acc.1, r.2)) ([], base)).1

def computeDetours (s : State) : State := modFabric s fun x => { x with detours := detourTable s }

/-! ### Re-formation (R615, R616) -/

/-- A rank after the ranks of `failed` are removed: the number of survivors of lower rank. -/
def newRank (failed : List Nat) (r : Nat) : Nat := ((upFrom 0 r).filter fun x => !(failed.contains x)).length

def survivorsOf (n : Nat) (failed : List Nat) : List Nat := (upFrom 0 n).filter fun r => !(failed.contains r)

/-- A set of ranks under the new numbering, the failed ones removed. -/
def mapRanks (n : Nat) (failed : List Nat) (set : Nat) : Nat :=
  setOf (((survivorsOf n failed).filter (inSet set)).map (newRank failed))

/-- A window under the new rank mapping: an import of a failed member is closed (R429). -/
def remapWindow (n : Nat) (failed : List Nat) (v : Window) : Window :=
  if v.kind = 1 then { v with w3 := BitVec.ofNat 64 (mapRanks n failed v.w3.toNat) }
  else if v.kind = 2 then
    let r := fieldOf v.w5 55 50
    if failed.contains r then { v with kind := 0 }
    else { v with w5 := (v.w5 &&& 0xFF03FFFFFFFFFFFF) ||| placed (newRank failed r) 50 }
  else v

/-- The sump at a re-formation: barrier slots of the group's claims count 0 for the new size, reduction slots in use free
(R447). -/
def remapSump (s : State) (old new : Nat) : Table SumpSlot :=
  s.fabric.sump.foldl (fun m e =>
    let ofGroup (k : Nat) : Bool := (claimAt s k).created && (claimAt s k).group
    match e.2.mode with
    | .barrier t =>
      if e.1 < 512 && ofGroup (e.1 / 64) then
        tput {} m e.1 { e.2 with count := 0, waiting := [], mode := .barrier (if t = old then new else min t new) }
      else m
    | .reduction _ _ _ => if e.2.acquired.any ofGroup then tput {} m e.1 {} else m
    | _ => m) s.fabric.sump

/-- Operations of the group's claims that waited in the sump complete with the error status (R447). -/
def lostSump (s : State) : List SumpDone :=
  s.fabric.sump.flatMap fun e =>
    let k := if e.1 < 512 then some (e.1 / 64) else e.2.acquired
    if k.any fun n => (claimAt s n).created && (claimAt s n).group then
      e.2.waiting.map fun w => ⟨e.1, w, [], true⟩ else []

/-- The rank table after a re-formation: each survivor keeps its position and its rank at formation (R616). -/
def remapTable (n : Nat) (failed : List Nat) (t : Table RankEntry) : Table RankEntry :=
  (survivorsOf n failed).map fun r => (newRank failed r, tget {} t r)

/-- A task's awaited members under the new numbering. -/
def remapTask (failed : List Nat) (t : Task) : Task :=
  { t with awaiting := (t.awaiting.filter fun r => !(failed.contains r)).map (newRank failed) }

/-- The running task of a group claim at a re-formation: calls in progress complete with MEMBER_LOST and the task goes on;
a task without one aborts with RING_MEMBER_LOST, naming the lowest failed rank (R239, R480, R615, entry 99); after the loss of a
link pair no rank has failed, and the rank recorded is a free value (log entry 144). -/
def loseMembers (failed : List Nat) (k : Nat) (s : State) : State :=
  let low := (lowestCode failed).getD (fieldOf (Config.freeDetail (s.draws + k)) 5 0)
  let second := 1 < failed.length
  if !(hasTask s k) then s
  else if callsOfClaim s k ≠ 0 then loseCalls k (low, second) s
  else taskFaultFull k { info := { name := .ringMemberLost }, engine := 10, rank := low, second := second } s

/-- A task that has ended here and waits for no member any more completes on its ring (R547). -/
def settleClosing (k : Nat) (s : State) : State :=
  match (claimAt s k).closing with
  | some t => if t.awaiting.isEmpty then ringDone k t (modClaim s k fun c => { c with closing := none }) else s
  | none => s

def groupClaims (s : State) : List Nat := (createdClaims s).filter fun k => (claimAt s k).group

/-- The group host port after a re-formation: kept, passed to the registered standby, or lost (R549, R626). -/
def remapHost (failed : List Nat) (g : GroupState) : GroupState :=
  let sb := g.standbyEn && !(failed.contains g.standbyRank)
  let g1 := { g with standbyEn := sb, standbyRank := if sb then newRank failed g.standbyRank else 0 }
  if g.members ≤ g.hostRank then g1
  else if !(failed.contains g.hostRank) then { g1 with hostRank := newRank failed g.hostRank }
  else if sb then { g1 with hostRank := newRank failed g.standbyRank, hostFn := g.standbyFn, standbyEn := false }
  else { g1 with hostRank := 0x3F, hostLost := true }

/-- The group registers after a re-formation. -/
def reformedGroup (failed : List Nat) (g : GroupState) : GroupState :=
  let h := remapHost failed g
  { h with
    stage := .formed
    rank := newRank failed g.rank
    members := (survivorsOf g.members failed).length
    generation := wrapAdd 16 g.generation 1
    lost := failed.foldl (fun n r => setWith n (tget {} g.rankMap r).oldRank) g.lost
    rankMap := remapTable g.members failed g.rankMap
    failed := [], acked := [], coordinating := false, probed := [] }

/-- A member of a group that loses the members of `failed` (R615). -/
def reform (failed : List Nat) (s : State) : State :=
  let g := s.group
  let wasHost := g.hostRank
  let s0 := (groupClaims s).foldl (fun t k => loseMembers failed k t) s
  let s1 := { s0 with draws := s0.draws + (if failed.isEmpty then 8 else 0) }
  let s2 := modFabric s1 fun x => { x with
    windows := mapTable {} (remapWindow g.members failed) x.windows
    sump := remapSump s1 g.members (survivorsOf g.members failed).length
    sumpDone := lostSump s1 ++ x.sumpDone }
  let s3 := modGroup s2 (reformedGroup failed)
  let ranks (xs : List Nat) : List Nat := (xs.filter fun r => !(failed.contains r)).map (newRank failed)
  let s4 := (groupClaims s3).foldl (fun t k => settleHold k (modClaim t k fun c => { c with
    task := c.task.map (remapTask failed), closing := c.closing.map (remapTask failed), heldBy := ranks c.heldBy }))
    { s3 with claimReq := { s3.claimReq with awaiting := ranks s3.claimReq.awaiting } }
  let s5 := (groupClaims s4).foldl (fun t k => settleClosing k (signal t k 19)) s4
  let s6 := addLog { kind := 14 } (modPower (computeDetours s5) fun p => { p with reports := [] })
  let s7 := if failed.contains wasHost && s6.group.hostRank = s6.group.rank then
      takeOverGroup (setControl s6.group.hostRank s6.group.hostFn s6) else s6
  recomputeSlots (decideCreate s7)

/-- A member outside the part that stays the group leaves it: its group tasks abort (R616). -/
def droppedOut (failed : List Nat) (s : State) : State :=
  let low := (lowestCode failed).getD 0
  leaveGroup ((groupClaims s).foldl (fun t k =>
    taskFaultFull k { info := { name := .ringMemberLost }, engine := 10, rank := low, second := 1 < failed.length } t) s)

/-- The members that have to acknowledge: the survivors (R615). -/
def allAcked (g : GroupState) : Bool := (survivorsOf g.members g.failed).all g.acked.contains

/-- The coordinator commits once every survivor has acknowledged. -/
def tryCommit (s : State) : State :=
  let g := s.group
  if g.coordinating && allAcked g then
    reform g.failed (((survivorsOf g.members g.failed).filter fun r => r ≠ g.rank).foldl (fun t r => sendMsg r (.reform g.failed) t) s)
  else s

/-- A member is known to have failed: the live member of lowest rank coordinates the re-formation (R615, R627). -/
def noteFailed (rank : Nat) (s : State) : State :=
  let g := s.group
  if g.members ≤ rank || rank = g.rank || g.failed.contains rank then s
  else
    let failed := g.failed ++ [rank]
    let coord := (lowestCode (survivorsOf g.members failed)).getD g.rank
    let mine := coord = g.rank
    let s1 := modGroup s fun x => { x with
      stage := .reforming, failed := failed, coordinator := coord, coordinating := mine
      acked := if mine then (if x.coordinating then x.acked else [x.rank]) else [] }
    if mine then tryCommit s1 else sendMsg coord .ack s1

end Sys2Proof.Machine
end

