-- ==== Sys2Proof/Machine/Groups.lean ====
section
/-! DEFINITION. Group formation, control and liveness (16 R611 to R617; 14 R549). -/

namespace Sys2Proof.Machine

/-! ### Formation (R613) -/

/-- Whether the straps fit a group of the plan's size (R612). -/
def strapsFit (s : State) (w : W64) : Bool := s.sys.boot.modId < planMembers w

/-- Module firmware's major version (R606). -/
def majorOf (s : State) : Nat := s.sys.firm.version / 2 ^ 24 % 256

/-- The ranks that answered, as a mask: DATA0 of GROUP_FORM. -/
def answeredMask (g : GroupState) : W64 := BitVec.ofNat 64 (setOf g.answered)

/-- The formation is decided: refused when a member is not ready, or an answer is missing or does not fit; else the commit
goes out and this module is a member (R613, R619). -/
def decideForming (s : State) : State :=
  let g := s.group
  let n := planMembers g.planWord
  let lacking := (upFrom 0 n).filter fun r => !(g.answered.contains r) || g.bad.contains r
  let mask := answeredMask g
  if g.notReady then endForming 4 [mask] s
  else match lacking with
    | r :: _ => endForming 8 [mask, BitVec.ofNat 64 r] s
    | [] =>
      let s1 := joinGroup g.planWord s
      let s2 := (otherMembers s1).foldl (fun t r => sendMsg r .commit t) s1
      finishPage g.formPage 6 g.formSeq 0 0 [mask] s2

/-- GROUP_FORM: a plan goes out over every trained link, and the command completes with its outcome. -/
def groupForm (f : FnId) (seq : BitVec 16) (w : W64) (s : State) : State :=
  let done (r : Nat) (data : List W64) : State := finishPage f.val 6 seq.toNat r 0 data s
  if !(isControl s f) then done 2 []
  else if coreStopped s 2 then busyPage f.val 6 seq.toNat s
  else if !(mayJoin s) then done 4 []
  else if !(planFits s w) then done 3 []
  else if !(strapsFit s w) then done 8 [0, BitVec.ofNat 64 s.sys.boot.modId]
  else
    let s1 := modGroup (busyPage f.val 6 seq.toNat s) fun g => { g with
      stage := .forming, forming := true, formPage := f.val, formSeq := seq.toNat, planWord := w
      answered := [s.sys.boot.modId], bad := [], notReady := false }
    tellLinks (.plan w) s1

def execGroupForm (f : FnId) (seq : BitVec 16) (data0 : W64) (s : State) : Host.Outcome State Fault Refusal :=
  .next (mailbox f 6 seq (groupForm f seq data0) s)

/-- GROUP_PLAN_RECEIVE: each module forwards the plan once, and answers with its rank, its firmware version and whether its
links and straps fit (R612, R613). -/
def planReceive (w : W64) (linksOk : Bool) (s : State) : State :=
  if s.sys.boot.stage ≠ 6 || coreStopped s 2 || s.group.plan = some w || s.group.forming then s
  else
    let a : GroupAnswer := { rank := Fin.ofNat 64 s.sys.boot.modId, major := majorOf s, ready := mayJoin s
                             compatible := linksOk && strapsFit s w }
    let s1 := sendMsg (planHost w) (.answer a) (tellLinks (.plan w) s)
    if mayJoin s then modGroup s1 fun g => { g with stage := .forming, plan := some w } else s1

def execGroupPlanReceive (plan : W64) (sender : Rank) (linksOk : Bool) (s : State) : Host.Outcome State Fault Refusal :=
  .next (if sender.val = s.sys.boot.modId then s else planReceive plan linksOk s)

/-- An answer joins those received: one that does not fit, or that a second module of the same rank sends, is noted. -/
def takeAnswer (a : GroupAnswer) (s : State) : State :=
  let ok := a.compatible && a.major = majorOf s && !(s.group.answered.contains a.rank.val)
  modGroup s fun g => { g with
    answered := if g.answered.contains a.rank.val then g.answered else g.answered ++ [a.rank.val]
    bad := if ok then g.bad else g.bad ++ [a.rank.val]
    notReady := g.notReady || !a.ready }

/-- GROUP_ANSWER_RECEIVE: the formation is decided once every position has answered. -/
def execGroupAnswerReceive (a : GroupAnswer) (s : State) : Host.Outcome State Fault Refusal :=
  let s1 := takeAnswer a s
  .next (if !s.group.forming || planMembers s.group.planWord ≤ a.rank.val then s
    else if s1.group.answered.length = planMembers s.group.planWord then decideForming s1 else s1)

/-- GROUP_FORMATION_TIMEOUT: 100 ms have passed; a member that has no commit yet goes back (R613). -/
def execGroupFormationTimeout (s : State) : Host.Outcome State Fault Refusal :=
  .next (if s.group.forming then decideForming s
    else if s.group.stage = .forming then modGroup s fun g => { g with stage := .none, plan := none }
    else s)

/-- GROUP_COMMIT_RECEIVE. -/
def execGroupCommitReceive (s : State) : Host.Outcome State Fault Refusal :=
  .next (match s.group.stage, s.group.plan with
    | .forming, some w => joinGroup w s
    | _, _ => s)

/-! ### Dissolving and control -/

/-- Whether function `f` is the group host port. -/
def isHostPort (s : State) (f : FnId) : Bool :=
  grouped s && !s.group.hostLost && s.group.hostRank = s.group.rank && s.group.hostFn = f.val

/-- GROUP_DISSOLVE (R619). -/
def execGroupDissolve (f : FnId) (seq : BitVec 16) (s : State) : Host.Outcome State Fault Refusal :=
  .next (mailbox f 7 seq (fun t => answerCommand f 7 seq
    (if !(isHostPort t f) then (2, t)
    else if !(groupClaims t).isEmpty then (4, t)
    else (0, leaveGroup (forwardAll .dissolve t)))) s)

/-- Whether a function is bound to a group claim. -/
def boundToGroup (s : State) (f : FnId) : Bool := (groupClaims s).any fun k => actsFor s f k

/-- GROUP_TAKE_CONTROL: the issuing function becomes the group host port; of two members that issue it together the lower
rank wins (R549, R619). -/
def execGroupTakeControl (f : FnId) (seq : BitVec 16) (lowerToo : Bool) (s : State) : Host.Outcome State Fault Refusal :=
  .next (mailbox f 8 seq (fun t => answerCommand f 8 seq
    (if !(isControl t f || boundToGroup t f) then (2, t)
    else if !(grouped t) || lowerToo then (4, t)
    else (0, forwardAll (.control (Fin.ofNat 64 t.group.rank) f) (setControl t.group.rank f.val t)))) s)

/-! ### Liveness and re-formation (R614 to R616) -/

/-- The members one step away (R614). -/
def neighbours (s : State) : List Nat :=
  let me := coordsOf s s.group.rank
  (otherMembers s).filter fun r =>
    (upFrom 0 3).any fun d => 1 < dimSize s d &&
      (coordsOf s r = setAt me d ((me.getD d 0 + 1) % dimSize s d) ||
        coordsOf s r = setAt me d ((me.getD d 0 + dimSize s d - 1) % dimSize s d))

/-- LIVENESS_PROBE_SEND (R614); a module whose HC2 is stopped sends none (R656). -/
def execLivenessProbeSend (s : State) : Host.Outcome State Fault Refusal :=
  .next (if !(grouped s) || coreStopped s 2 then s
    else (neighbours s).foldl (fun t r => sendMsg r .probe t) (modGroup s fun g => { g with probed := [] }))

/-- LIVENESS_PROBE_RECEIVE: a probe is answered. -/
def execLivenessProbeReceive (rank : Rank) (isAnswer : Bool) (s : State) : Host.Outcome State Fault Refusal :=
  let s1 := modGroup s fun g => { g with probed := if g.probed.contains rank.val then g.probed else g.probed ++ [rank.val] }
  .next (if !(grouped s) || coreStopped s 2 || !((neighbours s).contains rank.val) then s
    else if isAnswer then s1 else sendMsg rank.val .probeAnswer s1)

/-- A declaration during a formation refuses it, naming the member (R627). -/
def declareWhileForming (rank : Nat) (s : State) : State :=
  if s.group.forming then endForming 8 [answeredMask s.group, BitVec.ofNat 64 rank] s
  else if s.group.stage = .forming then modGroup s fun g => { g with stage := .none, plan := none }
  else noteFailed rank s

/-- MEMBER_DECLARED_FAILED: a neighbour from which neither probe nor answer came within the limit; every member is told. -/
def execMemberDeclaredFailed (rank : Rank) (s : State) : Host.Outcome State Fault Refusal :=
  .next (if coreStopped s 2 then s
    else if s.group.stage = .forming then declareWhileForming rank.val s
    else if grouped s && (neighbours s).contains rank.val && !(s.group.failed.contains rank.val) then
      noteFailed rank.val (tellAll (.declare rank.val) s)
    else s)

/-- DECLARATION_RECEIVE. -/
def execDeclarationReceive (rank : Rank) (s : State) : Host.Outcome State Fault Refusal :=
  .next (if coreStopped s 2 || s.group.stage = .none then s else declareWhileForming rank.val s)

/-- REFORM_ACKNOWLEDGE: the coordinator collects one from every survivor. -/
def execReformAcknowledge (rank : Rank) (s : State) : Host.Outcome State Fault Refusal :=
  let s1 := modGroup s fun g => { g with acked := if g.acked.contains rank.val then g.acked else g.acked ++ [rank.val] }
  .next (if s.group.coordinating && (survivorsOf s.group.members s.group.failed).contains rank.val then tryCommit s1 else s)

/-- REFORM_COMMIT: with no failed member it follows the loss of a link pair (R615). -/
def execReformCommit (failed : List Rank) (s : State) : Host.Outcome State Fault Refusal :=
  let f := (failed.map fun r => r.val).eraseDups.filter fun r => r < s.group.members
  .next (if s.group.stage ≠ .reforming && s.group.stage ≠ .formed || (f.isEmpty && !failed.isEmpty) then s
    else if f.contains s.group.rank then droppedOut f s
    else reform f s)

end Sys2Proof.Machine
end

