-- ==== Sys2Proof/Machine/Links.lean ====
section
/-! DEFINITION. Events of the Goham links and accesses through windows (11 R408 to R412, R419, R424 to R426). -/

namespace Sys2Proof.Machine

/-! ### Flits -/

/-- The CRC-32C of a flit: over its body and its 12-bit sequence number (R405), which is taken as two bytes, the low one first
(DESIGN CHOICE, log entry 132). -/
def flitCrc (body : List Byte) (seq : Nat) : W32 := crc32c (body ++ leBytes 2 (seq % 4096))

/-- Deliver flits in sequence into the receive buffer of their channel; the first that fails its CRC for the sequence number
that is due, or finds the 512 flits of its channel in use, is discarded with every later one, and a replay request names the
flit that is due (R408, R410). -/
def takeFlits (marked : Bool) : List Flit → LinkState → LinkState
  | [], v => v
  | f :: fs, v =>
    if !marked && flitCrc f.body v.rxSeq = f.crc && (v.rxBuf.filter fun x => x.vc = f.vc.val).length < 512 then
      takeFlits marked fs { v with
        rxSeq := (v.rxSeq + 1) % 4096, delivered := v.delivered + 1, askReplay := none
        rxBuf := v.rxBuf ++ [⟨f.vc, f.body⟩] }
    else { v with askReplay := some v.rxSeq, replays := wrapAdd 32 v.replays 1 }

/-- The link control word of the codeword that this module sends now (R405): a codeword goes out for each that comes in (DESIGN
CHOICE, log entry 131). -/
def sendControl (v : LinkState) : LinkState :=
  { v with
    control := ⟨if v.delivered = 0 then none else some ((v.rxSeq + 4095) % 4096), v.askReplay, v.owed⟩
    owed := [0, 0, 0, 0] }

/-- The flits that an acknowledgement leaves unacknowledged: those after the one it names. -/
def ackFlits (seq : Nat) (xs : List SentFlit) : List SentFlit :=
  if xs.any (fun f => f.seq = seq) then (xs.dropWhile fun f => f.seq ≠ seq).drop 1 else xs

/-- Credits returned, at most the receiver's 512 for each channel (R410). -/
def addCredits (cs : List (Fin 4 × Nat)) (have_ : List Nat) : List Nat :=
  cs.foldl (fun h c => setAt h c.1 (min 512 (h.getD c.1 0 + c.2))) have_

/-- Packets with no flit left on any link have arrived. -/
def dropArrived (s : State) : State :=
  let open_ (no : Nat) : Bool := (upFrom 0 12).any fun l =>
    (linkAt s l).sent.any (fun f => f.packet = no) ||
      ((linkAt s l).outFifo ++ (linkAt s l).stalled).any (fun x => x.2 = no)
  modFabric s fun x => { x with packets := x.packets.filter fun p => open_ p.no }

/-- FLIT_RECEIVE: one codeword (R404 to R408, R410). -/
def flitReceive (l : LinkId) (flits : List Flit) (corrected marked : Bool) (acked : Option Nat)
    (credits : List (Fin 4 × Nat)) (s : State) : State :=
  let v := linkAt s l
  if !(linkUp v) then s
  else
    let v1 := { v with corrected := wrapAdd 32 v.corrected (b2n corrected)
                       uncorrected := wrapAdd 32 v.uncorrected (b2n marked) }
    let v2 := takeFlits marked flits v1
    let v3 := match acked with
      | some a => { v2 with sent := ackFlits a v2.sent }
      | none => v2
    let v4 := sendControl (drainRx (pump { v3 with credits := addCredits credits v3.credits }))
    sendReplies (dropArrived (setLink s l v4))

/-- The flits from a sequence number onward, each replayed once more. -/
def replayFrom (seq : Nat) : List SentFlit → List SentFlit
  | [] => []
  | f :: fs => if f.seq = seq then (f :: fs).map fun g => { g with replays := g.replays + 1 } else f :: replayFrom seq fs

/-- A link begins a full retraining (R409, R411). -/
def startRetrain (v : LinkState) : LinkState := { v with mode := .retraining, retrains := satAdd 0xFFFF v.retrains 1 }

/-- REPLAY_REQUEST: the flits from the one named are sent again; one replayed 16 times starts a retraining (R408, R409). -/
def execReplayRequest (l : LinkId) (seq : Nat) (s : State) : Host.Outcome State Fault Refusal :=
  let v := linkAt s l
  .next (if !(linkUp v) then s
    else
      let v1 := { v with replays := wrapAdd 32 v.replays 1, sent := replayFrom seq v.sent }
      setLink s l (if v1.sent.any (fun f => 16 ≤ f.replays) then startRetrain v1 else v1))

/-! ### Links that fail -/

/-- Engines whose packets were lost raise WIN_REFUSED, link lost (R412). -/
def losePackets : List Packet → State → State
  | [], s => s
  | p :: ps, s => losePackets ps (match p.eng with
      | some e => refused e p.window p.dest 8 s
      | none => s)

/-- A link goes down: its unacknowledged flits go to the other link of its pair, before any later packet; with both down
the pair's packets are lost (R412). -/
def linkGoesDown (l : Nat) (s : State) : State :=
  let v := linkAt s l
  let q := pairOf l
  let moved := v.sent.map (fun f => (f.vc, f.packet)) ++ v.outFifo ++ v.stalled
  let s1 := addLog { kind := 13, unit := l } (setLink s l { v with mode := .down, sent := [], outFifo := [], stalled := [] })
  if linkUp (linkAt s1 q) || (linkAt s1 q).mode == .retraining then
    let w := linkAt s1 q
    let s2 := setLink s1 q (pump { w with outFifo := [], stalled := moved ++ w.outFifo ++ w.stalled })
    modFabric s2 fun x => { x with packets := x.packets.map fun p => if p.link = l then { p with link := q } else p }
  else
    let lost := s1.fabric.packets.filter fun p => moved.any fun m => m.2 = p.no
    losePackets lost (modFabric s1 fun x =>
      { x with packets := x.packets.filter fun p => !(moved.any fun m => m.2 = p.no) })

/-- LINK_RETRAIN_DONE: the link is up again, on 8 or 7 lanes, and sends its unacknowledged flits in order; a retraining
that failed leaves it down (R409, R411). -/
def execLinkRetrainDone (l : LinkId) (ok : Bool) (s : State) : Host.Outcome State Fault Refusal :=
  let v := linkAt s l
  .next (if v.mode ≠ .retraining && v.mode ≠ .training then s
    else if ok && v.lanes.length ≤ 1 then
      setLink s l (pump { v with mode := if v.lanes.isEmpty then .up8 else .up7
                                 sent := v.sent.map fun f => { f with replays := 0 } })
    else linkGoesDown l s)

/-- LANE_FAILURE: the first starts a retraining on the other 7 lanes, the second takes the link down (R411). -/
def execLaneFailure (l : LinkId) (lane : Fin 8) (s : State) : Host.Outcome State Fault Refusal :=
  let v := linkAt s l
  .next (if !(linkUp v || v.mode == .retraining) || v.lanes.contains lane.val then s
    else if v.lanes.isEmpty then
      addLog { kind := 12, unit := l.val } (setLink s l (startRetrain { v with lanes := [lane.val] }))
    else linkGoesDown l (setLink s l { v with lanes := v.lanes ++ [lane.val] }))

/-- LINK_DOWN (R412). -/
def execLinkDown (l : LinkId) (s : State) : Host.Outcome State Fault Refusal :=
  .next (if linkUp (linkAt s l) || (linkAt s l).mode == .retraining then linkGoesDown l s else s)

/-- The channel on which a transit packet goes on (R416): requests on VC0 and VC1, responses on VC2 and VC3, after the dateline of
the dimension it stays in on the odd one. -/
def transitVc (inbound : LinkId) (vc : Fin 4) (out : Nat × Nat) : Nat :=
  2 * (vc.val / 2) + (if out.2 = 1 || (vc.val % 2 = 1 && out.1 / 4 = inbound.val / 4) then 1 else 0)

/-- TRANSIT_PACKET: a packet for another module goes from the inbound link to its outbound link; no window check applies
(R419). A destination that no link leads to is refused (R426, code 8). -/
def execTransitPacket (inbound : LinkChannel) (dest : Rank) (bytes : Nat) (s : State) : Host.Outcome State Fault Refusal :=
  .next (if !(linkUp (linkAt s inbound.link)) || dest.val = programRank s then s
    else
      let t := takeInbound inbound.link (packetFlits bytes) s
      match linkFor t inbound.link 0 dest with
      | some l =>
        { (putPacket l.1 (transitVc inbound.link inbound.vc l) (packetFlits bytes) dest none 0 t) with answer := .nothing }
      | none => { t with answer := .refused 8 })

/-! ### Windows -/

/-- INBOUND_WINDOW_ACCESS: checked in the order of R426; a refused access has no effect and is counted. -/
def inboundAccess (a : RemoteAccess) (s : State) : State :=
  match refusalOf s a.fromRank a.fromClaim a.window a.offset a.op, windowOwner s a.window with
  | none, some k => serveWindow (.remote a.fromRank a.fromClaim) k a.window a.offset a.op s
  | some code, _ => { (noteRefusal a.window a.fromRank a.fromClaim code s) with answer := .refused code }
  | none, none => s

/-- Bytes of data that a response carries. -/
def answerBytes : Answer → Nat
  | .data bs => bs.length
  | _ => 0

/-- The access leaves the inbound FIFO of its link; one that is performed or refused is answered on the way back. -/
def execInboundWindowAccess (a : RemoteAccess) (s : State) : Host.Outcome State Fault Refusal :=
  let t := inboundAccess a (takeInbound a.link (packetFlits (requestBytes a.op)) s)
  .next (if t.answer = .waits then t
    else sendReplies (owesReply (.remote a.fromRank a.fromClaim) (answerBytes t.answer) t))

/-- WIN_REFUSED: a refusal comes back to an engine of this module (R426). -/
def execWinRefused (eng : Engine) (w : WinId) (rank : Rank) (code : Fin 9) (s : State) :
    Host.Outcome State Fault Refusal :=
  .next (if code.val = 0 || !(engineLive s eng) then s else refused eng w rank code s)

/-- Whether a range of bytes from a place lies in memory of claim `k`, within one space, a bench region within one core
(R424). -/
def ownsRegion (s : State) (k : Nat) (w : W64) (n : Nat) : Bool :=
  let p := placeOf w
  (placeFault p).isNone &&
    (if p.space = 0 then coreOwner s p.sel == some k && p.off + n ≤ benchSize
    else if p.space = 1 then p.off + n ≤ galSize && (unitsIn galBankSize p.off n).all fun b => bankOwner s b == some k
    else if p.space = 2 then p.off + n ≤ dramSize && (unitsIn regionSize p.off n).all fun r => regionOwner s r == some k
    else false)

/-- Whether an export keeps R423 and R424: a region of a nonzero multiple of 1 KiB in the claim's memory, tallies and
conveyors of the claim. -/
def exportFits (s : State) (k : Nat) (v : Window) : Bool :=
  let tb := fieldOf v.w4 63 47
  let tn := fieldOf v.w4 46 29
  let cb := fieldOf v.w4 28 20
  let cn := fieldOf v.w4 19 10
  let q := claimAt s k
  winSize v ≠ 0 && winSize v % 1024 = 0 && ownsRegion s k v.w1 (winSize v) &&
    (tn = 0 || (1024 * q.tallyBase ≤ tb && tb + tn ≤ 1024 * (q.tallyBase + q.tallyUnits))) &&
    (cn = 0 || (8 * q.convBase ≤ cb && cb + cn ≤ 8 * (q.convBase + q.convUnits)))

/-- A write of word 0 of a window's descriptor by the function of its claim (R425). -/
def winWrite (f : FnId) (w : WinId) (g : Nat → Window → Window) (s : State) : State :=
  match windowOwner s w with
  | some k => if actsFor s f k then setWindow s w (g k (windowAt s w)) else denied f (windowReg w 0) s
  | none => denied f (windowReg w 0) s

/-- The writable fields of word 0: rd, wr, sync and peer_claims (R423, R450). -/
def winWord0 (w : W64) : W64 := w &&& 0x077FC00000000000

/-- WINDOW_OPEN_EXPORT: a descriptor that breaks R424 stays closed, and its refused count is incremented (R425). -/
def execWindowOpenExport (f : FnId) (w : WinId) (word0 : W64) (s : State) : Host.Outcome State Fault Refusal :=
  .next (winWrite f w (fun k v =>
    let u := { v with w0 := winWord0 word0 }
    if exportFits s k u then { u with kind := 1 } else { v with kind := 0, refused := wrapAdd 32 v.refused 1 }) s)

/-- WINDOW_OPEN_IMPORT (R425). -/
def execWindowOpenImport (f : FnId) (w : WinId) (word0 : W64) (s : State) : Host.Outcome State Fault Refusal :=
  .next (winWrite f w (fun _ v => { v with kind := 2, w0 := winWord0 word0 }) s)

/-- WINDOW_CLOSE: later accesses are refused (R425). -/
def execWindowClose (f : FnId) (w : WinId) (s : State) : Host.Outcome State Fault Refusal :=
  .next (winWrite f w (fun _ v => { v with kind := 0 }) s)

end Sys2Proof.Machine
end

