-- ==== Sys2Proof/Machine/Firm.lean ====
section
/-! DEFINITION. Firmware updates over the mailbox and PLDM, and the other mailbox commands (16 R619 to R624, R626). -/

namespace Sys2Proof.Machine

/-! ### Images (R622, R623) -/

/-- The slot that the running firmware did not boot from holds an image, or none that is valid. -/
def putInactive (i : Option FwImage) (s : State) : State :=
  modFlash s fun x => if s.sys.firm.imageB then { x with imageA := i } else { x with imageB := i }

/-- An update over PLDM is in progress (R622, R628). -/
def updating (s : State) : Bool := decide (s.sys.pldm.state ≠ .idle)

/-- The boot record names the staged image as active and on trial. -/
def activateStaged (s : State) : State :=
  modFlash s (putBootRecord (!s.sys.firm.imageB) true 0)

/-- The largest image: its header, its body and its signature within 24 MiB (R605, R606). -/
def imageFits (size : Nat) : Bool := 512 < size && size ≤ 24 * 2 ^ 20

/-- FW_STAGE: the image is refused below the security floor before any flash is written, then written, then verified. -/
def stageImage (img : FwImage) (size : Nat) (flashOk : Bool) (s : State) : Nat × State :=
  if !(imageFits size) then (3, s)
  else if updating s then (4, s)
  else if img.security < s.sys.ident.secFloor then (6, s)
  else if !flashOk then (7, modFirm (putInactive none s) fun x => { x with staged := false })
  else if !img.genuine then (5, modFirm (putInactive (some img) s) fun x => { x with staged := false })
  else (0, modFirm (putInactive (some img) s) fun x => { x with staged := true })

def execFwStage (f : FnId) (seq : BitVec 16) (img : FwImage) (size : Nat) (flashOk : Bool) (s : State) :
    Host.Outcome State Fault Refusal :=
  .next (controlCommand f 1 seq (stageImage img size flashOk) s)

/-- FW_ACTIVATE: with reset now, a module reset at once, which clears the mailbox as well (R623, R625, R627). -/
def execFwActivate (f : FnId) (seq : BitVec 16) (resetNow : Bool) (s : State) : Host.Outcome State Fault Refusal :=
  .next (mailbox f 2 seq (fun t =>
    if !(isControl t f) then answerCommand f 2 seq (2, t)
    else if !t.sys.firm.staged || (resetNow && anyTask t) then answerCommand f 2 seq (4, t)
    else if resetNow then moduleReset (activateStaged t)
    else answerCommand f 2 seq (0, activateStaged t)) s)

/-- MODULE_RESET: with force, every live task is cancelled first and its record written; the reset clears the mailbox, so the
command that succeeds leaves no result there (R625, R626). -/
def execModuleReset (f : FnId) (seq : BitVec 16) (force : Bool) (s : State) : Host.Outcome State Fault Refusal :=
  .next (mailbox f 3 seq (fun t =>
    if !(isControl t f) then answerCommand f 3 seq (2, t)
    else if anyTask t && !force then answerCommand f 3 seq (4, t)
    else moduleReset (cancelAll .firmware { name := .hostCancel } t)) s)

/-! ### Port configuration (R517, R619) -/

/-- Whether link `l` exists under the straps: the second half of a port only when it is bifurcated (R516). -/
def linkExists (s : State) (l : Nat) : Bool :=
  if l % 2 = 0 then true else if l = 1 then !s.sys.boot.h0Bif else !s.sys.boot.h1Bif

/-- The functions of a configuration, over the links that exist. -/
def functionCount (s : State) (pfs vfs : List Nat) : Nat :=
  ((upFrom 0 4).filter (linkExists s)).foldl (fun n l => n + pfs.getD l 0 + vfs.getD l 0) 0

/-- PORT_CONFIG: stored, and applied at the next module reset. -/
def execPortConfig (f : FnId) (seq : BitVec 16) (pfs vfs : List Nat) (s : State) : Host.Outcome State Fault Refusal :=
  .next (controlCommand f 4 seq (fun t =>
    if pfs.length ≠ 4 || vfs.length ≠ 4 || vfs.any (fun n => 15 < n) || 8 < functionCount t pfs vfs ||
        (upFrom 0 4).any (fun l => linkExists t l && (pfs.getD l 0 = 0 || 4 < pfs.getD l 0)) then (3, t)
    else (0, modFlash t fun x => { x with pfs := pfs, vfs := vfs })) s)

/-- HAUL_CONFIG: refused while a queue pair on the port is in state 1. -/
def execHaulConfig (f : FnId) (seq : BitVec 16) (e : Fin 2) (mac : BitVec 48) (ip : BitVec 128) (pfc : Fin 8) (cc : W64)
    (s : State) : Host.Outcome State Fault Refusal :=
  .next (controlCommand f 5 seq (fun t =>
    if t.haul.qps.any fun q => q.2.state = 1 && qpPort q.2 = e.val then (4, t)
    else
      let t1 := modPort t e.val fun p => { p with mac := mac, ip := ip, pfc := pfc.val }
      (0, { t1 with haul := { t1.haul with
        gain := fieldOf cc 63 56, aiStep := fieldOf cc 55 40, cutGap := fieldOf cc 39 32, incPeriod := fieldOf cc 31 24 } })) s)

/-! ### Links, dies, watchdogs (R619) -/

/-- LINK_RETRAIN: the named links that are down (R411). -/
def execLinkRetrain (f : FnId) (seq : BitVec 16) (mask : BitVec 12) (s : State) : Host.Outcome State Fault Refusal :=
  .next (controlCommand f 9 seq (fun t =>
    (0, (upFrom 0 12).foldl (fun u l =>
      if inSet mask.toNat l && (linkAt u l).mode = .down then setLink u l (startRetrain { linkAt u l with lanes := [] })
      else u) t)) s)

/-- A tripped die comes back as at boot: rail at 0.70 V, its memories zero (R585, R608, entry 91). -/
def restartDie (d : Nat) (s : State) : State :=
  let n := 64 * galBankSize
  let s1 := (coresOfDie d).foldl (fun t c => zeroCore c t) s
  let s2 := clearTurns (64 * d) 64 (zeroGal s1 (d * n) n)
  let s3 := modDie s2 d fun x => { x with
    present := true, tripped := false, mode := .run, vSet := 1400, vGoal := 1400 }
  modRas s3 fun r => { r with diesFailed := setWithout r.diesFailed d }

/-- DIE_RESTART: a tripped die below 85 °C. -/
def execDieRestart (f : FnId) (seq : BitVec 16) (d : DieId) (s : State) : Host.Outcome State Fault Refusal :=
  .next (controlCommand f 10 seq (fun t =>
    if (dieAt t d).tripped && (dieAt t d).tMax < 680 then (0, restartDie d t) else (4, t)) s)

/-- WATCHDOG: sets or clears wd_off of a claim, from its next task (R326). -/
def execWatchdog (f : FnId) (seq : BitVec 16) (k : ClaimId) (disable : Bool) (s : State) :
    Host.Outcome State Fault Refusal :=
  .next (controlCommand f 11 seq (fun t =>
    if (claimAt t k).created then (0, modClaim t k fun c => { c with wdOff := disable }) else (4, t)) s)

/-! ### Telemetry (R619 to R621) -/

/-- Totals that a record gives as differences. -/
def reasonTime (s : State) : Nat := (upFrom 0 8).foldl (fun n i => n + tget 0 s.power.reasons i) 0
def tasksTotal (s : State) (scope : Option Nat) : Nat := match scope with
  | some k => (claimAt s k).completed
  | none => claimNos.foldl (fun n k => n + (claimAt s k).completed) 0
def abortsTotal (s : State) (scope : Option Nat) : Nat := match scope with
  | some k => (claimAt s k).aborted
  | none => claimNos.foldl (fun n k => n + (claimAt s k).aborted) 0
def correctedTotal (s : State) : Nat := s.ras.counts.foldl (fun n e => n + e.2.corrected) 0
def uncorrectedTotal (s : State) : Nat := s.ras.counts.foldl (fun n e => n + e.2.ue) 0

/-- A ring with the present totals. -/
def withTotals (s : State) (scope : Option Nat) (r : TeleRing) : TeleRing :=
  { r with time := reasonTime s, tasks := tasksTotal s scope, aborts := abortsTotal s scope
           corrected := correctedTotal s, uncorrected := uncorrectedTotal s }

/-- Whether a count of entries is a power of two from 16 to 65,536. -/
def entriesFit (n : Nat) : Bool := (upFrom 4 13).any fun e => n = 2 ^ e

/-- TELEMETRY: a control function for the module, a claim's function for its claim; 0 entries stop the ring. -/
def telemetryCommand (f : FnId) (ring : W64) (entries period : Nat) (s : State) : Nat × State :=
  let scope := if isControl s f then some 8 else boundClaim s f
  match scope with
  | none => (2, s)
  | some n =>
    let put (x : Option TeleRing) : State := modSys s fun y => { y with rings := tput none y.rings n x }
    let p := placeOf ring
    if entries = 0 then (0, put none)
    else if !(entriesFit entries) || period = 0 || 600 < period || p.space ≠ 3 || p.sel ≠ 0 then (3, s)
    else (0, put (some (withTotals s (if n = 8 then none else some n)
      { fn := f.val, base := p.off, entries := entries, period := period })))

def execTelemetry (f : FnId) (seq : BitVec 16) (ring : W64) (entries period : Nat) (s : State) :
    Host.Outcome State Fault Refusal :=
  .next (mailbox f 12 seq (fun t => answerCommand f 12 seq (telemetryCommand f ring entries period t)) s)

/-- A temperature in whole °C. -/
def inCelsius (t : Int) : Int := t / 8

/-- The headroom (R591): the effective cap less the module estimate, in W. -/
def headroom (s : State) : Int := (s.power.effCap : Int) - (s.power.estimate / 8 : Nat)

/-- A telemetry record (R621). -/
def teleRecord (s : State) (now n : Nat) (r : TeleRing) : List W64 :=
  let scope := if n = 8 then none else some n
  let c := claimAt s n
  let b (t : Int) : Nat := wrapNat 8 (inCelsius t)
  let h (t : Int) : Nat := wrapNat 16 (inCelsius t)
  let power := if n = 8 then
      placed (s.power.estimate / 8 % 65536) 48 ||| placed s.power.inPower 32 ||| placed s.power.effCap 16 |||
        placed (wrapNat 16 (headroom s)) 0
    else placed (c.predicted % 65536) 48 ||| placed c.share 16 ||| placed c.budget 0
  [BitVec.ofNat 64 now,
   placed (r.index % 2 ^ 32) 32 ||| placed (b2n (n ≠ 8)) 29 ||| placed (n % 8) 26,
   power,
   (upFrom 0 8).foldl (fun w d => w ||| placed (b (dieAt s d).tMax) (8 * (7 - d))) 0,
   placed (h s.therm.hubMax) 48 ||| placed (h (stackTherm s 0).tMax) 32 ||| placed (h (stackTherm s 1).tMax) 16,
   placed (reasonBits s) 56,
   BitVec.ofNat 64 (reasonTime s - r.time),
   placed ((tasksTotal s scope - r.tasks) % 2 ^ 32) 32 ||| placed ((abortsTotal s scope - r.aborts) % 2 ^ 32) 0,
   placed ((correctedTotal s - r.corrected) % 2 ^ 32) 32 ||| placed ((uncorrectedTotal s - r.uncorrected) % 2 ^ 32) 0,
   0, 0, 0, 0, 0, 0, 0]

/-- One refresh of a ring: a record once its period has passed. -/
def teleStep (now n : Nat) (s : State) : State :=
  match tget none s.sys.rings n with
  | none => s
  | some r =>
    let put (x : TeleRing) (t : State) : State := modSys t fun y => { y with rings := tput none y.rings n (some x) }
    if r.ticks + 1 < r.period then put { r with ticks := r.ticks + 1 } s
    else
      let o := r.base + 128 * (r.index % r.entries)
      let s1 := if hostMapped s r.fn o 128 then writeHost s r.fn o (bytesOf (teleRecord s now n r)) else s
      put (withTotals s (if n = 8 then none else some n) { r with ticks := 0, index := r.index + 1 }) s1

/-- The sensors of R590 in the model's order (entry 92): estimate, input power, input voltage, the hottest of CD0 to CD7,
the hub, the stacks, the effective cap, demand, headroom. -/
def sensorValues (s : State) : List Int :=
  let n (x : Nat) : Int := x
  let head : List Int := [n (s.power.estimate / 8), n s.power.inPower, n s.power.inVoltage]
  let dies : List Int := (upFrom 0 8).map fun d => inCelsius (dieAt s d).tMax
  let tail : List Int := [inCelsius s.therm.hubMax, inCelsius (stackTherm s 0).tMax, inCelsius (stackTherm s 1).tMax,
    n s.power.effCap, n s.power.demand, headroom s]
  head ++ dies ++ tail

/-- TELEMETRY_REFRESH: HC3 refreshes every value, and writes the records that are due (R603, R620). -/
def execTelemetryRefresh (now : Nat) (s : State) : Host.Outcome State Fault Refusal :=
  let s1 := modSys { s with now := now } fun y => { y with sensors := sensorValues s }
  .next (if !(moduleReady s) || coreStopped s 3 then { s with now := now }
    else (upFrom 0 9).foldl (fun t n => teleStep now n t) s1)

/-! ### PLDM Firmware Update (R624); the completion codes are those of DSP0267 (entry 93) -/

def modPldm (s : State) (f : PldmUpdate → PldmUpdate) : State := modSys s fun y => { y with pldm := f y.pldm }
def sayCode (n : Nat) (s : State) : State := { s with answer := .number n }

/-- The management island answers PLDM while aux is good (R670), in recovery too (R610). -/
def pldmUp (s : State) (t : State) : State := if s.sys.boot.aux then t else s

/-- A command that an update in one state takes; in another it is turned away, and changes nothing. -/
def pldmIn (st : PldmState) (s t : State) : State :=
  pldmUp s (if s.sys.pldm.state = st then t
    else if s.sys.pldm.state = .idle then sayCode 0x80 s else sayCode 0x84 s)

/-- QUERY_DEVICE_IDENTIFIERS: the PCI identifiers, and ID_PART. -/
def idPart (s : State) : W64 := placed 0x4B59 48 ||| placed s.sys.ident.part 32 ||| placed s.sys.ident.step 16
def execQueryDeviceIdentifiers (s : State) : Host.Outcome State Fault Refusal :=
  .next (pldmUp s { s with answer := .words [Config.pciIdentifiers, idPart s] })

/-- GET_FIRMWARE_PARAMETERS: component 0x0001, the active and the pending version, and whether there is no valid image. -/
def execGetFirmwareParameters (s : State) : Host.Outcome State Fault Refusal :=
  let pending := if s.sys.firm.staged then versionOf (imageOf s.sys.flash (!s.sys.firm.imageB)) else 0
  .next (pldmUp s { s with answer := .words [1, BitVec.ofNat 64 s.sys.firm.version, BitVec.ofNat 64 pending,
    flagAt s.sys.boot.recovery 0] })

/-- REQUEST_UPDATE: one update at a time (R622). -/
def execRequestUpdate (s : State) : Host.Outcome State Fault Refusal :=
  .next (pldmUp s (if updating s then sayCode 0x81 s else sayCode 0 (modPldm s fun _ => { state := .learn })))

/-- PASS_COMPONENT_TABLE: one component, 0x0001. -/
def execPassComponentTable (components ident : Nat) (s : State) : Host.Outcome State Fault Refusal :=
  .next (pldmIn .learn s (if components ≠ 1 || ident ≠ 1 then sayCode 0x82 s
    else sayCode 0 (modPldm s fun p => { p with state := .ready })))

/-- UPDATE_COMPONENT: a downgrade below the security floor is not supported. -/
def execUpdateComponent (ident security : Nat) (s : State) : Host.Outcome State Fault Refusal :=
  .next (pldmIn .ready s (if ident ≠ 1 || security < s.sys.ident.secFloor then sayCode 0x82 s
    else sayCode 0 (modPldm s fun _ => { state := .download, security := security })))

/-- REQUEST_FIRMWARE_DATA: a block of at most 256 B, or 4,096 B over PCIe VDM, goes to the inactive slot. -/
def execRequestFirmwareData (vdm : Bool) (data : List Byte) (s : State) : Host.Outcome State Fault Refusal :=
  let n := s.sys.pldm.received + data.length
  .next (pldmIn .download s (if data.isEmpty || (if vdm then 4096 else 256) < data.length || 24 * 2 ^ 20 < n then sayCode 0x83 s
    else sayCode 0 (modPldm (modFirm (putInactive none s) fun x => { x with staged := false }) fun p => { p with received := n })))

/-- TRANSFER_COMPLETE. -/
def execTransferComplete (s : State) : Host.Outcome State Fault Refusal :=
  .next (pldmIn .download s (if s.sys.pldm.received = 0 then sayCode 0x85 s
    else sayCode 0 (modPldm s fun p => { p with state := .verify })))

/-- VERIFY_COMPLETE: the management island has verified the written image (R606, R622). -/
def execVerifyComplete (img : FwImage) (s : State) : Host.Outcome State Fault Refusal :=
  let s1 := putInactive (some img) s
  .next (pldmIn .verify s (if img.genuine && s.sys.ident.secFloor ≤ img.security then
      sayCode 0 (modPldm s1 fun p => { p with state := .apply, verified := true })
    else sayCode 1 (modPldm s1 fun p => { p with state := .ready, verified := false })))

/-- APPLY_COMPLETE. -/
def execApplyComplete (s : State) : Host.Outcome State Fault Refusal :=
  .next (pldmIn .apply s (sayCode 0 (modFirm (modPldm s fun p => { p with state := .ready }) fun x => { x with staged := true })))

/-- ACTIVATE_FIRMWARE: it takes effect at the next reset; in recovery the image is booted at once (R610, R623, R624). -/
def activatePldm (selfContained : Bool) (s : State) : State :=
  if !s.sys.pldm.verified then sayCode 0x85 s
  else if selfContained then sayCode 0x8C s
  else
    let s1 := sayCode 0 (modPldm (activateStaged s) fun _ => {})
    if s.sys.boot.recovery then restart s1 else s1

def execActivateFirmware (selfContained : Bool) (s : State) : Host.Outcome State Fault Refusal :=
  .next (pldmIn .ready s (activatePldm selfContained s))

/-- GET_STATUS. -/
def execGetStatus (s : State) : Host.Outcome State Fault Refusal :=
  .next (pldmUp s (sayCode (match s.sys.pldm.state with
    | .idle => 0 | .learn => 1 | .ready => 2 | .download => 3 | .verify => 4 | .apply => 5) s))

/-- CANCEL_UPDATE_COMPONENT: back to where a component may be updated. -/
def execCancelUpdateComponent (s : State) : Host.Outcome State Fault Refusal :=
  .next (pldmUp s (match s.sys.pldm.state with
    | .download | .verify | .apply => sayCode 0 (modPldm s fun _ => { state := .ready })
    | .idle => sayCode 0x80 s
    | _ => sayCode 0x84 s))

/-- CANCEL_UPDATE. -/
def execCancelUpdate (s : State) : Host.Outcome State Fault Refusal :=
  .next (pldmUp s (if updating s then sayCode 0 (modPldm s fun _ => {}) else sayCode 0x80 s))

end Sys2Proof.Machine
end

