-- ==== Sys2Proof/Machine/Sideband.lean ====
section
/-! DEFINITION. The rack manager's sideband: OEM commands, PLDM sensors and the rack cap effecter (15 R557 to R562, R590 to
R592, R596). -/

namespace Sys2Proof.Machine

/-! ### Messages and answers (R591) -/

/-- The bytes of an answer, the completion code first. -/
def reply (bytes : List Byte) (s : State) : State := { s with answer := .data bytes }

/-- A completion code alone. -/
def sayDone (s : State) : State := reply [0x00] s
def sayOutOfRange (s : State) : State := reply [0x80] s
def sayNotAllowed (s : State) : State := reply [0x81] s

/-- A message has reached the module from the rack manager's endpoint: a fail-safe cap in force ends (R559). -/
def heard (s : State) : State := modPower s fun p => applyCap { p with failsafe := false }

/-- A message on the sideband is read while aux is good (R670). -/
def sideband (go : State → State) (s : State) : State := if s.sys.boot.aux then go (heard s) else s

/-- A command that the management island alone, in recovery, does not answer (R610). -/
def running (go : State → State) (s : State) : State :=
  sideband (fun t => if t.sys.boot.recovery then sayNotAllowed t else go t) s

/-! ### Caps (R557 to R559) -/

/-- The rack cap set, within its range; the boot cap with it when asked. -/
def setRackCap (cap : Nat) (store : Bool) (s : State) : State :=
  let s1 := modPower s fun p => applyCap { p with rackCap := cap }
  if store then modFlash s1 fun x => { x with bootCap := cap } else s1

/-- SET_CAP. -/
def execSetCap (cap : Nat) (store : Bool) (s : State) : Host.Outcome State Fault Refusal :=
  .next (running (fun t =>
    if capInRange t cap then
      let u := setRackCap cap store t
      reply (0x00 :: leBytes 2 u.power.effCap) u
    else sayOutOfRange t) s)

/-- The answer to GET_CAP. -/
def capBytes (s : State) : List Byte :=
  let p := s.power
  0x00 :: leBytes 2 p.rackCap ++ leBytes 2 p.hostLimit ++ leBytes 2 p.effCap ++ leBytes 2 s.sys.flash.bootCap ++
    leBytes 2 p.failsafeCap ++ leBytes 1 (b2n p.hostAuth + 2 * b2n p.failsafe)

/-- GET_CAP, also in recovery (R610). -/
def execGetCap (s : State) : Host.Outcome State Fault Refusal :=
  .next (sideband (fun t => reply (capBytes t) t) s)

/-- The answer to GET_POWER. -/
def powerBytes (s : State) : List Byte :=
  let p := s.power
  0x00 :: leBytes 2 (p.estimate / 8) ++ leBytes 2 p.demand ++ leBytes 2 p.inPower ++ leBytes 2 p.inPeak ++
    leBytes 2 (wrapNat 16 (headroom s))

/-- GET_POWER, also in recovery. -/
def execGetPower (s : State) : Host.Outcome State Fault Refusal :=
  .next (sideband (fun t => reply (powerBytes t) t) s)

/-- The answer to GET_REASONS. -/
def reasonBytes (s : State) : List Byte :=
  let p := s.power
  0x00 :: leBytes 1 (reasonBits s) ++ ((upFrom 0 8).flatMap fun i => leBytes 8 (tget 0 p.reasons i)) ++
    leBytes 1 (b2n p.capUnmet + 2 * b2n p.belowFloor + 4 * b2n p.excursionRpt) ++ leBytes 1 p.unmetReason

/-- GET_REASONS. -/
def execGetReasons (s : State) : Host.Outcome State Fault Refusal :=
  .next (running (fun t => reply (reasonBytes t) t) s)

/-- SET_HOST_AUTH: when authority is withdrawn, the host limit returns to the envelope (R592). -/
def execSetHostAuth (enable : Bool) (s : State) : Host.Outcome State Fault Refusal :=
  .next (running (fun t => sayDone (modPower t fun p =>
    if enable then { p with hostAuth := true } else applyCap { p with hostAuth := false, hostLimit := envelope t })) s)

/-- SET_FAILSAFE: a timeout of 0 disables it (R559). -/
def execSetFailsafe (cap timeout : Nat) (s : State) : Host.Outcome State Fault Refusal :=
  .next (running (fun t =>
    if timeout = 0 then sayDone (modPower t fun p => { p with failsafeCap := cap % 65536, failsafeTimeout := 0 })
    else if timeout ≤ 65535 && capInRange t cap then
      sayDone (modPower t fun p => { p with failsafeCap := cap, failsafeTimeout := timeout })
    else sayOutOfRange t) s)

/-! ### The ladder (R593, R596) -/

/-- The module goes to L5: the rails fed by main are off, and only the management island runs; what a main cycle keeps is
kept (R593, R625). Log entries that are not copied yet are copied first. -/
def enterStandby (s : State) : State :=
  let t := restarted { s with ras := persistLog s.ras }
  modPower (modBoot t fun b => { b with stage := 0, standby := true, stopped := 0 }) fun p => { p with state := 5 }

/-- SET_STATE 0, 4 or 5. -/
def setState (n : Nat) (s : State) : State :=
  if n ≠ 0 && n ≠ 4 && n ≠ 5 then sayOutOfRange s
  else if s.sys.boot.standby then
    if n = 5 then sayDone s else if n = 0 then sayDone (restart s) else sayNotAllowed s
  else if !(moduleReady s) then sayNotAllowed s
  else if n = 0 then sayDone (if s.power.state = 4 then leavePark s else s)
  else if n = 4 && s.power.state = 4 then sayDone s
  else if anyTask s then sayNotAllowed s
  else if n = 4 then sayDone (enterPark s)
  else sayDone (enterStandby s)

/-- SET_STATE. -/
def execSetState (state : Nat) (s : State) : Host.Outcome State Fault Refusal := .next (running (setState state) s)

/-- CLEAR_EXCURSION: excursion_rpt is cleared, and ALERT_N with it if nothing else holds it (R562, R598). -/
def execClearExcursion (s : State) : Host.Outcome State Fault Refusal :=
  .next (running (fun t => sayDone (modPower t fun p => { p with excursionRpt := false })) s)

/-- OEM_UNKNOWN_COMMAND: a code outside the table is answered 0x82. -/
def execOemUnknownCommand (code : Byte) (s : State) : Host.Outcome State Fault Refusal :=
  .next (sideband (fun t =>
    if 1 ≤ code.toNat && code.toNat ≤ 8 then t else reply [0x82] t) s)

/-! ### PLDM for Platform Monitoring and Control (R590) -/

/-- PLDM_GET_SENSOR: the value of the last refresh; the sensors are numbered as entry 92 gives. -/
def execPldmGetSensor (sensor : Nat) (s : State) : Host.Outcome State Fault Refusal :=
  .next (running (fun t => match t.sys.sensors[sensor]? with
    | some v => reply (0x00 :: leBytes 4 (wrapNat 32 v)) t
    | none => sayOutOfRange t) s)

/-- PLDM_SET_RACK_CAP: the numeric effecter. -/
def execPldmSetRackCap (cap : Nat) (s : State) : Host.Outcome State Fault Refusal :=
  .next (running (fun t => if capInRange t cap then sayDone (setRackCap cap false t) else sayOutOfRange t) s)

end Sys2Proof.Machine
end

