-- ==== Sys2Proof/Machine/Boot.lean ====
section
/-! DEFINITION. Power-up, boot, loss of inputs, PERST and PCIe links (14 R516 to R518, R546, R549; 16 R607 to R610, R625; 17
R650; 18 R671 to R679). -/

namespace Sys2Proof.Machine

/-! ### Inputs (R671 to R676) -/

/-- AUX_GOOD: a cold reset, and step 1 of the boot (R608, R625). -/
def execAuxGood (s : State) : Host.Outcome State Fault Refusal :=
  let t := clearedState s
  .next (if s.sys.boot.aux then s
    else modSys { t with therm := {} } fun y => selectImage { y with boot := { aux := true } })

/-- STRAP_SAMPLE: the straps are sampled once, 2 ms after aux good (R674). -/
def execStrapSample (sbSel h0Bif h1Bif : Bool) (modId : BitVec 6) (s : State) : Host.Outcome State Fault Refusal :=
  .next (if !s.sys.boot.aux || s.sys.boot.sampled then s
    else modBoot s fun b => { b with sampled := true, sbSel := sbSel, h0Bif := h0Bif, h1Bif := h1Bif, modId := modId.toNat })

/-- INPUT_CONNECT: the module connects its main input only after aux good (R672). -/
def execInputConnect (s : State) : Host.Outcome State Fault Refusal :=
  .next (if s.sys.boot.aux then modBoot s fun b => { b with connected := true } else s)

/-- MAIN_GOOD: the input has charged; on a main cycle the image is selected afresh (R625, R671). -/
def execMainGood (s : State) : Host.Outcome State Fault Refusal :=
  let s1 := modBoot s fun b => { b with main := true }
  .next (if !s.sys.boot.aux || !s.sys.boot.connected || s.sys.boot.main then s
    else if s.sys.boot.stage = 0 then modSys s1 selectImage else s1)

/-- MAIN_LOST: every rail that main feeds is off, as in L5 (R675). -/
def execMainLost (s : State) : Host.Outcome State Fault Refusal :=
  let t := restarted s
  .next (if s.sys.boot.aux && s.sys.boot.connected then
      { (modBoot t fun b => { b with
          main := false, connected := false, stage := 0, standby := false, hubOff := false, stopped := 0 }) with therm := {} }
    else s)

/-- AUX_LOST: the main input is disconnected and every rail is off (R676). -/
def execAuxLost (s : State) : Host.Outcome State Fault Refusal :=
  let t := clearedState s
  .next (if s.sys.boot.aux then modSys { t with therm := {} } fun y => { y with boot := {} } else s)

/-! ### The boot sequence (R608) -/

/-- A boot step runs when the step before it has finished, with main good (R608). -/
def bootStep (stage : Nat) (go : State → State) (s : State) : State :=
  let b := s.sys.boot
  if b.aux && b.main && !b.recovery && !b.standby && !b.hubOff && decide (b.stage = stage) then
    modBoot (go s) fun x => { x with stage := stage + 1 }
  else s

/-- BOOT_RAILS, step 2: C-die rails at 0.70 V. -/
def execBootRails (s : State) : Host.Outcome State Fault Refusal :=
  .next (bootStep 1 (mapDies fun x => { x with vSet := 1400, vGoal := 1400 }) s)

/-- BOOT_FIRMWARE_LOAD, step 3: control cores released, calibration loaded; one boot more is counted (R659). -/
def execBootFirmwareLoad (started : BitVec 8) (s : State) : Host.Outcome State Fault Refusal :=
  .next (bootStep 2 (fun t =>
    let t1 := (upFrom 0 8).foldl (fun u d => modDie u d fun x => { x with control := inSet started.toNat d, calib := 4096 }) t
    let t2 := modPower t1 fun p => { p with calibClass := [4096, 4096, 4096] }
    modBoot (modRas t2 fun r => { r with boots := wrapAdd 32 r.boots 1 }) fun b => { b with stopped := 0 }) s)

/-- A C-die after step 4: characterised and up; or off and failed, when its control core did not start, the step failed,
or it has tripped (R610, R627). -/
def bringUp (rates : List (List Nat)) (bad : Nat) (d : Nat) (s : State) : State :=
  let x := dieAt s d
  if x.control && !x.tripped && x.vSet ≠ 0 && !(inSet bad d) then
    modDie s d fun y =>
      let z := { y with present := true, mode := .run, rates := rates.getD d [], scaleNum := 1, scaleDen := 1 }
      { z with floorCode := floorCodeOf s z }
  else
    addLog { kind := 10, die := d } (modRas (modDie s d fun y => { y with present := false, mode := .off, vSet := 0, vGoal := 0 })
      fun r => { r with diesFailed := setWith r.diesFailed d, die := true })

/-- Whether the persistent log shows array `n` fenced at two earlier boots (R650). -/
def fencedTwice (r : RasState) (n : Nat) : Bool :=
  let boots := (r.plog.filter fun e => arrayFence e && e.core * 4 + e.array = n).map fun e => e.boot
  boots.any fun b => boots.any fun x => x ≠ b

/-- The arrays that are fenced at a boot: those that the self-test finds, and those that the log shows. -/
def bootFences (bad : List Nat) (s : State) : State :=
  ((upFrom 0 512).filter fun n => (dieAt s (n / 64)).present && (bad.contains n || fencedTwice s.ras n)).foldl
    (fun t n => fenceArray (n / 4) (n % 4) t) s

/-- BOOT_ZERO_AND_CHARACTERISE, step 4; the reset has left every memory and object at its initial state. -/
def execBootZeroAndCharacterise (rates : List (List Nat)) (badArrays : List (Fin 512)) (badDies : BitVec 8) (s : State) :
    Host.Outcome State Fault Refusal :=
  .next (bootStep 3 (fun t =>
    let t1 := (upFrom 0 8).foldl (fun u d => bringUp rates badDies.toNat d u) t
    bootFences (badArrays.map fun n => n.val) { t1 with gallery := { t1.gallery with ready := 2 ^ 512 - 1 } }) s)

/-- A stack that fails its training (R610, R654). -/
def stackUntrained (n : Nat) (s : State) : State :=
  addLog { kind := 11, die := n, cls := 6 } (modRas s fun r => { r with
    stacksFailed := setWith r.stacksFailed n, die := true, dramLost := 2 ^ 225 - 1 })

/-- BOOT_TRAINING, step 5: the stacks, and every cabled Goham link. -/
def execBootTraining (stackSet : BitVec 2) (links : BitVec 12) (s : State) : Host.Outcome State Fault Refusal :=
  .next (bootStep 4 (fun t =>
    let t1 := ((upFrom 0 2).filter fun n => !(inSet stackSet.toNat n)).foldl (fun u n => stackUntrained n u) t
    let t2 := { t1 with dram := { t1.dram with ready := if stackSet = 3 then 2 ^ 225 - 1 else 0 } }
    ((upFrom 0 12).filter (inSet links.toNat)).foldl (fun u l => setLink u l { mode := .up8 }) t2) s)

/-! ### PCIe links and functions (R516 to R518, R608, R609) -/

def pcieAt (s : State) (l : Nat) : PcieLink := tget {} s.sys.links l
def modPcie (s : State) (l : Nat) (f : PcieLink → PcieLink) : State :=
  modSys s fun y => { y with links := tmod {} y.links l f }

/-- The functions of one port, physical before virtual, halves in link order. -/
def portFunctions (s : State) (ls : List Nat) : List Function :=
  let here := ls.filter (linkExists s)
  (here.flatMap fun l => (upFrom 0 (s.sys.flash.pfs.getD l 0)).map fun i =>
    ({ real := true, link := l, isPf := true, control := i = 0 } : Function)) ++
  here.flatMap fun l => (upFrom 0 (s.sys.flash.vfs.getD l 0)).map fun _ => ({ real := true, link := l } : Function)

/-- The function numbers, in the order of R517. -/
def enumerateFunctions (s : State) : Table Function :=
  tputN {} [] 0 (((portFunctions s [0, 1] ++ portFunctions s [2, 3]).take 8).map fun f =>
    { f with present := (pcieAt s f.link).up })

/-- The end of the boot: a trial image becomes committed, and raises the security floor (R607). -/
def commitTrial (y : ModuleState) : ModuleState :=
  let sec := ((imageOf y.flash y.firm.imageB).map fun i => i.security).getD 0
  if y.firm.trial then
    { y with
      flash := putBootRecord y.firm.imageB false 0 y.flash
      firm := { y.firm with trial := false }
      ident := { y.ident with secFloor := max y.ident.secFloor sec } }
  else y

/-- BOOT_PCIE_RELEASE, step 6: links that exist, are not held in reset, and train; the module is ready. -/
def execBootPcieRelease (h0 h1 : Bool) (s : State) : Host.Outcome State Fault Refusal :=
  .next (bootStep 5 (fun t =>
    let t1 := (upFrom 0 4).foldl (fun u l => modPcie u l fun x =>
      { x with up := linkExists t l && !x.reset && (if l < 2 then h0 else h1) }) t
    modBoot (modSys { t1 with functions := enumerateFunctions t1 } commitTrial) fun b => { b with faulted := false }) s)

/-! ### Functions that are lost (R546, R549, R625) -/

/-- The standby function becomes the bound function: its vector 18 is signalled; the task goes on, and its record goes to
the takeover place; the lost function's rings are no longer served. -/
def takeOver (k : Nat) (s : State) : State :=
  signal (disableRings k (modClaim s k fun c => { c with
    takenOver := true, atc := [], task := c.task.map fun x => { x with overtaken := true } })) k 18

/-- A claim that has lost its function and has no standby: the running task is cancelled (R544, R546). -/
def unbind (k : Nat) (s : State) : State :=
  disableRings k (cancelTask k (modClaim s k fun c => { c with
    atc := [], unbound := true, takenOver := false, fn := if c.takenOver then c.standby.getD c.fn else c.fn
    standby := if c.takenOver then none else c.standby }))

/-- One claim whose function is lost; a claim of the group follows the group host port. -/
def loseBinding (k : Nat) (s : State) : State :=
  let c := claimAt s k
  if c.group && s.group.stage ≠ .none then s
  else match c.takenOver, c.standby with
    | false, some b => if (tget ({} : Function) s.functions b).present then takeOver k s else unbind k s
    | _, _ => unbind k s

/-- The group host port is lost: the registered standby takes over, or new work for the group stops (R549, R627). -/
def loseHostPort (s : State) : State :=
  let g := s.group
  if g.standbyEn then
    forwardAll (.control (Fin.ofNat 64 g.standbyRank) (Fin.ofNat 8 g.standbyFn))
      (setControl g.standbyRank g.standbyFn (modGroup s fun x => { x with standbyEn := false }))
  else bindGroupClaims none (modGroup s fun x => { x with hostLost := true })

/-- The effects of losing function `f`, whose link is down. -/
def loseFunction (f : Nat) (s : State) : State :=
  let ks := claimNos.filter fun k => actsFor s f k
  let s1 := ks.foldl (fun t k => loseBinding k t) s
  let g := s1.group
  if g.stage ≠ .none && !g.hostLost && g.hostRank = g.rank && g.hostFn = f then loseHostPort s1 else s1

/-- Links go down: the configuration space and MSI-X of their functions are cleared, and each bound claim is taken over or
loses its task (R625). -/
def linksLost (ls : List Nat) (s : State) : State :=
  let gone := (upFrom 0 8).filter fun f =>
    (tget ({} : Function) s.functions f).present && ls.contains (tget ({} : Function) s.functions f).link
  let s1 := ls.foldl (fun t l => modPcie t l fun x => { x with up := false }) s
  let s2 := { s1 with functions := gone.foldl (fun m f => tmod {} m f fun x => { x with present := false, ats := false }) s1.functions }
  gone.foldl (fun t f => loseFunction f t) s2

/-- The links of a port. -/
def portLinks (h1 : Bool) : List Nat := if h1 then [2, 3] else [0, 1]

/-- PERST_ASSERT: both links of the port (R662, R663). -/
def execPerstAssert (h1 : Bool) (s : State) : Host.Outcome State Fault Refusal :=
  .next (linksLost (portLinks h1) ((portLinks h1).foldl (fun t l => modPcie t l fun x => { x with reset := true }) s))

/-- PERST_DEASSERT: the links may train from the end of step 6 (R609). -/
def execPerstDeassert (h1 : Bool) (s : State) : Host.Outcome State Fault Refusal :=
  .next ((portLinks h1).foldl (fun t l => modPcie t l fun x => { x with reset := false }) s)

/-- PCIE_LINK_DOWN. -/
def execPcieLinkDown (l : Fin 4) (s : State) : Host.Outcome State Fault Refusal :=
  .next (if (pcieAt s l).up then linksLost [l.val] s else s)

/-- PCIE_LINK_UP: the functions of the link are there again, and claims bound to them. -/
def execPcieLinkUp (l : Fin 4) (s : State) : Host.Outcome State Fault Refusal :=
  let back := (upFrom 0 8).filter fun f =>
    (functionAt s (Fin.ofNat 8 f)).real && (functionAt s (Fin.ofNat 8 f)).link = l.val
  let s1 := modPcie s l.val fun x => { x with up := true }
  let s2 := { s1 with functions := back.foldl (fun m f => tmod {} m f fun x => { x with present := true }) s1.functions }
  .next (if s.sys.boot.stage ≠ 6 || (pcieAt s l).reset || (pcieAt s l).up || !(linkExists s l) then s
    else claimNos.foldl (fun t k =>
      if (claimAt t k).created && !((claimAt t k).group && t.group.stage ≠ .none) && back.contains (claimAt t k).fn then
        modClaim t k fun c => { c with unbound := false }
      else t) s2)

/-- CONFIGURATION_REQUEST: Request Retry Status until the module is ready (R609). -/
def execConfigurationRequest (l : Fin 4) (s : State) : Host.Outcome State Fault Refusal :=
  .next (if (pcieAt s l).up then { s with answer := if moduleReady s then .number 0 else .waits } else s)

/-! ### I3C addresses (R679) -/

/-- An address is taken as an I3C target that has none. -/
def takeAddress (addr : BitVec 7) (s : State) : State :=
  let b := s.sys.boot
  if b.aux && b.sampled && !b.sbSel && b.dynamic.isNone then modBoot s fun x => { x with dynamic := some addr.toNat } else s

/-- SETDASA: by the static address 0x52. -/
def execSetdasa (addr : BitVec 7) (s : State) : Host.Outcome State Fault Refusal := .next (takeAddress addr s)

/-- ENTDAA: by arbitration. -/
def execEntdaa (addr : BitVec 7) (s : State) : Host.Outcome State Fault Refusal := .next (takeAddress addr s)

end Sys2Proof.Machine
end

