-- ==== Sys2Proof/Machine/Forward.lean ====
section
/-! DEFINITION. What a member of a group receives from the group host port module, and that module from the members
(14 R545, R547 to R549; 10 R397). -/

namespace Sys2Proof.Machine

/-- Whether claim `k` is a claim of the group. -/
def isGroupClaim (s : State) (k : Nat) : Bool := (claimAt s k).created && (claimAt s k).group

/-- The task of a member: started from the record and the image that were forwarded (R548). -/
def receiveTask (k ring : Nat) (w : List W64) (image : List Byte) (s : State) : State :=
  if (claimAt s k).task.isSome then s
  else serveRecord k (taskOf ring w true true []) w (if image.isEmpty then none else some image) s

/-- A group claim created here for the group host port, whose function is there, or refused; the host port module is told
(R527, R548). -/
def receiveCreate (ctrl quads mem sync power : W64) (bases : List Nat) (s : State) : State :=
  let r : Request := {
    claim := fieldOf ctrl 63 61, fn := 0, standby := none, group := true, remote := true
    quads := fieldOf quads 31 0, mem := mem, sync := sync, share := fieldOf power 63 54, bases := bases }
  let say (granted : Bool) (t : State) : State :=
    forwardTo s.group.hostRank (.claimAnswer (Fin.ofNat 8 r.claim) (Fin.ofNat 64 (programRank s)) granted) t
  if (claimRefusal s r).isSome then say false s else say true (grantClaim r s)

/-- Where a member's record goes: the task's record place, or its takeover place, plus 64 × rank (R546, R547). -/
def memberPlace (s : State) (k rank : Nat) (t : Task) : Nat :=
  (placeOf (if t.overtaken then (claimAt s k).takeover else t.record)).off + 64 * rank

/-- A member is no longer awaited. -/
def recordHere (rank : Nat) (t : Task) : Task := { t with awaiting := t.awaiting.filter fun r => r ≠ rank }

/-- A member's completion record, written by the group host port module; the ring completes with the last one (R547). While
control is lost it is held (R549). -/
def receiveRecord (k rank : Nat) (words : List W64) (s : State) : State :=
  let c := claimAt s k
  match (match c.closing with
    | some t => some t
    | none => c.task) with
  | none => s
  | some t =>
    let o := memberPlace s k rank t
    let s1 := if s.group.hostLost then
        modGroup s fun g => { g with heldRecords := g.heldRecords ++ [(k, o, words)] }
      else match hostFn s k with
        | some f => writeHost s f o (bytesOf words)
        | none => s
    settleClosing k (modClaim s1 k fun q => { q with
      task := if q.closing.isSome then q.task else q.task.map (recordHere rank)
      closing := q.closing.map (recordHere rank) })

/-- A member's access to host memory, made by the group host port module (R548). -/
def receiveHostWrite (k iova : Nat) (data : List Byte) (s : State) : State :=
  match hostFn s k with
  | some f => if hostMapped s f iova data.length then writeHost s f iova data else s
  | none => s

def receiveHostRead (k iova len : Nat) (s : State) : State :=
  match hostFn s k with
  | some f =>
    if hostMapped s f iova len then { s with answer := .data (hostBytes s f iova len) } else { s with answer := .refused 1 }
  | none => { s with answer := .refused 1 }

/-- Control of the group passes to a member; a registered standby takes over running tasks (R549). -/
def receiveControl (rank fn : Nat) (s : State) : State :=
  let s1 := setControl rank fn s
  if rank = s.group.rank then takeOverGroup s1 else s1

/-- GROUP_FORWARD_RECEIVE. -/
def receiveForward (x : Forwarded) (s : State) : State :=
  let here (k : ClaimId) (t : State) : State := if isGroupClaim s k then t else s
  if !(grouped s) then s
  else match x with
    | .task k ring w image => here k (receiveTask k ring w image s)
    | .hold k => here k (holdOn k s)
    | .holdLift k => here k (holdOff k s)
    | .cancel k => here k (cancelTask k s)
    | .claimCreate ctrl quads mem sync power bases => receiveCreate ctrl quads mem sync power bases s
    | .claimAnswer k rank granted => receiveAnswer k rank granted s
    | .claimHeld k rank held => here k (receiveHeld k rank held s)
    | .claimDestroy k => here k (destroyClaim k s)
    | .record k rank words => here k (receiveRecord k rank words s)
    | .hostWrite k iova data => here k (receiveHostWrite k iova data s)
    | .hostRead k iova len => here k (receiveHostRead k iova len s)
    | .abort k rank => here k (peerAbort k rank s)
    | .dissolve => leaveGroup s
    | .control rank fn => receiveControl rank fn s

def execGroupForwardReceive (x : Forwarded) (s : State) : Host.Outcome State Fault Refusal := .next (receiveForward x s)

end Sys2Proof.Machine
end

