-- ==== Sys2Proof/Machine/Held.lean ====
section
/-! DEFINITION. Requests that were held or refused and are presented again: wait registers (08 R295 to R297), turn holds
(07 R270), backoffs (11 R437), and what a codeword lets go on (11 R408). -/

namespace Sys2Proof.Machine

/-- An engine presents the item that it could not go on with. -/
def unitResume (e : Engine) (s : State) : State :=
  match e with
  | .matrix c => if (coreAt s c).att.call.isSome then attentionStart c ⟨[], []⟩ s else fillStart c s
  | .dressing c =>
    if (coreAt s c).att.call.isSome then attentionClose c s
    else match (coreAt s c).drs.queue with
      | ⟨_, .closing _ _ _ _ _ _ _⟩ :: _ => closingStart c s
      | _ => dressingStart c s
  | .coreMover c m1 => moverStart (.core c m1) false s
  | .hubMover n => moverStart (.hub n) false s
  | _ => s

/-! ### Wait registers (R295 to R297) -/

/-- A tagged access that was held, other than an item, is performed: data moved, its tag changed, its tiles sealed where it
came through a window; a scalar access ends its instruction, and an engine of another module is answered. -/
def performHeld (c : CoreId) (a : HeldAccess) (s : State) : State :=
  let n := heldLen a.op
  let s1 := countPort c a.port (linesIn a.offset n) s
  let tagged (t : State) : State := tagAfter t c a.offset n a.mark a.isWrite
  let sealed (t : State) : State := if a.win.isSome then sealWritten t c [(a.offset, n)] else t
  match a.op with
  | .access (.read m) => { tagged s1 with answer := .data (benchBytes s c a.offset m) }
  | .access (.write d) => owesReply a.eng 0 { tagged (sealed (writeBench s1 c a.offset d)) with answer := .nothing }
  | .part v bits =>
    owesReply a.eng 0 { tagged (writeBench s1 c a.offset [mixBits bits (benchByte s c a.offset) v]) with answer := .nothing }
  | .load rd _ => completeWait (setReg (tagged s1) c rd (BitVec.ofNat 64 (leNat (benchBytes s c a.offset n)))) c
  | .store d => completeWait (tagged (writeBench s1 c a.offset d)) c
  | .item => s

/-- The fault of a held access that its bench refuses. -/
def heldErr (c : CoreId) (a : HeldAccess) (f : FaultInfo) (s : State) : State :=
  match a.owner, a.eng with
  | some k, e => windowErr k e (placeOf (benchPlace c a.offset)) f s
  | none, .sequencer d => seqOther (if benchFaultCode f.name = 0 then s
      else recordBenchFault c (benchFaultCode f.name) (benchBank a.offset) 1 1 (slotOf a.offset) (slotOf a.offset) s) d f
  | none, e => raiseBench e a.port c a.offset f s

/-- Whether the slots of a held access are in the state that it waits for. -/
def heldReady (s : State) (c : Nat) (a : HeldAccess) : Bool := (rangeBlocks s c a.offset (heldLen a.op) a.isWrite).isNone

/-- Whether a held access stands behind one that began to wait before it: of its engine at its port, or of its direction on a
slot of its own (R295, R297). -/
def heldBehind (earlier : List HeldAccess) (a : HeldAccess) : Bool :=
  earlier.any fun b => (sameSender a.eng (heldSlots a) b && b.port == a.port) || sameSide a.isWrite (heldSlots a) b

/-- A held access issues to its bank; `out` is the state without it. -/
def issueHeld (c : CoreId) (a : HeldAccess) (s out : State) : State :=
  if a.op = .item then unitResume a.eng s
  else match benchGate s c a.offset (heldLen a.op) (!a.isWrite) with
    | .err f => heldErr c a f out
    | .wait => s
    | .go => performHeld c a out

/-- The held access `n` of a core: it issues once its slot is ready and nothing stands before it, while the core's beats
run. -/
def heldIssue (c : CoreId) (n : Nat) (s : State) : State :=
  let hs := (coreAt s c).bench.held
  match hs[n]? with
  | none => s
  | some a =>
    if !(beatsRun s c) || heldBehind (hs.take n) a || !(heldReady s c a) then s
    else issueHeld c a s (modBench s c fun b => { b with held := hs.eraseIdx n })

/-- HELD_ACCESS_ISSUE (R297); what waited for the tag in a net queue goes on. -/
def execHeldAccessIssue (c : CoreId) (n : Nat) (s : State) : Host.Outcome State Fault Refusal :=
  .next (endDestroys (sendReplies (serveNets (heldIssue c n s))))

/-! ### Turn holds (R270) -/

/-- Whether the turn of a request under counter `t` has come. -/
def turnCome (s : State) (t contributor : Nat) : Bool := (turnAt s t).next = contributor

/-- Whether a request that waits for its turn is due. -/
def turnReqDue (s : State) : TurnReq → Bool
  | .request r _ => match r.turn with
    | some u => turnCome s u.counter.val u.contributor
    | none => true
  | .item _ u => turnCome s u.counter.val u.contributor

/-- A request whose turn has come is taken by its slice: none when its bank is in its power-up, and it waits where it stands
(R282). `out` is the state without it. -/
def takeTurn (r : TurnReq) (s out : State) : Option State :=
  match r with
  | .request q k => match accGate s k q with
    | .wait => none
    | _ => some (owesReply q.engine 0 (accumulate k q none out).2)
  | .item e _ => some (unitResume e out)

/-- TURN_HOLD_PRESENT: the request in the turn hold of counter `t` is presented again. -/
def turnPresent (t : Nat) (s : State) : State :=
  let x := turnAt s t
  match x.hold with
  | none => s
  | some r =>
    if !(turnReqDue s r) then s
    else match takeTurn r s (setTurn s t { x with hold := none }) with
      | some u => u
      | none => s

def execTurnHoldPresent (t : Fin 512) (s : State) : Host.Outcome State Fault Refusal :=
  .next (sendReplies (serveNets (turnPresent t s)))

/-! ### Backoffs (R270, R296, R302, R306, R437) -/

/-- A request is refused again: its backoff doubles, up to 1,024 (R437). -/
def backOffAgain (b : Backoff) (s : State) : State := backOff s b.req (min 1024 (2 * b.delay))

/-- The counter of a request that waits for its turn. -/
def turnCounterOf : TurnReq → Option Nat
  | .request r _ => r.turn.map fun u => u.counter.val
  | .item _ u => some u.counter.val

/-- A request that was not due is presented again: due, it is taken; else the turn hold takes it, or it backs off again
(R270). `s` still lists its backoff, `out` does not. -/
def retryTurn (b : Backoff) (r : TurnReq) (s out : State) : State :=
  if turnReqDue s r then (takeTurn r s out).getD s
  else match turnCounterOf r with
    | none => out
    | some t =>
      let x := turnAt out t
      if x.hold.isNone then setTurn out t { x with hold := some r } else backOffAgain b out

/-- A tagged access that P-net returned is presented again: it issues, stands in a wait register, or is returned again (R296).
`s` still lists its backoff, `out` does not. -/
def retryTagged (b : Backoff) (c : CoreId) (a : HeldAccess) (s out : State) : State :=
  if !(beatsRun s c) then s
  else if !(heldBehind (coreAt s c).bench.held a) && heldReady s c a then issueHeld c a s out
  else if waitRegisters s c a.port a.eng then modBench out c fun x => { x with held := x.held ++ [a] }
  else backOffAgain b out

/-- What a request that is presented again at a home comes to. -/
def retryEnd (b : Backoff) (who : Waiter) : Served × State → State
  | (.done, t) => releaseWaiter who t
  | (.waits, t) => t
  | (.refused, t) => backOffAgain b t

/-- The backoff `n` is over: its request is presented again. -/
def backoffRetry (n : Nat) (s : State) : State :=
  match s.backoffs[n]? with
  | none => s
  | some b =>
    let out := { s with backoffs := s.backoffs.eraseIdx n }
    match b.req with
    | .tagged c a => retryTagged b c a s out
    | .wait w => retryEnd b w.who (tallyWait out w)
    | .push x p => retryEnd b p.who (conveyorPush out x p)
    | .pop x p => match conveyorPop out x p with
      | (.refused, t) => backOffAgain b t
      | (_, t) => t
    | .accumulate r => retryTurn b r s out
    | .junction p r => (parkRequest p r out).getD (backOffAgain b (countRefused p out))
    | .loser p entry => presentLoser p entry out

def execBackoffRetry (n : Nat) (s : State) : Host.Outcome State Fault Refusal :=
  .next (endDestroys (sendReplies (serveNets (backoffRetry n s))))

/-! ### Codewords -/

def execFlitReceive (l : LinkId) (flits : List Flit) (corrected marked : Bool) (acked : Option Nat)
    (credits : List (Fin 4 × Nat)) (s : State) : Host.Outcome State Fault Refusal :=
  .next (serveNets (flitReceive l flits corrected marked acked credits s))

end Sys2Proof.Machine
end

