-- ==== Sys2Proof/Machine/RegNames.lean ====
section
/-! DEFINITION. The registers of BAR0 and their offsets (01 R46 to R51, and the register maps of each chapter). -/

namespace Sys2Proof.Machine

/-- Registers of one core's block (R47), in the order of their offsets. -/
inductive CoreReg where
  | seqStatus | seqFault | seqFaultWord | seqRetired
  | seqStalls (q : Nat)
  | seqImage | pwrState | syncWait | syncFault | syncCounts
  | rtDeadline (cls : Nat)
  | arrCtrl | arrStatus | arrValidBeats | arrBubbleBeats | arrRamps | chkStatus | chkWide | arithFlags
  | drsStatus | drsFault | drsBeats | drsPortBeats | drsCloses
  | attStatus | attFault | attCounts
  | mover (m1 : Bool) (i : Nat)
  | netStatus | netFault
  | benchPower | benchFault | benchTagSel | benchTagView
  | benchPortBeats (port : Nat)
  deriving DecidableEq, Repr

/-- Registers of one claim's page (R551, R602). -/
inductive ClaimReg where
  | state | ownSync | ownUnits | config | hold | takeover | counts
  | ownGal (d : Nat)
  | ownDram (w : Nat)
  | phase (i : Nat)
  | ringBase (r : Nat)
  | ringCtrl (r : Nat)
  | ringDb (r : Nat)
  | ringHead (r : Nat)
  deriving DecidableEq, Repr

/-- Registers of the Governor and power block (R77, R289, R598, R599). -/
inductive GovReg where
  | cap | capStatus | classCtrl | classBudget
  | claim (k : Nat)
  | matching
  | die (d : Nat)
  | paceStatus (d : Nat)
  | droopEvents (d : Nat)
  | est | estFixed
  | estDie (d : Nat)
  | input
  | reason (r : Nat)
  | reasonSrc
  | dieState (d : Nat)
  | moduleState
  | galOff (d : Nat)
  | galReady (d : Nat)
  | dramOff (w : Nat)
  | dramReady (w : Nat)
  | memRefused
  deriving DecidableEq, Repr

/-- A BAR0 register. -/
inductive Reg where
  | idPart | idSerial | idFw | idPosition | diePresent | poweredOff
  /-- CLM_REQ_CTRL, QUADS, MEM, SYNC, POWER, STATUS: 0 to 5. -/
  | request (i : Nat)
  | claim (k : Nat) (r : ClaimReg)
  | gov (r : GovReg)
  | thmDie (d : Nat)
  | thmHub
  | thmDram (n : Nat)
  | thmCtrl | thmTrip
  | jctSlot (t j : Nat)
  | jctBg (t : Nat)
  | jctPending (t : Nat)
  | smpClaim (k : Nat)
  | smpFault
  | smpCollCalls (k : Nat)
  | smpCollFault
  /-- GLK_STATUS, GLK_ERRORS, GLK_REPLAY of link l: 0 to 2. -/
  | link (l i : Nat)
  | detour (r : Nat)
  | portStatus (e : Nat)
  | portBytes (e : Nat)
  | portEvents (e : Nat)
  | haulCc | haulFault
  | haulClaim (k : Nat)
  | stream (n i : Nat)
  | qp (n i : Nat)
  /-- MOV_STATUS to MOV_BLOCKS of hub mover n: 0 to 5. -/
  | hubMover (n i : Nat)
  /-- MOV_COLL_STATUS, FAULT, BYTES of collective mover n: 0 to 2. -/
  | collMover (n i : Nat)
  | errSummary | errBarAccess
  | errCount (k : Nat)
  | errFenced (w : Nat)
  | errQuad
  | errGalWithdrawn (d : Nat)
  | errDramWithdrawn (w : Nat)
  | errPersist | errLogHead | errPlogHead
  | errLog (i w : Nat)
  | errPlog (j w : Nat)
  | mbxReq (f : Nat)
  | mbxData (f i : Nat)
  | mbxStatus (f : Nat)
  | mbxFwStatus | mbxGroupPlan | mbxGroupStatus | mbxGroupLost
  | mbxRankMap (r : Nat)
  | window (w i : Nat)
  | winRefusedCount (w : Nat)
  | winRefuseFirst
  | core (c : Nat) (r : CoreReg)
  deriving DecidableEq, Repr

/-- The index of an offset in an array of registers from `base`, `n` of them `step` apart. -/
def indexAt (base step n o : Nat) : Option Nat :=
  if base ≤ o && (o - base) % step = 0 && (o - base) / step < n then some ((o - base) / step) else none

/-- The first register that a list of alternatives names. -/
def firstOf {α : Type} : List (Option α) → Option α
  | [] => none
  | some x :: _ => some x
  | none :: xs => firstOf xs

/-- One register at an offset. -/
def oneAt {α : Type} (o at_ : Nat) (r : α) : Option α := if o = at_ then some r else none

/-- A core's register at an offset of its block. -/
def coreRegAt (o : Nat) : Option CoreReg := firstOf
  [oneAt o 0x0 .seqStatus, oneAt o 0x8 .seqFault, oneAt o 0x10 .seqFaultWord, oneAt o 0x18 .seqRetired,
   (indexAt 0x20 8 5 o).map .seqStalls, oneAt o 0x48 .seqImage, oneAt o 0x100 .pwrState,
   oneAt o 0x3000 .syncWait, oneAt o 0x3008 .syncFault, oneAt o 0x3010 .syncCounts, (indexAt 0x3100 8 16 o).map .rtDeadline,
   oneAt o 0x4000 .arrCtrl, oneAt o 0x4008 .arrStatus, oneAt o 0x4010 .arrValidBeats, oneAt o 0x4018 .arrBubbleBeats,
   oneAt o 0x4020 .arrRamps, oneAt o 0x4040 .chkStatus, oneAt o 0x4048 .chkWide, oneAt o 0x4060 .arithFlags,
   oneAt o 0x4100 .drsStatus, oneAt o 0x4108 .drsFault, oneAt o 0x4110 .drsBeats, oneAt o 0x4118 .drsPortBeats,
   oneAt o 0x4120 .drsCloses, oneAt o 0x4200 .attStatus, oneAt o 0x4208 .attFault, oneAt o 0x4210 .attCounts,
   (indexAt 0x8000 8 6 o).map (.mover false), (indexAt 0x8100 8 6 o).map (.mover true),
   oneAt o 0xC000 .netStatus, oneAt o 0xC008 .netFault,
   oneAt o 0x10000 .benchPower, oneAt o 0x10008 .benchFault, oneAt o 0x10010 .benchTagSel, oneAt o 0x10018 .benchTagView,
   (indexAt 0x10020 8 4 o).map .benchPortBeats]

/-- A ring's register at an offset from the first ring. -/
def ringRegAt (o : Nat) : Option ClaimReg :=
  if 16 * 0x20 ≤ o then none
  else match o % 0x20 with
    | 0x0 => some (.ringBase (o / 0x20))
    | 0x8 => some (.ringCtrl (o / 0x20))
    | 0x10 => some (.ringDb (o / 0x20))
    | 0x18 => some (.ringHead (o / 0x20))
    | _ => none

/-- A claim's register at an offset of its page. -/
def claimRegAt (o : Nat) : Option ClaimReg :=
  if 0x800 ≤ o then ringRegAt (o - 0x800)
  else firstOf
    [oneAt o 0x0 .state, oneAt o 0x8 .ownSync, oneAt o 0x10 .ownUnits, oneAt o 0x18 .config, oneAt o 0x20 .hold,
     oneAt o 0x28 .takeover, oneAt o 0x30 .counts, (indexAt 0x40 8 8 o).map .ownGal, (indexAt 0x80 8 4 o).map .ownDram,
     (indexAt 0x100 8 16 o).map .phase]

/-- A register of the Governor and power block. -/
def govRegAt (o : Nat) : Option GovReg := firstOf
  [oneAt o 0x0 .cap, oneAt o 0x8 .capStatus, oneAt o 0x10 .classCtrl, oneAt o 0x18 .classBudget,
   (indexAt 0x40 8 8 o).map .claim, oneAt o 0x100 .matching, (indexAt 0x200 8 8 o).map .die,
   (indexAt 0x1000 8 8 o).map .paceStatus, (indexAt 0x1040 8 8 o).map .droopEvents,
   oneAt o 0x2000 .est, oneAt o 0x2008 .estFixed, (indexAt 0x2040 8 8 o).map .estDie, oneAt o 0x2100 .input,
   (indexAt 0x2200 8 8 o).map .reason, oneAt o 0x2240 .reasonSrc, (indexAt 0x2300 8 8 o).map .dieState,
   oneAt o 0x2340 .moduleState, (indexAt 0x3000 8 8 o).map .galOff, (indexAt 0x3040 8 8 o).map .galReady,
   (indexAt 0x3080 8 4 o).map .dramOff, (indexAt 0x30A0 8 4 o).map .dramReady, oneAt o 0x30C0 .memRefused]

/-- A register of the Junction and sump block. -/
def junctionRegAt (o : Nat) : Option Reg := firstOf
  [(indexAt 0 8 (44 * 8) o).map fun i => .jctSlot (i / 8) (i % 8), (indexAt 0xC00 8 44 o).map .jctBg,
   (indexAt 0x1000 8 44 o).map .jctPending, (indexAt 0x80000 8 8 o).map .smpClaim, oneAt o 0x80100 .smpFault,
   (indexAt 0x80200 8 8 o).map .smpCollCalls, oneAt o 0x80300 .smpCollFault]

/-- A register of the Goham links block. -/
def linkRegAt (o : Nat) : Option Reg :=
  if o < 0xC00 then (indexAt 0 8 3 (o % 0x100)).map (.link (o / 0x100)) else (indexAt 0x2000 8 64 o).map .detour

/-- A register of the Haul block (R514, R515). -/
def haulRegAt (o : Nat) : Option Reg :=
  if 0x50000 ≤ o then (indexAt 0x50000 8 (4096 * 8) o).map fun i => .qp (i / 8) (i % 8)
  else if 0x10000 ≤ o then (indexAt 0x10000 8 (4096 * 8) o).map fun i => .stream (i / 8) (i % 8)
  else firstOf
    [(indexAt 0 0x100 2 o).map .portStatus, (indexAt 8 0x100 2 o).map .portBytes, (indexAt 0x10 0x100 2 o).map .portEvents,
     oneAt o 0x1000 .haulCc, oneAt o 0x2000 .haulFault, (indexAt 0x3000 8 8 o).map .haulClaim]

/-- A register of the Hub movers block (R403, R484). -/
def moverRegAt (o : Nat) : Option Reg :=
  if o < 0x1000 then (indexAt 0 8 6 (o % 0x100)).map (.hubMover (o / 0x100))
  else if o < 0x2000 then (indexAt 0 8 3 (o % 0x100)).map (.collMover (o / 0x100 - 16))
  else none

/-- A register of the Errors and RAS block (R659, R660). -/
def errRegAt (o : Nat) : Option Reg :=
  if 0x80000 ≤ o then (indexAt 0x80000 8 (16384 * 4) o).map fun i => .errPlog (i / 4) (i % 4)
  else if 0x10000 ≤ o then (indexAt 0x10000 8 (256 * 4) o).map fun i => .errLog (i / 4) (i % 4)
  else firstOf
    [oneAt o 0x0 .errSummary, oneAt o 0x8 .errBarAccess, (indexAt 0x100 8 8 o).map .errCount,
     (indexAt 0x200 8 8 o).map .errFenced, oneAt o 0x240 .errQuad, (indexAt 0x280 8 8 o).map .errGalWithdrawn,
     (indexAt 0x2C0 8 4 o).map .errDramWithdrawn, oneAt o 0x300 .errPersist, oneAt o 0x400 .errLogHead,
     oneAt o 0x408 .errPlogHead]

/-- A register of a function's mailbox page. -/
def pageRegAt (f o : Nat) : Option Reg := firstOf
  [oneAt o 0x0 (.mbxReq f), (indexAt 0x8 8 14 o).map (.mbxData f), oneAt o 0x80 (.mbxStatus f)]

/-- A register of the Firmware mailbox block (R628, R629). -/
def mailboxRegAt (o : Nat) : Option Reg :=
  if o < 0x8000 then pageRegAt (o / 0x1000) (o % 0x1000)
  else firstOf
    [oneAt o 0x80000 .mbxFwStatus, oneAt o 0x80008 .mbxGroupPlan, oneAt o 0x80010 .mbxGroupStatus,
     oneAt o 0x80018 .mbxGroupLost, (indexAt 0x80100 8 64 o).map .mbxRankMap]

/-- A register of the Windows block (R450). -/
def windowRegAt (o : Nat) : Option Reg :=
  if o < 0x4000 then (indexAt 0 8 (256 * 8) o).map fun i => .window (i / 8) (i % 8)
  else firstOf [(indexAt 0x4000 8 256 o).map .winRefusedCount, oneAt o 0x4800 .winRefuseFirst]

/-- A register of the thermal block (R600). -/
def thermRegAt (o : Nat) : Option Reg := firstOf
  [(indexAt 0 8 8 o).map .thmDie, oneAt o 0x40 .thmHub, (indexAt 0x48 8 2 o).map .thmDram, oneAt o 0x60 .thmCtrl,
   oneAt o 0x68 .thmTrip]

/-- A register of the Claims block (R551). -/
def claimsRegAt (o : Nat) : Option Reg :=
  if o < 0x10000 then (indexAt 0 8 6 o).map .request
  else if o < 0x90000 then (claimRegAt (o % 0x10000)).map (.claim (o / 0x10000 - 1))
  else none

/-- A register of the Identity and global control block (R51). -/
def globalRegAt (o : Nat) : Option Reg := firstOf
  [oneAt o 0x0 .idPart, oneAt o 0x8 .idSerial, oneAt o 0x10 .idFw, oneAt o 0x18 .idPosition, oneAt o 0x20 .diePresent,
   oneAt o 0x28 .poweredOff]

/-- The register at an offset of BAR0, a multiple of 8; none where the manual defines no register (R46, R49). -/
def barRegAt (o : Nat) : Option Reg :=
  let b := o / 0x100000
  let x := o % 0x100000
  if o < 0xB00000 then
    match b with
    | 0 => globalRegAt x
    | 1 => claimsRegAt x
    | 2 => (govRegAt x).map .gov
    | 3 => thermRegAt x
    | 4 => junctionRegAt x
    | 5 => linkRegAt x
    | 6 => haulRegAt x
    | 7 => moverRegAt x
    | 8 => errRegAt x
    | 9 => mailboxRegAt x
    | _ => windowRegAt x
  else if 0x1000000 ≤ o && o < 0x3000000 then
    (coreRegAt ((o - 0x1000000) % 0x40000)).map (.core ((o - 0x1000000) / 0x40000))
  else none

end Sys2Proof.Machine
end

