-- ==== Sys2Proof/Machine/RegView.lean ====
section
/-! DEFINITION. What each register of BAR0 reads as (R17, R18, and the register maps of each chapter). -/

namespace Sys2Proof.Machine

/-- A field's value placed at its low bit, cut to its width. -/
def field (v hi lo : Nat) : W64 := placed (v % 2 ^ (hi + 1 - lo)) lo

/-- Fields put together. -/
def pack (fs : List W64) : W64 := fs.foldl (fun w f => w ||| f) 0

/-- A signed value in units of 0.125 °C, as a 12-bit field (R600). -/
def tempField (t : Int) (lo : Nat) : W64 := placed (wrapNat 12 t) lo

/-- The set of numbers below `n` for which a test holds. -/
def setIf (n : Nat) (p : Nat → Bool) : Nat := (upFrom 0 n).foldl (fun x i => if p i then x + 2 ^ i else x) 0

/-! ### Per-core registers -/

/-- The code of a sequencer state (R372). -/
def runCode : SeqRun → Nat
  | .idle => 0 | .running => 1 | .waiting => 2 | .stalled => 3 | .held => 4 | .ended => 5 | .faulted => 6

/-- The index of the next instruction to issue: that after one that is issued and waits; a fence issues when its units are
through. -/
def nextToIssue (q : SeqState) : Nat :=
  match q.wait with
  | some w => if w.kind = 3 then q.pc else (followed q).pc
  | none => q.pc

def seqStatusWord (s : State) (c : Nat) : W64 :=
  let k := coreAt s c
  let q := k.seq
  let owner := (coreOwner s c).map (claimAt s)
  pack [field (runCode q.run) 63 60, field (nextToIssue q) 59 46, field k.m0.lists.length 45 42, field k.m1.lists.length 41 38,
    field k.net.queue.length 37 34, field q.phase 33 30, field (setIf 4 q.order.contains) 29 26, field q.breakId 25 10,
    flagAt (owner.any fun x => (x.holdReq || x.shed || x.parked) && !x.held) 9]

def seqFaultWord (f : SeqFault) : W64 :=
  pack [field f.code 63 56, field f.reason 55 52, field f.pc 45 32, flagAt f.fault 0]

def powerStateWord (p : CorePower) : W64 :=
  pack [field p.state 63 61, field p.request 60 59, flagAt p.refused 58, flagAt p.govHeld 57]

/-- CORE_SYNC_WAIT: the waits now, or what firmware recorded at a watchdog stall (R327, R331). How long a wait has lasted is a
matter of time, and a free value while an engine waits (log entry 134). -/
def syncWaitWord (s : State) (c : Nat) : W64 :=
  let x : CoreId := Fin.ofNat 128 c
  let y := (coreAt s c).sync
  let w := match (coreAt s c).seq.wait with
    | some v => some v
    | none => y.recorded
  pack [(upFrom 0 6).foldl (fun n e => n ||| flagAt (engineWaits s x e) (63 - e)) 0,
    field ((w.map fun v => v.kind).getD 0) 57 56, field ((w.map fun v => v.object).getD 0) 48 32,
    if (upFrom 0 6).any (engineWaits s x) then placed (Config.freeWord (s.draws + y.waitTime)).toNat 0 else 0]

def syncFaultWord (f : SyncFault) : W64 :=
  pack [field f.code 63 56, field f.engine 55 53, field f.kind 52 51, field f.object 50 34, field f.cls 33 30, flagAt f.fault 0]

/-- The code of a shadow's state (R95). -/
def shadowCode : Shadow → Nat
  | .empty => 0 | .filling => 1 | .ready => 2

def arrStatusWord (m : MatState) : W64 :=
  pack [field m.fenced 63 60, field (shadowCode m.shadow) 59 58, flagAt m.activeValid 57, flagAt m.idle 56,
    field m.quarters 55 53, field m.queue.length 47 44]

def chkWord (k : ChkState) : W64 :=
  pack [field k.mismatches 63 48, field k.array 47 46, field k.row 45 38, flagAt k.half 37, field k.block 34 33,
    flagAt k.wide 32, flagAt k.mismatch 0]

def arithFlagsWord (a : ArithFlags) : W64 :=
  pack [field a.satCount 63 48, field a.ovfCount 47 32, field a.intOvf 11 8, field (arithFlagBits a) 5 0]

/-- CORE_DRS_STATUS (R206): the fields of the running chain are stored as it starts and ends. -/
def drsStatusWord (d : DrsState) : W64 :=
  pack [field d.queue.length 63 59, field d.position 58 57, flagAt (decide (0 < d.holdBytes)) 56, flagAt d.closeWait 55,
    field d.handle 47 32, field ((d.holdBytes + 1023) / 1024) 31 16]

def drsFaultWord (f : DrsFault) : W64 :=
  pack [field f.code 63 56, field f.reason 55 52, field f.stage 51 48, field f.handle 47 32, flagAt f.fault 0]

def attStatusWord (a : AttState) : W64 :=
  pack [flagAt a.call.isSome 63, flagAt (match a.call with | some x => x.tiles.isEmpty | none => false) 62,
    flagAt a.kvWait 61,
    field ((a.call.map fun x => x.ref.handle).getD 0) 48 32, field a.tile 31 0]

def attFaultWord (f : AttFault) : W64 :=
  pack [field f.code 63 56, field f.reason 55 52, field f.handle 48 32, flagAt f.fault 0]

/-- The state of a mover (R403). -/
def moverCodeOf (s : State) (m : MoverId) : Nat :=
  let v := moverAt s m
  if v.stopped then (if v.fault.fault then 6 else 5)
  else if v.pushing then 4
  else if moverBlocked v then 2
  else if accessOut s (moverEngine m) then 3
  else if listsIdle v && v.prog.isNone then 0 else 1

/-- Blocks outstanding: from a block's first access to its delivery (R378). -/
def outstanding (v : MoverState) : Nat := v.out.length + b2n v.prog.isSome

/-- Register `i` of a mover; `claim` owns a hub mover. -/
def moverWord (s : State) (claim : Nat) (m : MoverId) (i : Nat) : W64 :=
  let v := moverAt s m
  let f := v.fault
  match i with
  | 0 => pack [field claim 63 61, field (moverCodeOf s m) 60 58, field (outstanding v) 57 53, field v.lists.length 52 48,
      field (oldestBlock v) 47 32,
      field ((v.lists.head?.map fun l => l.handle).getD ((v.out.getLast?.map fun o => o.handle).getD 0)) 31 15]
  | 1 => pack [field f.code 63 56, field f.reason 55 52, field f.block 47 32, field f.listSeq 31 16, flagAt f.fault 0]
  | 2 => f.place
  | 3 => pack [field f.i1 63 48, field f.i2 47 32, field f.i3 31 16, field f.i4 15 4]
  | 4 => BitVec.ofNat 64 v.bytes
  | _ => pack [field v.delivered 63 32, field v.creditWaits 31 0]

/-- P-net wait registers of a core in use (R295). -/
def netHeld (b : BenchState) : Nat := (b.held.filter fun a => a.port = .pNet).length

def netFaultWord (f : NetFault) : W64 :=
  pack [field f.code 63 56, field f.reason 55 52, field f.window 51 44, field f.rank 43 38, flagAt f.fault 0]

def benchPowerWord (b : BenchState) : W64 := pack [flagAt b.refused 48, field b.ready 47 32, field b.off 15 0]

def benchFaultWord (f : BenchFault) : W64 :=
  pack [field f.code 63 56, field f.bank 55 52, field f.portA 51 50, field f.portB 49 48, field f.slotA 44 32,
    field f.slotB 31 19, flagAt f.fault 0]

/-- CORE_BENCH_TAG_VIEW: the slot that CORE_BENCH_TAG_SEL names (R288). -/
def tagViewWord (s : State) (c : Nat) : W64 :=
  let b := (coreAt s c).bench
  let returned := s.backoffs.filterMap fun x => match x.req with
    | .tagged d a => if d.val = c then some a else none
    | _ => none
  let here := (b.held ++ returned).filter fun a => (heldSlots a).contains b.tagSel
  pack [flagAt (here.any fun a => !a.isWrite) 2, flagAt (here.any fun a => a.isWrite) 1, flagAt (tget false b.tags b.tagSel) 0]

def coreRegWord (s : State) (c : Nat) (r : CoreReg) : W64 :=
  let k := coreAt s c
  match r with
  | .seqStatus => seqStatusWord s c
  | .seqFault => seqFaultWord k.seq.fault
  | .seqFaultWord => k.seq.fault.word
  | .seqRetired => BitVec.ofNat 64 k.seq.retired
  | .seqStalls q => BitVec.ofNat 64 (tget 0 k.seq.stalls q)
  | .seqImage => k.seq.imageId
  | .pwrState => powerStateWord k.pwr
  | .syncWait => syncWaitWord s c
  | .syncFault => syncFaultWord k.sync.fault
  | .syncCounts => pack [field k.sync.tagWaits 63 32, field k.sync.otherWaits 31 0]
  | .rtDeadline x => if x = 0 then 0 else field (tget 0 k.sync.deadlines x) 31 0
  | .arrCtrl => pack [field k.mat.idleAfter 15 8, field k.mat.ramp 1 0]
  | .arrStatus => arrStatusWord k.mat
  | .arrValidBeats => BitVec.ofNat 64 k.mat.validBeats
  | .arrBubbleBeats => BitVec.ofNat 64 k.mat.bubbleBeats
  | .arrRamps => pack [field k.mat.ramps 63 32, field k.mat.rampBeats 31 0]
  | .chkStatus => chkWord k.mat.chk
  | .chkWide => pack [field k.mat.wideTiles 63 32, field k.mat.specialChunks 31 0]
  | .arithFlags => arithFlagsWord k.mat.arith
  | .drsStatus => drsStatusWord k.drs
  | .drsFault => drsFaultWord k.drs.fault
  | .drsBeats => BitVec.ofNat 64 k.drs.beats
  | .drsPortBeats => BitVec.ofNat 64 k.drs.portBeats
  | .drsCloses => pack [field k.drs.closes 63 32, field k.drs.closeWaitBeats 31 0]
  | .attStatus => attStatusWord k.att
  | .attFault => attFaultWord k.att.fault
  | .attCounts => pack [field k.att.calls 63 32, field k.att.skipped 31 0]
  | .mover m1 i => moverWord s 0 (.core (Fin.ofNat 128 c) m1) i
  | .netStatus => pack [field k.net.queue.length 63 60, field (netHeld k.bench) 59 56]
  | .netFault => netFaultWord k.net.fault
  | .benchPower => benchPowerWord k.bench
  | .benchFault => benchFaultWord k.bench.fault
  | .benchTagSel => field k.bench.tagSel 12 0
  | .benchTagView => tagViewWord s c
  | .benchPortBeats p => BitVec.ofNat 64 (tget 0 k.bench.portBeats p)

/-! ### Claims (R530, R551) -/

/-- CLM_REQ_CTRL to CLM_REQ_STATUS. -/
def requestWord (q : ClaimReq) (i : Nat) : W64 :=
  match i with
  | 0 => ctrlWord q
  | 1 => field q.quads 31 0
  | 2 => q.mem &&& 0xFFFFFFFFFFFFFE00
  | 3 => q.sync &&& 0xFFFFFFFFFFFFE000
  | 4 => field q.share 63 54
  | _ => pack [field q.result 63 56, flagAt q.busy 55, field q.lastClaim 54 52, field q.free 47 32]

/-- The state of a claim (R530). -/
def claimCode (c : Claim) : Nat :=
  if !c.created then 0
  else if c.destroying then 5
  else if c.held || shedNow c then 4
  else if c.task.isSome then (if c.holdReq || c.shed || c.parked then 3 else 2)
  else 1

def ringCtrlWord (r : Ring) : W64 := pack [flagAt r.enable 63, field r.prio 62 61, field r.sizeLog 60 56]

def claimRegWord (c : Claim) (r : ClaimReg) : W64 :=
  match r with
  | .state => pack [field (claimCode c) 63 61,
      field (if c.takenOver then c.standby.getD c.fn else c.fn) 60 58, flagAt c.standby.isSome 57, field (c.standby.getD 0) 56 54,
      flagAt c.takenOver 53, flagAt c.group 52, flagAt c.image.isSome 51, field c.quads 31 0]
  | .ownSync => pack [field (1024 * c.tallyBase) 63 47, field c.tallyUnits 46 39, field (8 * c.convBase) 38 30,
      field c.convUnits 29 23, field c.sump 22 13, field c.share 12 3]
  | .ownUnits => pack [field c.winBase 63 56, field c.winCount 55 47, field c.hubMovers 46 31, field c.turnBase 30 22,
      field c.turnCount 21 12, field (setCount 16 c.collMovers) 11 7]
  | .config => pack [field c.watchdog 63 44, flagAt c.rtMode 43, flagAt c.wdOff 42]
  | .hold => pack [flagAt c.held 1, flagAt c.holdReq 0]
  | .takeover => c.takeover
  | .counts => pack [field c.completed 63 32, field c.aborted 31 16, field c.loads 15 0]
  | .ownGal d => BitVec.ofNat 64 (c.galBanks >>> (64 * d))
  | .ownDram w => BitVec.ofNat 64 (c.dram >>> (64 * w))
  | .phase i => field (tget 0 c.phases i) 63 56
  | .ringBase n => (tget ({} : Ring) c.rings n).base
  | .ringCtrl n => ringCtrlWord (tget {} c.rings n)
  | .ringDb _ => 0
  | .ringHead n => pack [field (tget ({} : Ring) c.rings n).done 63 32, field (tget ({} : Ring) c.rings n).head 15 0]

/-! ### Governor and power (R77, R289, R598, R599) -/

def paceWord (s : State) (x : DieState) : W64 :=
  let n := appliedPace s x
  let binds (v : Nat) : Bool := v ≠ 0 && v = n
  pack [field x.natural 55 48, field n 47 40, field (govTarget x) 39 32, field x.droopClamp 31 24, field x.thermalClamp 23 16,
    field x.matchTarget 15 8, flagAt (govTarget x = n) 7, flagAt (binds x.droopClamp) 6, flagAt (binds x.thermalClamp) 5,
    flagAt (binds x.matchTarget) 4, flagAt x.deferred.isSome 3, flagAt (x.droopClamp ≠ 0) 2]

/-- The state of a C-die in the ladder (R599): L1 when every core is in L1 or L2. -/
def dieCode (s : State) (d : Nat) : Nat :=
  let x := dieAt s d
  if !x.present then 4
  else match x.mode with
    | .run => if (coresOfDie d).all fun c => (coreAt s c).pwr.state ≠ 0 then 1 else 0
    | .retain => 2
    | .keep => 3
    | .off => 4

def dieStateWord (s : State) (d : Nat) : W64 :=
  let x := dieAt s d
  let inState (n : Nat) : Nat := ((coresOfDie d).filter fun c => (coreAt s c).pwr.state = n).length
  pack [field (dieCode s d) 63 61, field x.request 60 58, field (inState 1) 57 53, field (inState 2) 52 48, flagAt x.refused 47]

/-- The highest preferred point among the claims on a die. -/
def prefOn (s : State) (d : Nat) : Nat :=
  claimNos.foldl (fun n k =>
    if (upFrom (4 * d) 4).any fun q => inSet (claimAt s k).quads q then max n (claimAt s k).pref else n) 0

def govClaimWord (c : Claim) : W64 :=
  pack [field c.prio 63 61, flagAt c.matchOn 60, flagAt (c.shed && c.heldHere) 59, flagAt (c.parked && c.heldHere) 58, field c.budget 57 48, field c.pace 47 40,
    field c.pref 39 32]

def reasonSrcWord (s : State) : W64 :=
  let p := s.power
  let clamped (d : Nat) : Bool :=
    let x := dieAt s d
    x.present && x.thermalClamp ≠ 0 && x.thermalClamp = appliedPace s x
  pack [field (setIf 8 clamped) 63 56, flagAt s.therm.hubThrottle 55,
    field (setIf 2 fun n => decide ((stackTherm s n).ceiling < 64)) 54 53, flagAt p.vrAlert 52, flagAt p.pwrBrake 51,
    flagAt p.inputLimit 50, field p.iccDies 49 42, field (setIf 8 fun d => (dieAt s d).tripped) 41 34]

def govRegWord (s : State) (r : GovReg) : W64 :=
  let p := s.power
  match r with
  | .cap => pack [field (rackNow p) 63 48, field p.hostLimit 47 32, field p.effCap 31 16, flagAt p.hostAuth 15, flagAt p.failsafe 14]
  | .capStatus => pack [field (p.estimate / 8) 63 48, field p.demand 47 32, field p.excursion 31 16, flagAt p.capUnmet 15,
      flagAt p.belowFloor 14, flagAt p.excursionRpt 13, field p.unmetReason 12 8,
      field (setIf 8 fun k => shedNow (claimAt s k)) 7 0]
  | .classCtrl => pack [field p.first 63 62, field p.second 61 60, field p.third 59 58, field p.linksFloor 57 48,
      field p.memFloor 47 38, field p.compFloor 37 28]
  | .classBudget => pack [field p.budgetCompute 63 48, field p.budgetMemory 47 32, field p.budgetLinks 31 16,
      field (dramCeiling s) 15 9, field (haulCeiling s) 8 0]
  | .claim k => govClaimWord (claimAt s k)
  | .matching => pack [field p.groupMin 63 56, field p.own 55 48, field p.periods 47 32, field p.missed 31 16,
      flagAt p.matchActive 15, flagAt p.ownPulse 14]
  | .die d =>
      let x := dieAt s d
      pack [field x.floorCode 63 56, field x.fwTarget 55 48, field x.assistCut 47 40, field (prefOn s d) 39 32,
        field (x.vSet / 2) 31 16, flagAt x.forced 15]
  | .paceStatus d => paceWord s (dieAt s d)
  | .droopEvents d => pack [field (dieAt s d).droopCount 63 32, flagAt (dieAt s d).droopSeen 0]
  | .est => pack [field p.estimate 63 48, field p.estCompute 47 32, field p.estMemory 31 16, field p.estLinks 15 0]
  | .estFixed => pack [field p.estFixed 63 48, field p.seq 47 32]
  | .estDie d => pack [field (dieAt s d).estimate 63 48, field (dieAt s d).current 47 32, field (dieAt s d).calib 31 16]
  | .input => pack [field p.inVoltage 63 48, field p.inCurrent 47 32, field p.inPower 31 16, field p.inPeak 15 0]
  | .reason n => pack [flagAt (reasonActive s n) 63, field (tget 0 p.reasons n) 62 0]
  | .reasonSrc => reasonSrcWord s
  | .dieState d => dieStateWord s d
  | .moduleState => pack [field p.state 63 61, field p.request 60 58, flagAt p.refused 57]
  | .galOff d => BitVec.ofNat 64 (s.gallery.off >>> (64 * d))
  | .galReady d => if (dieAt s d).present then BitVec.ofNat 64 (s.gallery.ready >>> (64 * d)) else 0
  | .dramOff w => BitVec.ofNat 64 (s.dram.off >>> (64 * w))
  | .dramReady w => BitVec.ofNat 64 (s.dram.ready >>> (64 * w))
  | .memRefused => pack [field p.memRefused 63 32, flagAt p.dramRefused 1, flagAt p.galRefused 0]

/-! ### Thermal (R600) -/

def thmDieWord (x : DieState) : W64 :=
  pack [tempField x.tMax 52, tempField x.tMean 40, field x.hotSensor 39 35, flagAt (x.thermalClamp ≠ 0) 34,
    flagAt (840 ≤ x.tMax) 33, flagAt x.tripped 32]

def thmTripWord (s : State) : W64 :=
  pack [field (setIf 8 fun d => (dieAt s d).tripped) 63 56, field s.therm.tripSeen 55 48, field s.therm.trips 47 32]

/-! ### Junction, sump, links (R449 to R452, R485) -/

/-- A slot of a slot table, as a byte of JCT_SLOT. -/
def ownerByte : Owner → Nat
  | .openSlot => 0
  | .claim k => 64 + k
  | .transit => 128
  | .firmware => 192

def slotWord (t : SlotTable) (j : Nat) : W64 :=
  (upFrom 0 8).foldl (fun w i => w ||| field ((t.slots.map ownerByte).getD (8 * j + i) 0) (8 * i + 7) (8 * i)) 0

def smpClaimWord (s : State) (k : Nat) : W64 :=
  let used := ((upFrom 512 512).filter fun i => (sumpAt s i).acquired = some k).length
  pack [field (claimAt s k).sump 63 54, field used 53 44, field (claimAt s k).sumpFull 43 12]

def smpFaultWord (f : SumpFault) : W64 :=
  pack [field f.code 63 56, field f.reason 55 52, field f.claim 51 49, field f.slot 48 39, flagAt f.fault 0]

def collFaultWord (f : CollFault) : W64 :=
  pack [field f.code 63 56, field f.reason 55 52, field f.claim 51 49, field f.seq 48 33, field f.rank 32 27, flagAt f.fault 0]

/-- The code of a link's state (R449). -/
def linkCode : LinkMode → Nat
  | .off => 0 | .training => 1 | .up8 => 2 | .up7 => 3 | .retraining => 4 | .down => 5

def linkWord (v : LinkState) (i : Nat) : W64 :=
  match i with
  | 0 => pack [field (linkCode v.mode) 63 61, field (if v.mode = .up7 then v.lanes.getD 0 0 else 0) 60 58, field v.peerRank 57 52,
      field v.peerLink 51 48, flagAt v.wiringError 47]
  | 1 => pack [field v.corrected 63 32, field v.uncorrected 31 0]
  | _ => pack [field v.replays 63 32, field v.retrains 31 16]

def detourWord (d : Detour) : W64 :=
  pack [flagAt d.inUse 7, flagAt d.unreachable 6, field d.order 5 3, field d.minus 2 0]

/-! ### Haul (R500, R514, R515) -/

def haulStreamWord (s : State) (n i : Nat) : W64 :=
  let v := streamAt s n
  match i with
  | 0 => pack [field v.state 63 62, field ((streamOwner s n).getD 0) 61 59, v.w0]
  | 1 => v.w1 | 2 => v.w2 | 3 => v.w3 | 4 => v.w4 | 5 => v.w5 | 6 => v.w6 | _ => v.w7

def qpWord (s : State) (n i : Nat) : W64 :=
  let v := qpAt s n
  match i with
  | 0 => pack [field v.state 63 62, field ((qpOwner s n).getD 0) 61 59, v.w0, field v.psn 23 0]
  | 1 => v.w1 | 2 => v.w2 | 3 => v.w3 | 4 => v.w4 | 5 => v.w5
  | 6 => pack [field v.retransmits 63 32, field v.cnps 31 0]
  | _ => 0

def haulFaultWord (f : HaulFault) : W64 :=
  pack [field f.code 63 56, field f.reason 55 52, field f.claim 51 49, field f.stream 48 37, field f.qp 36 25, flagAt f.fault 0]

/-! ### Collective movers (R484) -/

def collMoverWord (v : CollMover) (i : Nat) : W64 :=
  match i with
  | 0 => pack [field v.claim 63 61, field v.state 60 58, field v.seq 57 42]
  | 1 => pack [field v.fault.code 63 56, field v.fault.seq 55 40, flagAt v.fault.fault 0]
  | _ => pack [field (v.moved / 65536) 63 32, field (v.combined / 65536) 31 0]

/-! ### Errors and RAS (R659, R660) -/

def errSummaryWord (s : State) : W64 :=
  let r := s.ras
  pack [field r.diesFailed 63 56, field r.stacksFailed 55 54, field (setIf 8 fun k => (claimAt s k).impaired.isSome) 47 40,
    field (setIf 8 fun k => (claimAt s k).noSpare) 39 32, field r.sumpFenced 31 16, flagAt r.withdrawn 5, flagAt r.fence 4,
    flagAt r.die 3, flagAt r.crc 2, flagAt r.ue 1, flagAt r.ce 0]

def barAccessWord (b : BarAccess) : W64 :=
  pack [field b.count 63 32, field b.fn 31 29, flagAt b.write 28, flagAt b.seen 27, field b.offset 25 0]

def logWord (e : LogEntry) (w : Nat) : W64 :=
  match w with
  | 0 => BitVec.ofNat 64 e.time
  | 1 => pack [field e.kind 63 56, field e.fault 55 48, field e.reason 47 44, field e.cls 43 41, field e.core 40 34,
      field e.array 33 32, field (e.claim.getD 0) 31 29, flagAt e.claim.isSome 28, field e.die 27 24, field e.unit 23 20]
  | 2 => e.address
  | _ => pack [field e.boot 63 48, field e.detail.toNat 47 0]

/-- The entry at index `i` of the log ring. -/
def logEntryAt (r : RasState) (i : Nat) : Option LogEntry := r.log[(r.logTotal + 255 - i) % 256]?

/-- The entry at index `j` of the mirror of the persistent log: the most recent 16,384, oldest first. -/
def plogEntryAt (r : RasState) (j : Nat) : Option LogEntry := (r.plog.drop (r.plog.length - 16384))[j]?

def entryWord (e : Option LogEntry) (w : Nat) : W64 := (e.map fun x => logWord x w).getD 0

def errQuadWord (s : State) : W64 :=
  pack [field s.ras.quadsWithdrawn 63 32, field (setIf 32 (quadFenced s)) 31 0]

/-- Fenced arrays 64 w to 64 w + 63. -/
def errFencedWord (s : State) (w : Nat) : W64 :=
  BitVec.ofNat 64 (setIf 64 fun i => inSet (coreAt s ((64 * w + i) / 4)).mat.fenced (i % 4))

/-! ### Mailbox and group (R628, R629) -/

def mbxStatusWord (p : MbxPage) : W64 := pack [field p.result 63 56, field p.seq 55 40, flagAt p.busy 39, flagAt p.done 0]

def fwStatusWord (s : State) : W64 :=
  let y := s.sys
  let other := imageOf y.flash (!y.firm.imageB)
  let valid := imageValid y.ident.secFloor other
  pack [field (if valid then versionOf other else 0) 63 32, flagAt valid 31, flagAt y.firm.trial 30, field (bootRecord y.flash).trialCount 29 28,
    field y.ident.secFloor 27 22, field y.firm.fallback 21 20, flagAt (updating s) 19]

/-- The code of the state of group formation (R629). -/
def stageCode : GroupStage → Nat
  | .none => 0 | .forming => 1 | .formed => 2 | .reforming => 3

def groupPlanWord (g : GroupState) : W64 :=
  pack [field g.size 63 62, field g.liveness 61 52, field g.hostRank 51 46, field g.hostFn 45 43, flagAt g.standbyEn 42,
    field g.standbyRank 41 36, field g.standbyFn 35 33]

def rankMapWord (e : RankEntry) : W64 :=
  pack [flagAt e.valid 63, field e.oldRank 62 57, field e.x 56 55, field e.y 54 53, field e.z 52 51]

/-! ### Windows (R423, R450) -/

/-- A window's registers. -/
def windowWord (s : State) (n i : Nat) : W64 :=
  let v := windowAt s n
  let owner := windowOwner s n
  match i with
  | 0 => pack [field v.kind 63 62, field (owner.getD 0) 61 59, v.w0,
      flagAt (v.kind = 1 && (v.cut || owner.any fun k => (claimAt s k).fenced)) 55, flagAt (v.kind = 0 && windowBusy s n) 54]
  | 1 => v.w1 | 2 => v.w2 | 3 => v.w3 | 4 => v.w4 | 5 => v.w5 | _ => 0

def refuseFirstWord (f : RefuseFirst) : W64 :=
  pack [field f.window 63 56, field f.rank 55 50, field f.claim 49 47, field f.reason 46 43, flagAt f.refused 0]

/-! ### Every register -/

/-- The value of a register. -/
def readReg (s : State) (r : Reg) : W64 :=
  match r with
  | .idPart => idPart s
  | .idSerial => s.sys.ident.serial
  | .idFw => pack [field s.sys.firm.version 63 32, flagAt s.sys.firm.imageB 0]
  | .idPosition => pack [field s.group.rank 13 8, field s.sys.boot.modId 5 0]
  | .diePresent => pack [flagAt true 8, field (setIf 8 fun d => (dieAt s d).present) 7 0]
  | .poweredOff => field (setIf 8 fun d => (dieAt s d).offAccess) 7 0
  | .request i => requestWord s.claimReq i
  | .claim k r => claimRegWord (claimAt s k) r
  | .gov r => govRegWord s r
  | .thmDie d => thmDieWord (dieAt s d)
  | .thmHub => pack [tempField s.therm.hubMax 52, flagAt s.therm.hubThrottle 51]
  | .thmDram n => pack [tempField (stackTherm s n).tMax 52, field (stackTherm s n).ceiling 51 45, flagAt (stackTherm s n).refresh2x 44]
  | .thmCtrl => field s.therm.onset 63 52
  | .thmTrip => thmTripWord s
  | .jctSlot t j => slotWord (tableAt s t) j
  | .jctBg t => field (tableAt s t).ranking 0 0
  | .jctPending t => pack [field (tableAt s t).refused 63 32, field (tableAt s t).pending.length 4 0]
  | .smpClaim k => smpClaimWord s k
  | .smpFault => smpFaultWord s.fabric.sumpFault
  | .smpCollCalls k => pack [field (claimAt s k).collCalls 63 32, field (claimAt s k).collFallbacks 31 16, field (claimAt s k).collLost 15 0]
  | .smpCollFault => collFaultWord s.coll.fault
  | .link l i => linkWord (linkAt s l) i
  | .detour n => detourWord (tget {} s.fabric.detours n)
  | .portStatus e => pack [flagAt (portAt s e).up 63, field (portAt s e).pfc 62 60, flagAt (portAt s e).paused 59]
  | .portBytes e => BitVec.ofNat 64 (portAt s e).bytes
  | .portEvents e => pack [field (portAt s e).dropped 63 32, field (portAt s e).naks 31 0]
  | .haulCc => pack [field s.haul.gain 63 56, field s.haul.aiStep 55 40, field s.haul.cutGap 39 32, field s.haul.incPeriod 31 24]
  | .haulFault => haulFaultWord s.haul.fault
  | .haulClaim k => pack [field (claimAt s k).streamBase 63 52, field (claimAt s k).streamCount 51 39,
      field (claimAt s k).qpBase 38 27, field (claimAt s k).qpCount 26 14]
  | .stream n i => haulStreamWord s n i
  | .qp n i => qpWord s n i
  | .hubMover n i => moverWord s ((engineClaim s (.hubMover (Fin.ofNat 16 n))).getD 0) (.hub (Fin.ofNat 16 n)) i
  | .collMover n i => collMoverWord (collMoverAt s n) i
  | .errSummary => errSummaryWord s
  | .errBarAccess => barAccessWord s.ras.bar
  | .errCount k =>
      let c := tget {} s.ras.counts k
      pack [field c.corrected 63 32, field c.hard 31 16, field c.ue 15 0]
  | .errFenced w => errFencedWord s w
  | .errQuad => errQuadWord s
  | .errGalWithdrawn d => BitVec.ofNat 64 (s.ras.galWithdrawn >>> (64 * d))
  | .errDramWithdrawn w => BitVec.ofNat 64 ((s.ras.dramWithdrawn ||| s.ras.dramLost) >>> (64 * w))
  | .errPersist => pack [flagAt s.ras.withdrawnRec 1, flagAt s.ras.fenceRec 0]
  | .errLogHead => pack [field s.ras.logTotal 63 32, field (s.ras.logTotal % 256) 13 0]
  | .errPlogHead => pack [field s.ras.plogTotal 63 32, field s.ras.plogTotal 13 0]
  | .errLog i w => entryWord (logEntryAt s.ras i) w
  | .errPlog j w => entryWord (plogEntryAt s.ras j) w
  | .mbxReq f => pack [field (pageAt s f).cmd 63 56, field (pageAt s f).reqSeq 55 40]
  | .mbxData f i => tget 0 (pageAt s f).data i
  | .mbxStatus f => mbxStatusWord (pageAt s f)
  | .mbxFwStatus => fwStatusWord s
  | .mbxGroupPlan => groupPlanWord s.group
  | .mbxGroupStatus => pack [field (stageCode s.group.stage) 63 61, field s.group.members 60 54, field s.group.generation 53 38,
      field s.group.coordinator 37 32]
  | .mbxGroupLost => BitVec.ofNat 64 s.group.lost
  | .mbxRankMap n => rankMapWord (tget {} s.group.rankMap n)
  | .window n i => windowWord s n i
  | .winRefusedCount n => field (windowAt s n).refused 63 32
  | .winRefuseFirst => refuseFirstWord s.fabric.refuseFirst
  | .core c r => coreRegWord s c r

end Sys2Proof.Machine
end

