-- ==== Sys2Proof/Machine/Registers.lean ====
section
/-! DEFINITION. Host accesses to BAR0 (00 R17 to R19; 01 R46 to R52; 14 R518, R519; and the access rules of each chapter). A
write is a value and a mask: a 32-bit access reaches the half of the register that its address names (R48). -/

namespace Sys2Proof.Machine

/-! ### Written values -/

/-- The value of a register's stored fields after a write. -/
def merged (old v m : W64) : W64 := (old &&& ~~~m) ||| (v &&& m)

/-- Whether a write gives bit `i` a 1, and whether it reaches bit `i`. -/
def writes1 (v m : W64) (i : Nat) : Bool := bitOf (v &&& m) i
def reaches (m : W64) (i : Nat) : Bool := bitOf m i

/-- The state that another command's meaning leaves; a register write that is that command has its effect. -/
def after (s : State) (o : Host.Outcome State Fault Refusal) : State :=
  match o with
  | .next t => t
  | .fault _ => s
  | .refused _ => s

/-- Every die changed by a function of its number. -/
def mapDiesAt (g : Nat → DieState → DieState) (s : State) : State := (upFrom 0 8).foldl (fun t d => modDie t d (g d)) s

/-! ### Per-core registers (R136, R165, R206, R240, R288, R331, R372, R403, R453, R601) -/

/-- The array control register: a ramp of 3 is stored as 1. -/
def writeArrCtrl (w : W64) (m : MatState) : MatState :=
  { m with idleAfter := fieldOf w 15 8, ramp := if fieldOf w 1 0 = 3 then 1 else fieldOf w 1 0 }

/-- CORE_ARITH_FLAGS with flags cleared; only while no task runs on the core (R166). -/
def clearArith (v : W64) (a : ArithFlags) : ArithFlags :=
  { a with
    intOvf := setMinus a.intOvf (fieldOf v 11 8)
    galEvent := a.galEvent && !(bitOf v 5), scaleNan := a.scaleNan && !(bitOf v 4), convSat := a.convSat && !(bitOf v 3)
    convOvf := a.convOvf && !(bitOf v 2), accInf := a.accInf && !(bitOf v 1), accNan := a.accNan && !(bitOf v 0) }

/-- CORE_BENCH_POWER: the refused bit, then the banks (R280). -/
def writeBenchPower (c : CoreId) (v m : W64) (s : State) : State :=
  let s1 := if writes1 v m 48 then modBench s c fun b => { b with refused := false } else s
  if !(reaches m 0) then s1
  else if taskOn s1 c then modBench s1 c fun b => { b with refused := true }
  else benchPower c (fieldOf v 14 0) s1

/-- CORE_PWR_STATE: the refused bit, then the request (R594). -/
def writePwrState (f : FnId) (c : CoreId) (v m : W64) (s : State) : State :=
  let s1 := if writes1 v m 58 then modPwr s c fun p => { p with refused := false } else s
  if !(reaches m 60) then s1
  else match fieldOf v 60 59 with
    | 0 => after s1 (execCoreL0Request f c s1)
    | 1 => after s1 (execCoreL1Request f c s1)
    | 2 => after s1 (execCoreL2Request f c s1)
    | _ => s1

/-- A write of a register of a core by the function of its claim; fields that are RO ignore it. -/
def writeCoreReg (f : FnId) (c : CoreId) (r : CoreReg) (v m : W64) (s : State) : State :=
  let w := merged (coreRegWord s c r) v m
  let clear := writes1 v m 0
  match r with
  | .seqFault => if clear then modSeq s c fun q => { q with fault := { q.fault with fault := false } } else s
  | .pwrState => writePwrState f c v m s
  | .syncFault => if clear then modSync s c fun y => { y with fault := { y.fault with fault := false } } else s
  | .rtDeadline x =>
      if x = 0 then s else modSync s c fun y => { y with deadlines := tput 0 y.deadlines x (fieldOf w 31 0) }
  | .arrCtrl => modMat s c (writeArrCtrl w)
  | .chkStatus => if clear then modMat s c fun x => { x with chk := { x.chk with mismatch := false } } else s
  | .arithFlags => if taskOn s c then s else modMat s c fun x => { x with arith := clearArith (v &&& m) x.arith }
  | .drsFault => if clear then modDrs s c fun x => { x with fault := { x.fault with fault := false } } else s
  | .attFault => if clear then modAtt s c fun x => { x with fault := { x.fault with fault := false } } else s
  | .mover m1 1 =>
      if clear then setCoreMover s c m1 (let y := coreMover s c m1; { y with fault := { y.fault with fault := false } }) else s
  | .netFault =>
      if clear then modCore s c fun k => { k with net := { k.net with fault := { k.net.fault with fault := false } } } else s
  | .benchPower => writeBenchPower c v m s
  | .benchFault => if clear then modBench s c fun b => { b with fault := { b.fault with fault := false } } else s
  | .benchTagSel => modBench s c fun b => { b with tagSel := fieldOf w 12 0 }
  | _ => s

/-! ### Claims (R526, R529, R534, R542, R551, R602) -/

/-- CLM_REQ_CTRL: the fields, and op 1 or 2 (R526, R529). -/
def writeReqCtrl (f : FnId) (v m : W64) (s : State) : State :=
  let w := merged (requestWord s.claimReq 0) v m
  match fieldOf (v &&& m) 1 0 with
  | 1 => after s (execClaimCreate f w s)
  | 2 => after s (execClaimDestroy f w s)
  | _ => modReq s (storeCtrl w)

/-- A request register; none is taken while a request is processed. -/
def writeRequest (f : FnId) (i : Nat) (v m : W64) (s : State) : State :=
  let w := merged (requestWord s.claimReq i) v m
  if s.claimReq.busy then s
  else match i with
    | 0 => writeReqCtrl f v m s
    | 1 => modReq s fun q => { q with quads := fieldOf w 31 0 }
    | 2 => modReq s fun q => { q with mem := w }
    | 3 => modReq s fun q => { q with sync := w }
    | 4 => modReq s fun q => { q with share := fieldOf w 63 54 }
    | _ => s

/-- CLM_CONFIG: a watchdog limit of 0 is stored as 1; real-time mode only while no task runs. -/
def writeConfig (w : W64) (c : Claim) : Claim :=
  { c with watchdog := max 1 (fieldOf w 63 44), rtMode := if c.task.isSome then c.rtMode else bitOf w 43 }

/-- CLM_HOLD: cancel, then request. -/
def writeHold (f : FnId) (k : ClaimId) (v m : W64) (s : State) : State :=
  let s1 := if writes1 v m 2 then after s (execCancel f k s) else s
  if !(reaches m 0) then s1
  else if bitOf v 0 then after s1 (execHoldRequest f k s1) else after s1 (execHoldLift f k s1)

/-- Base and size are written only while the ring is not enabled (R534). -/
def writeRingCtrl (w : W64) (r : Ring) : Ring :=
  { r with enable := bitOf w 63, prio := fieldOf w 62 61, sizeLog := if r.enable then r.sizeLog else fieldOf w 60 56 }

def modRing (k n : Nat) (f : Ring → Ring) (s : State) : State :=
  modClaim s k fun c => { c with rings := tmod {} c.rings n f }

/-- A register of a claim's page, written by the claim's function. -/
def writeClaimReg (f : FnId) (k : ClaimId) (r : ClaimReg) (v m : W64) (s : State) : State :=
  let w := merged (claimRegWord (claimAt s k) r) v m
  match r with
  | .config => modClaim s k (writeConfig w)
  | .hold => writeHold f k v m s
  | .phase i => modClaim s k fun c => { c with phases := tput 0 c.phases i (fieldOf w 63 56) }
  | .ringBase n => modRing k n (fun x => if x.enable then x else { x with base := w }) s
  | .ringCtrl n => modRing k n (writeRingCtrl w) s
  | .ringDb n => if reaches m 0 then after s (execDoorbell f k (Fin.ofNat 16 n) (fieldOf v 15 0) [] s) else s
  | _ => s

/-! ### Governor, power and thermal (R289, R598 to R600) -/

/-- GOV_CLASS_CTRL: ignored unless the three codes are the three classes. -/
def writeClassCtrl (w : W64) (p : PowerState) : PowerState :=
  let a := fieldOf w 63 62
  let b := fieldOf w 61 60
  let c := fieldOf w 59 58
  if a = b || a = c || b = c || a = 3 || b = 3 || c = 3 then p
  else { p with first := a, second := b, third := c, linksFloor := fieldOf w 57 48, memFloor := fieldOf w 47 38
                compFloor := fieldOf w 37 28 }

/-- PWR_DIE_STATE and PWR_MODULE_STATE: the refused bit, then the request. -/
def writeDieState (f : FnId) (d : DieId) (v m : W64) (s : State) : State :=
  let s1 := if writes1 v m 47 then modDie s d fun x => { x with refused := false } else s
  if !(reaches m 60) then s1
  else match fieldOf v 60 58 with
    | 0 => after s1 (execDieL0Request f d s1)
    | 3 => after s1 (execDieL3Request f d s1)
    | _ => s1

def writeModuleState (f : FnId) (v m : W64) (s : State) : State :=
  let s1 := if writes1 v m 57 then modPower s fun p => { p with refused := false } else s
  if !(reaches m 60) then s1
  else match fieldOf v 60 58 with
    | 0 => after s1 (execModuleL0Request f s1)
    | 4 => after s1 (execModuleL4Request f s1)
    | _ => s1

/-- The writes of the Governor and power block that a control function may make; none for the others. -/
def writeGov (f : FnId) (r : GovReg) (v m : W64) (s : State) : Option State :=
  let w := merged (govRegWord s r) v m
  match r with
  | .cap => some (if reaches m 32 then after s (execHostLimitWrite f (fieldOf w 47 32) s) else s)
  | .capStatus => some (if writes1 v m 13 then modPower s fun p => { p with excursionRpt := false } else s)
  | .classCtrl => some (modPower s (writeClassCtrl w))
  | .claim k => some (modClaim s k fun c => { c with prio := fieldOf w 63 61, matchOn := bitOf w 60 })
  | .droopEvents d => some (if writes1 v m 0 then modDie s d fun x => { x with droopSeen := false } else s)
  | .dieState d => some (writeDieState f (Fin.ofNat 8 d) v m s)
  | .moduleState => some (writeModuleState f v m s)
  | .memRefused => some (modPower s fun p => { p with
      dramRefused := p.dramRefused && !(writes1 v m 1), galRefused := p.galRefused && !(writes1 v m 0) })
  | _ => none

/-- THM_CTRL and THM_TRIP, by a control function. -/
def writeTherm (onset : Bool) (w v : W64) (s : State) : State :=
  if onset then
    let n := fieldOf w 63 52
    if 600 ≤ n && n ≤ 760 then { s with therm := { s.therm with onset := n } } else s
  else { s with therm := { s.therm with tripSeen := setMinus s.therm.tripSeen (fieldOf v 55 48) } }

/-! ### Errors and RAS (R659) -/

def clearSummary (v : W64) (r : RasState) : RasState :=
  { r with
    withdrawn := r.withdrawn && !(bitOf v 5), fence := r.fence && !(bitOf v 4), die := r.die && !(bitOf v 3)
    crc := r.crc && !(bitOf v 2), ue := r.ue && !(bitOf v 1), ce := r.ce && !(bitOf v 0) }

/-- ERR_PERSIST: a 1 discards what the log holds from the next boot. -/
def writePersist (v : W64) (r : RasState) : RasState :=
  { r with
    dropWithdrawals := r.dropWithdrawals || (bitOf v 1 && r.withdrawnRec)
    dropFences := r.dropFences || (bitOf v 0 && r.fenceRec) }

/-! ### Windows, streams and queue pairs (R425, R500, R514) -/

/-- Words 1 to 5 of a window's descriptor, while it is closed. -/
def writeWindowWord (i : Nat) (w : W64) (x : Window) : Window :=
  if x.kind ≠ 0 then x
  else match i with
    | 1 => { x with w1 := w }
    | 2 => { x with w2 := w &&& 0xFFFFFFFFFFFF0000 }
    | 3 => { x with w3 := w }
    | 4 => { x with w4 := w &&& 0xFFFFFFFFFFFFFC00 }
    | 5 => { x with w5 := w &&& 0xFFFC000000000000 }
    | _ => x

/-- A window's descriptor: word 0 opens or closes; kind 3 is reserved and does neither. -/
def writeWindow (f : FnId) (n : WinId) (i : Nat) (v m : W64) (s : State) : State :=
  let w := merged (windowWord s n i) v m
  if i ≠ 0 then winWrite f n (fun _ x => writeWindowWord i w x) s
  else if !(reaches m 63) then winWrite f n (fun _ x => x) s
  else match fieldOf w 63 62 with
    | 0 => after s (execWindowClose f n s)
    | 1 => after s (execWindowOpenExport f n w s)
    | 2 => after s (execWindowOpenImport f n w s)
    | _ => winWrite f n (fun _ x => x) s

/-- A word of a closed stream's descriptor. -/
def storeStreamWord (i : Nat) (w : W64) (x : HaulStream) : HaulStream :=
  match i with
  | 0 => { x with w0 := streamWord0 w }
  | 1 => { x with w1 := w }
  | 2 => { x with w2 := w &&& 0xFFFF000000000000 }
  | 3 => { x with w3 := w }
  | 4 => { x with w4 := w }
  | 5 => { x with w5 := w }
  | 6 => { x with w6 := w }
  | _ => { x with w7 := w }

/-- A stream's descriptor: state 1 opens, and 0 closes a done stream; every other write needs state 0. -/
def writeHaulStream (f : FnId) (n : HaulId) (i : Nat) (v m : W64) (s : State) : State :=
  let w := merged (haulStreamWord s n i) v m
  let x := streamAt s n
  match streamOwner s n with
  | none => denied f (streamReg n i) s
  | some k =>
    if !(actsFor s f k) then denied f (streamReg n i) s
    else if i = 0 && reaches m 63 && fieldOf w 63 62 = 1 then after s (execStreamOpen f n w s)
    else if i = 0 && reaches m 63 && fieldOf w 63 62 = 0 && x.state = 2 then after s (execStreamClose f n s)
    else if x.state ≠ 0 then haulIgnored k (n.val - (claimAt s k).streamBase) 0 s
    else setStream s n (storeStreamWord i w x)

/-- A word of the context of a queue pair in reset. -/
def storeQpWord (i : Nat) (w : W64) (x : QueuePair) : QueuePair :=
  match i with
  | 0 => { x with w0 := w &&& 0x07FFFFFFFF000000, psn := fieldOf w 23 0 }
  | 1 => { x with w1 := w &&& 0xFFFFFFFFFFFF1FFF }
  | 2 => { x with w2 := w }
  | 3 => { x with w3 := w }
  | 4 => { x with w4 := w &&& 0xFFFFFFF800000000 }
  | 5 => { x with w5 := w &&& 0xFFFF000000000000 }
  | _ => x

/-- A queue pair's context: state 1 makes it ready, and 0 resets one in error; every other write needs state 0. -/
def writeQp (f : FnId) (q : HaulId) (i : Nat) (v m : W64) (s : State) : State :=
  let w := merged (qpWord s q i) v m
  let x := qpAt s q
  match qpOwner s q with
  | none => denied f (qpReg q i) s
  | some k =>
    if !(actsFor s f k) then denied f (qpReg q i) s
    else if i = 0 && reaches m 63 && fieldOf w 63 62 = 1 then after s (execQpReady f q w s)
    else if i = 0 && reaches m 63 && fieldOf w 63 62 = 0 && x.state = 2 then after s (execQpReset f q s)
    else if x.state ≠ 0 then haulIgnored k 0 (q.val - (claimAt s k).qpBase) s
    else setQp s q (storeQpWord i w x)

/-! ### Mailbox (R618, R628) -/

/-- A register of the function's own page. The command that a write of MBX_REQ with go set starts is a command of its own;
while one is in progress the request is not changed. -/
def writePage (f : Nat) (r : Reg) (v m : W64) (s : State) : State :=
  let p := pageAt s f
  let w := merged (readReg s r) v m
  match r with
  | .mbxReq _ => if p.busy then s else setPage s f { p with cmd := fieldOf w 63 56, reqSeq := fieldOf w 55 40 }
  | .mbxData _ i => setPage s f { p with data := tput 0 p.data i w }
  | .mbxStatus _ => if writes1 v m 0 then setPage s f { p with done := false } else s
  | _ => s

/-! ### Every register (R518, R519) -/

/-- A write of register `r` at offset `o`. A write that R518 does not allow the function is counted (R519). -/
def writeReg (f : FnId) (o : Nat) (r : Reg) (v m : W64) (s : State) : State :=
  let no := denied f o s
  let control (t : State) : State := if isControl s f then t else no
  let ofClaim (k : Nat) (t : State) : State := if actsFor s f k then t else no
  let clear := writes1 v m 0
  match r with
  | .poweredOff => control (mapDiesAt (fun d x => { x with offAccess := x.offAccess && !(writes1 v m d) }) s)
  | .request i => control (writeRequest f i v m s)
  | .claim k .takeover =>
      if (claimAt s k).created && (claimAt s k).standby = some f.val then
        modClaim s k fun c => { c with takeover := merged c.takeover v m }
      else ofClaim k s
  | .claim k x => ofClaim k (writeClaimReg f (Fin.ofNat 8 k) x v m s)
  | .gov (.galOff d) => after s (execPwrGalOffWrite f (Fin.ofNat 8 d) (merged (govRegWord s (.galOff d)) v m) s)
  | .gov (.dramOff w) => after s (execPwrDramOffWrite f (Fin.ofNat 4 w) (merged (govRegWord s (.dramOff w)) v m) s)
  | .gov x => control ((writeGov f x v m s).getD no)
  | .thmCtrl => control (writeTherm true (merged (readReg s .thmCtrl) v m) 0 s)
  | .thmTrip => control (writeTherm false 0 (v &&& m) s)
  | .smpFault => ofClaim s.fabric.sumpFault.claim (if clear then
      modFabric s fun x => { x with sumpFault := { x.sumpFault with fault := false } } else s)
  | .smpCollFault => ofClaim s.coll.fault.claim (if clear then
      { s with coll := { s.coll with fault := { s.coll.fault with fault := false } } } else s)
  | .haulFault => ofClaim s.haul.fault.claim (if clear then
      { s with haul := { s.haul with fault := { s.haul.fault with fault := false } } } else s)
  | .stream n i => writeHaulStream f (Fin.ofNat 4096 n) i v m s
  | .qp n i => writeQp f (Fin.ofNat 4096 n) i v m s
  | .hubMover n 1 => match engineClaim s (.hubMover (Fin.ofNat 16 n)) with
    | some k => ofClaim k (if clear then setHubMover s n (let y := hubMoverAt s n; { y with fault := { y.fault with fault := false } }) else s)
    | none => no
  | .collMover n 1 => ofClaim (collMoverAt s n).claim (if clear then
      modCollMover n (fun x => { x with fault := { x.fault with fault := false } }) s else s)
  | .errSummary => control (modRas s (clearSummary (v &&& m)))
  | .errBarAccess => control (if writes1 v m 27 then modRas s fun x => { x with bar := { x.bar with seen := false } } else s)
  | .errPersist => control (modRas s (writePersist (v &&& m)))
  | .mbxReq n | .mbxStatus n | .mbxData n _ => if n = f.val then writePage n r v m s else no
  | .window n i => writeWindow f (Fin.ofNat 256 n) i v m s
  | .winRefuseFirst => if clear then
      modFabric s fun x => { x with refuseFirst := { x.refuseFirst with refused := false } } else s
  | .core c x => coreWrite f (Fin.ofNat 128 c) (o - coreBase c) (fun _ t => writeCoreReg f (Fin.ofNat 128 c) x v m t) s
  | _ => no

/-- An access of size 4 or 8, naturally aligned (R48). -/
def accessFits (o size : Nat) : Bool := (size = 8 && o % 8 = 0) || (size = 4 && o % 4 = 0)

/-- The mask and the value of an access to a 64-bit register. -/
def accessMask (o size : Nat) : W64 :=
  if size = 8 then 0xFFFFFFFFFFFFFFFF else if o % 8 = 4 then 0xFFFFFFFF00000000 else 0xFFFFFFFF
def accessValue (o size : Nat) (v : W64) : W64 := if size = 4 && o % 8 = 4 then v <<< 32 else v

/-- REGISTER_WRITE: a write by a function whose link is up. An access of another size or alignment, or where no register is
defined, is counted (R49). -/
def execRegisterWrite (f : FnId) (offset size : Nat) (value : W64) (s : State) : Host.Outcome State Fault Refusal :=
  .next (if !(functionAt s f).present then s
    else if !(accessFits offset size) then noteBar f offset true s
    else match barRegAt (offset / 8 * 8) with
      | none => noteBar f offset true s
      | some r => writeReg f offset r (accessValue offset size value) (accessMask offset size) s)

/-! ### Reads and accesses without effect -/

/-- Whether a function may read a register (R518, R628). -/
def mayRead (s : State) (f : FnId) (r : Reg) : Bool :=
  let bound := (boundClaim s f).isSome
  match r with
  | .idPart | .idSerial | .idFw | .idPosition | .diePresent | .poweredOff => true
  | .mbxReq n | .mbxStatus n | .mbxData n _ => n = f.val
  | .mbxFwStatus | .mbxGroupPlan | .mbxGroupStatus | .mbxGroupLost | .mbxRankMap _ => true
  | .request _ => isControl s f
  | .claim k _ => isControl s f || actsFor s f k
  | .hubMover n _ => isControl s f || (match engineClaim s (.hubMover (Fin.ofNat 16 n)) with
    | some k => actsFor s f k
    | none => false)
  | .collMover n _ => isControl s f || (match engineClaim s (.collMover (Fin.ofNat 16 n)) with
    | some k => actsFor s f k
    | none => false)
  | .core c _ => isControl s f || (match coreOwner s c with
    | some k => actsFor s f k
    | none => false)
  | _ => isControl s f || bound

/-- What a read of the register at an offset returns: zero where it is not allowed, not defined, or of a die that is off (R49,
R50, R519). -/
def readBarWord (s : State) (f : FnId) (o : Nat) : W64 :=
  match barRegAt o with
  | none => 0
  | some r =>
    if !(mayRead s f r) then 0
    else match r with
      | .core c _ => if dieInReach s (dieOf c) then readReg s r else 0
      | _ => readReg s r

/-- What a read of 4 or 8 bytes returns: a 32-bit read reaches the half that its address names (R48); of another size or
alignment, zero (R49). -/
def readBar (s : State) (f : FnId) (o size : Nat) : W64 :=
  if !(accessFits o size) then 0
  else
    let w := readBarWord s f (o / 8 * 8)
    if size = 8 then w else if o % 8 = 4 then w >>> 32 else w &&& 0xFFFFFFFF

/-- BAR0_INVALID_ACCESS: no effect, and counted; a read returns zero (R49, R519). -/
def execBar0InvalidAccess (f : FnId) (offset : Nat) (isWrite : Bool) (s : State) : Host.Outcome State Fault Refusal :=
  let t := noteBar f offset isWrite s
  .next (if !(functionAt s f).present then s
    else if isWrite then t else { t with answer := .words [0] })

/-- Whether an access of a function to a core's register is one that R518 allows. -/
def coreAllowed (s : State) (f : FnId) (c : Nat) (isWrite : Bool) : Bool :=
  (!isWrite && isControl s f) || (match coreOwner s c with
    | some k => actsFor s f k
    | none => false)

/-- POWERED_OFF_ACCESS: an access to a register of a C-die that is off or in L3 has no effect and sets the die's bit
(R50); one that R49 or R519 turns away is counted instead. -/
def execPoweredOffAccess (f : FnId) (offset : Nat) (isWrite : Bool) (s : State) : Host.Outcome State Fault Refusal :=
  let seen (t : State) : State := if isWrite then t else { t with answer := .words [0] }
  .next (if !(functionAt s f).present then s
    else match barRegAt (offset / 8 * 8) with
      | some (.core c _) =>
        if !(coreAllowed s f c isWrite) then seen (noteBar f offset isWrite s)
        else if dieInReach s (dieOf c) then s else seen (poweredOff (dieOf c) s)
      | _ => s)

end Sys2Proof.Machine
end

