-- ==== Sys2Proof/Machine/Dispatch.lean ====
section
/-! DEFINITION. The one dispatch: each command of the table to its meaning. -/

namespace Sys2Proof.Machine

/-- The effect of a command on the module. -/
def exec (i : Instr) (s : State) : Host.Outcome State Fault Refusal :=
  match i with
  | .droopDetect d => Sys2Proof.Machine.execDroopDetect d s
  | .droopClampRelease d => Sys2Proof.Machine.execDroopClampRelease d s
  | .voltageStepSettle d => Sys2Proof.Machine.execVoltageStepSettle d s
  | .alu c => Sys2Proof.Machine.execAlu c s
  | .alui c => Sys2Proof.Machine.execAlui c s
  | .li c => Sys2Proof.Machine.execLi c s
  | .ldstLoad c => Sys2Proof.Machine.execLdstLoad c s
  | .ldstStore c => Sys2Proof.Machine.execLdstStore c s
  | .br c => Sys2Proof.Machine.execBr c s
  | .loop c => Sys2Proof.Machine.execLoop c s
  | .jmp c => Sys2Proof.Machine.execJmp c s
  | .nop c => Sys2Proof.Machine.execNop c s
  | .endProgram c => Sys2Proof.Machine.execEnd c s
  | .pcmp c => Sys2Proof.Machine.execPcmp c s
  | .plogic c => Sys2Proof.Machine.execPlogic c s
  | .csrr c => Sys2Proof.Machine.execCsrr c s
  | .rdloop c => Sys2Proof.Machine.execRdloop c s
  | .mma c => Sys2Proof.Machine.execMma c s
  | .mmaR c => Sys2Proof.Machine.execMmaR c s
  | .sload c => Sys2Proof.Machine.execSload c s
  | .swap c => Sys2Proof.Machine.execSwap c s
  | .drain c => Sys2Proof.Machine.execDrain c s
  | .catt c => Sys2Proof.Machine.execCatt c s
  | .fill c => Sys2Proof.Machine.execFill c s
  | .attend c => Sys2Proof.Machine.execAttend c s
  | .pass c => Sys2Proof.Machine.execPass c s
  | .dot c => Sys2Proof.Machine.execDot c s
  | .conv c => Sys2Proof.Machine.execConv c s
  | .wld c => Sys2Proof.Machine.execWld c s
  | .wst c => Sys2Proof.Machine.execWst c s
  | .lane c => Sys2Proof.Machine.execLane c s
  | .move c => Sys2Proof.Machine.execMove c s
  | .moveh c => Sys2Proof.Machine.execMoveh c s
  | .tagFill c => Sys2Proof.Machine.execTagFill c s
  | .tagDrain c => Sys2Proof.Machine.execTagDrain c s
  | .tallyAdd c => Sys2Proof.Machine.execTallyAdd c s
  | .tallyAddFetch c => Sys2Proof.Machine.execTallyAddFetch c s
  | .tallySet c => Sys2Proof.Machine.execTallySet c s
  | .tallyRead c => Sys2Proof.Machine.execTallyRead c s
  | .twait c => Sys2Proof.Machine.execTwait c s
  | .conveyorPush c => Sys2Proof.Machine.execConveyorPush c s
  | .conveyorPop c => Sys2Proof.Machine.execConveyorPop c s
  | .conveyorReset c => Sys2Proof.Machine.execConveyorReset c s
  | .fence c => Sys2Proof.Machine.execFence c s
  | .post c => Sys2Proof.Machine.execPost c s
  | .rtally c => Sys2Proof.Machine.execRtally c s
  | .rpush c => Sys2Proof.Machine.execRpush c s
  | .wfence c => Sys2Proof.Machine.execWfence c s
  | .cstep c => Sys2Proof.Machine.execCstep c s
  | .phase c => Sys2Proof.Machine.execPhase c s
  | .breakPoint c => Sys2Proof.Machine.execBreak c s
  | .mmaStart c => Sys2Proof.Machine.execMmaStart c s
  | .stationaryLoadStart c => Sys2Proof.Machine.execStationaryLoadStart c s
  | .stationaryLoadDone c => Sys2Proof.Machine.execStationaryLoadDone c s
  | .fillStart c => Sys2Proof.Machine.execFillStart c s
  | .arraySliceEnter c => Sys2Proof.Machine.execArraySliceEnter c s
  | .arrayRowComplete c faults => Sys2Proof.Machine.execArrayRowComplete c faults s
  | .arrayIdle c => Sys2Proof.Machine.execArrayIdle c s
  | .dressingItemStart c => Sys2Proof.Machine.execDressingItemStart c s
  | .closingPassStart c => Sys2Proof.Machine.execClosingPassStart c s
  | .attentionCallStart c scoreErrors valueErrors => Sys2Proof.Machine.execAttentionCallStart c scoreErrors valueErrors s
  | .attentionClosing c => Sys2Proof.Machine.execAttentionClosing c s
  | .haulHand c flips => Sys2Proof.Machine.execHaulHand c flips s
  | .benchAccess c eng port offset op mark others ecc => Sys2Proof.Machine.execBenchAccess c eng port offset op mark others ecc s
  | .heldAccessIssue c n => Sys2Proof.Machine.execHeldAccessIssue c n s
  | .galleryRead eng offset len ecc => Sys2Proof.Machine.execGalleryRead eng offset len ecc s
  | .galleryWrite eng offset data => Sys2Proof.Machine.execGalleryWrite eng offset data s
  | .transposingRead eng offset rowStride elem => Sys2Proof.Machine.execTransposingRead eng offset rowStride elem s
  | .stridedRead eng offset elem dims => Sys2Proof.Machine.execStridedRead eng offset elem dims s
  | .gather eng list count base rowStride rowSize => Sys2Proof.Machine.execGather eng list count base rowStride rowSize s
  | .accumulateInPlace req upset => Sys2Proof.Machine.execAccumulateInPlace req upset s
  | .quantiseOnWrite eng fromBf16 row target dst scaleDst sat => Sys2Proof.Machine.execQuantiseOnWrite eng fromBf16 row target dst scaleDst sat s
  | .zeroFill eng offset len => Sys2Proof.Machine.execZeroFill eng offset len s
  | .rowReduction eng offset n isMax dst => Sys2Proof.Machine.execRowReduction eng offset n isMax dst s
  | .turnSet eng t count tally tallyEn => Sys2Proof.Machine.execTurnSet eng t count tally tallyEn s
  | .turnHoldPresent t => Sys2Proof.Machine.execTurnHoldPresent t s
  | .backoffRetry n => Sys2Proof.Machine.execBackoffRetry n s
  | .junctionRequest eng dest stage bytes inbound => Sys2Proof.Machine.execJunctionRequest eng dest stage bytes inbound s
  | .portGrant g => Sys2Proof.Machine.execPortGrant g s
  | .dramAccess eng offset len data ecc => Sys2Proof.Machine.execDramAccess eng offset len data ecc s
  | .benchBankPower f c off => Sys2Proof.Machine.execBenchBankPower f c off s
  | .pwrGalOffWrite f d off => Sys2Proof.Machine.execPwrGalOffWrite f d off s
  | .pwrDramOffWrite f w off => Sys2Proof.Machine.execPwrDramOffWrite f w off s
  | .powerUpZeroFillDone u => Sys2Proof.Machine.execPowerUpZeroFillDone u s
  | .dramRegionZeroed r => Sys2Proof.Machine.execDramRegionZeroed r s
  | .watchdogStall k => Sys2Proof.Machine.execWatchdogStall k s
  | .deadlineMiss c engine kind object cls => Sys2Proof.Machine.execDeadlineMiss c engine kind object cls s
  | .blockDeadlineMiss b => Sys2Proof.Machine.execBlockDeadlineMiss b s
  | .holdTakesEffect k => Sys2Proof.Machine.execHoldTakesEffect k s
  | .taskEnd k elapsed => Sys2Proof.Machine.execTaskEnd k elapsed s
  | .moverBlockStart b => Sys2Proof.Machine.execMoverBlockStart b s
  | .completionAction m => Sys2Proof.Machine.execCompletionAction m s
  | .taskAbort k elapsed => Sys2Proof.Machine.execTaskAbort k elapsed s
  | .peerAbort k rank => Sys2Proof.Machine.execPeerAbort k rank s
  | .atsInvalidation f page pages mapped => Sys2Proof.Machine.execAtsInvalidation f page pages mapped s
  | .flitReceive l flits corrected marked acked credits => Sys2Proof.Machine.execFlitReceive l flits corrected marked acked credits s
  | .replayRequest l seq => Sys2Proof.Machine.execReplayRequest l seq s
  | .linkRetrainDone l ok => Sys2Proof.Machine.execLinkRetrainDone l ok s
  | .laneFailure l lane => Sys2Proof.Machine.execLaneFailure l lane s
  | .linkDown l => Sys2Proof.Machine.execLinkDown l s
  | .inboundWindowAccess a => Sys2Proof.Machine.execInboundWindowAccess a s
  | .winRefused eng w rank code => Sys2Proof.Machine.execWinRefused eng w rank code s
  | .transitPacket inbound dest bytes => Sys2Proof.Machine.execTransitPacket inbound dest bytes s
  | .windowOpenExport f w word0 => Sys2Proof.Machine.execWindowOpenExport f w word0 s
  | .windowOpenImport f w word0 => Sys2Proof.Machine.execWindowOpenImport f w word0 s
  | .windowClose f w => Sys2Proof.Machine.execWindowClose f w s
  | .sumpAcquire k => Sys2Proof.Machine.execSumpAcquire k s
  | .sumpRelease k n => Sys2Proof.Machine.execSumpRelease k n s
  | .sumpConfigure k n mode => Sys2Proof.Machine.execSumpConfigure k n mode s
  | .sumpArrive k n g who => Sys2Proof.Machine.execSumpArrive k n g who s
  | .sumpContribute k n part data upset => Sys2Proof.Machine.execSumpContribute k n part data upset s
  | .sumpResult k n who => Sys2Proof.Machine.execSumpResult k n who s
  | .sumpAtomic k n op ty data upset => Sys2Proof.Machine.execSumpAtomic k n op ty data upset s
  | .collectiveChunk c n stream peer params data crc upset => Sys2Proof.Machine.execCollectiveChunk c n stream peer params data crc upset s
  | .collectiveComplete c n => Sys2Proof.Machine.execCollectiveComplete c n s
  | .frameSend n r => Sys2Proof.Machine.execFrameSend n r s
  | .acknowledge q psn => Sys2Proof.Machine.execAcknowledge q psn s
  | .nak q kind => Sys2Proof.Machine.execNak q kind s
  | .rnrNak q => Sys2Proof.Machine.execRnrNak q s
  | .rnrWaitExpiry q => Sys2Proof.Machine.execRnrWaitExpiry q s
  | .ackTimeout q => Sys2Proof.Machine.execAckTimeout q s
  | .cnp q sinceCut => Sys2Proof.Machine.execCnp q sinceCut s
  | .rateIncrease q => Sys2Proof.Machine.execRateIncrease q s
  | .inboundPacketDrop e => Sys2Proof.Machine.execInboundPacketDrop e s
  | .pfcPause e prio pause => Sys2Proof.Machine.execPfcPause e prio pause s
  | .slowReceiverDeadline n r => Sys2Proof.Machine.execSlowReceiverDeadline n r s
  | .ethernetPortDown e => Sys2Proof.Machine.execEthernetPortDown e s
  | .streamOpen f n word0 => Sys2Proof.Machine.execStreamOpen f n word0 s
  | .streamClose f n => Sys2Proof.Machine.execStreamClose f n s
  | .qpReady f q word0 => Sys2Proof.Machine.execQpReady f q word0 s
  | .qpReset f q => Sys2Proof.Machine.execQpReset f q s
  | .claimCreate f ctrl => Sys2Proof.Machine.execClaimCreate f ctrl s
  | .claimDestroy f ctrl => Sys2Proof.Machine.execClaimDestroy f ctrl s
  | .doorbell f k ring tail writes => Sys2Proof.Machine.execDoorbell f k ring tail writes s
  | .taskStart k => Sys2Proof.Machine.execTaskStart k s
  | .holdRequest f k => Sys2Proof.Machine.execHoldRequest f k s
  | .holdLift f k => Sys2Proof.Machine.execHoldLift f k s
  | .cancel f k => Sys2Proof.Machine.execCancel f k s
  | .functionLevelReset f => Sys2Proof.Machine.execFunctionLevelReset f s
  | .coreL0Request f c => Sys2Proof.Machine.execCoreL0Request f c s
  | .coreL1Request f c => Sys2Proof.Machine.execCoreL1Request f c s
  | .coreL2Request f c => Sys2Proof.Machine.execCoreL2Request f c s
  | .dieL3Request f d => Sys2Proof.Machine.execDieL3Request f d s
  | .dieL0Request f d => Sys2Proof.Machine.execDieL0Request f d s
  | .moduleL4Request f => Sys2Proof.Machine.execModuleL4Request f s
  | .moduleL0Request f => Sys2Proof.Machine.execModuleL0Request f s
  | .hostLimitWrite f watts => Sys2Proof.Machine.execHostLimitWrite f watts s
  | .bar0InvalidAccess f offset isWrite => Sys2Proof.Machine.execBar0InvalidAccess f offset isWrite s
  | .poweredOffAccess f offset isWrite => Sys2Proof.Machine.execPoweredOffAccess f offset isWrite s
  | .registerWrite f offset size value => Sys2Proof.Machine.execRegisterWrite f offset size value s
  | .powerEstimateTick e => Sys2Proof.Machine.execPowerEstimateTick e s
  | .fastLimiterTick => Sys2Proof.Machine.execFastLimiterTick s
  | .governorLoop p => Sys2Proof.Machine.execGovernorLoop p s
  | .excursionReport => Sys2Proof.Machine.execExcursionReport s
  | .calibrationTick rails => Sys2Proof.Machine.execCalibrationTick rails s
  | .rateCorrectionTick monitors => Sys2Proof.Machine.execRateCorrectionTick monitors s
  | .achievableCodeReport => Sys2Proof.Machine.execAchievableCodeReport s
  | .matchReportReceive rank code => Sys2Proof.Machine.execMatchReportReceive rank code s
  | .grpSyncDrive => Sys2Proof.Machine.execGrpSyncDrive s
  | .grpSyncPulse low => Sys2Proof.Machine.execGrpSyncPulse low s
  | .grpSyncTimeout => Sys2Proof.Machine.execGrpSyncTimeout s
  | .thermalSample d sensors => Sys2Proof.Machine.execThermalSample d sensors s
  | .dramThermalTick s0 s1 => Sys2Proof.Machine.execDramThermalTick s0 s1 s
  | .hubThermalTick t => Sys2Proof.Machine.execHubThermalTick t s
  | .dieThermalTrip d => Sys2Proof.Machine.execDieThermalTrip d s
  | .hubThermalTrip => Sys2Proof.Machine.execHubThermalTrip s
  | .vrAlertAssert => Sys2Proof.Machine.execVrAlertAssert s
  | .pwrBrakeAssert => Sys2Proof.Machine.execPwrBrakeAssert s
  | .forceRelease => Sys2Proof.Machine.execForceRelease s
  | .inputPowerSample volt amp watts mean => Sys2Proof.Machine.execInputPowerSample volt amp watts mean s
  | .failsafeTimeout => Sys2Proof.Machine.execFailsafeTimeout s
  | .setCap cap store => Sys2Proof.Machine.execSetCap cap store s
  | .getCap => Sys2Proof.Machine.execGetCap s
  | .getPower => Sys2Proof.Machine.execGetPower s
  | .getReasons => Sys2Proof.Machine.execGetReasons s
  | .setHostAuth enable => Sys2Proof.Machine.execSetHostAuth enable s
  | .setFailsafe cap timeout => Sys2Proof.Machine.execSetFailsafe cap timeout s
  | .setState state => Sys2Proof.Machine.execSetState state s
  | .clearExcursion => Sys2Proof.Machine.execClearExcursion s
  | .oemUnknownCommand code => Sys2Proof.Machine.execOemUnknownCommand code s
  | .pldmGetSensor sensor => Sys2Proof.Machine.execPldmGetSensor sensor s
  | .pldmSetRackCap cap => Sys2Proof.Machine.execPldmSetRackCap cap s
  | .queryDeviceIdentifiers => Sys2Proof.Machine.execQueryDeviceIdentifiers s
  | .getFirmwareParameters => Sys2Proof.Machine.execGetFirmwareParameters s
  | .requestUpdate => Sys2Proof.Machine.execRequestUpdate s
  | .passComponentTable components ident => Sys2Proof.Machine.execPassComponentTable components ident s
  | .updateComponent ident security => Sys2Proof.Machine.execUpdateComponent ident security s
  | .requestFirmwareData vdm data => Sys2Proof.Machine.execRequestFirmwareData vdm data s
  | .transferComplete => Sys2Proof.Machine.execTransferComplete s
  | .verifyComplete img => Sys2Proof.Machine.execVerifyComplete img s
  | .applyComplete => Sys2Proof.Machine.execApplyComplete s
  | .activateFirmware selfContained => Sys2Proof.Machine.execActivateFirmware selfContained s
  | .getStatus => Sys2Proof.Machine.execGetStatus s
  | .cancelUpdateComponent => Sys2Proof.Machine.execCancelUpdateComponent s
  | .cancelUpdate => Sys2Proof.Machine.execCancelUpdate s
  | .fwStage f seq img size flashOk => Sys2Proof.Machine.execFwStage f seq img size flashOk s
  | .fwActivate f seq resetNow => Sys2Proof.Machine.execFwActivate f seq resetNow s
  | .moduleReset f seq force => Sys2Proof.Machine.execModuleReset f seq force s
  | .portConfig f seq pfs vfs => Sys2Proof.Machine.execPortConfig f seq pfs vfs s
  | .haulConfig f seq e mac ip pfc cc => Sys2Proof.Machine.execHaulConfig f seq e mac ip pfc cc s
  | .groupForm f seq data0 => Sys2Proof.Machine.execGroupForm f seq data0 s
  | .groupPlanReceive plan sender linksOk => Sys2Proof.Machine.execGroupPlanReceive plan sender linksOk s
  | .groupCommitReceive => Sys2Proof.Machine.execGroupCommitReceive s
  | .groupDissolve f seq => Sys2Proof.Machine.execGroupDissolve f seq s
  | .groupTakeControl f seq lowerToo => Sys2Proof.Machine.execGroupTakeControl f seq lowerToo s
  | .linkRetrain f seq mask => Sys2Proof.Machine.execLinkRetrain f seq mask s
  | .dieRestart f seq d => Sys2Proof.Machine.execDieRestart f seq d s
  | .watchdog f seq k disable => Sys2Proof.Machine.execWatchdog f seq k disable s
  | .telemetry f seq ring entries period => Sys2Proof.Machine.execTelemetry f seq ring entries period s
  | .telemetryRefresh now => Sys2Proof.Machine.execTelemetryRefresh now s
  | .livenessProbeSend => Sys2Proof.Machine.execLivenessProbeSend s
  | .livenessProbeReceive rank isAnswer => Sys2Proof.Machine.execLivenessProbeReceive rank isAnswer s
  | .memberDeclaredFailed rank => Sys2Proof.Machine.execMemberDeclaredFailed rank s
  | .declarationReceive rank => Sys2Proof.Machine.execDeclarationReceive rank s
  | .reformCommit failed => Sys2Proof.Machine.execReformCommit failed s
  | .controlCoreWatchdog n sinceLast => Sys2Proof.Machine.execControlCoreWatchdog n sinceLast s
  | .controlCoreRestarted n => Sys2Proof.Machine.execControlCoreRestarted n s
  | .scrubAccess w ecc => Sys2Proof.Machine.execScrubAccess w ecc s
  | .dieFail d => Sys2Proof.Machine.execDieFail d s
  | .stackFail n => Sys2Proof.Machine.execStackFail n s
  | .moduleFault => Sys2Proof.Machine.execModuleFault s
  | .logPersist => Sys2Proof.Machine.execLogPersist s
  | .auxGood => Sys2Proof.Machine.execAuxGood s
  | .strapSample sbSel h0Bif h1Bif modId => Sys2Proof.Machine.execStrapSample sbSel h0Bif h1Bif modId s
  | .inputConnect => Sys2Proof.Machine.execInputConnect s
  | .mainGood => Sys2Proof.Machine.execMainGood s
  | .bootRails => Sys2Proof.Machine.execBootRails s
  | .bootFirmwareLoad started => Sys2Proof.Machine.execBootFirmwareLoad started s
  | .bootZeroAndCharacterise rates badArrays badDies => Sys2Proof.Machine.execBootZeroAndCharacterise rates badArrays badDies s
  | .bootTraining stackSet links => Sys2Proof.Machine.execBootTraining stackSet links s
  | .bootPcieRelease h0 h1 => Sys2Proof.Machine.execBootPcieRelease h0 h1 s
  | .mainLost => Sys2Proof.Machine.execMainLost s
  | .auxLost => Sys2Proof.Machine.execAuxLost s
  | .perstAssert h1 => Sys2Proof.Machine.execPerstAssert h1 s
  | .perstDeassert h1 => Sys2Proof.Machine.execPerstDeassert h1 s
  | .pcieLinkDown l => Sys2Proof.Machine.execPcieLinkDown l s
  | .setdasa addr => Sys2Proof.Machine.execSetdasa addr s
  | .entdaa addr => Sys2Proof.Machine.execEntdaa addr s
  | .droopHoldStart d => Sys2Proof.Machine.execDroopHoldStart d s
  | .vrAlertDeassert => Sys2Proof.Machine.execVrAlertDeassert s
  | .pwrBrakeDeassert => Sys2Proof.Machine.execPwrBrakeDeassert s
  | .spillCopyDone n r => Sys2Proof.Machine.execSpillCopyDone n r s
  | .ethernetPortUp e => Sys2Proof.Machine.execEthernetPortUp e s
  | .pcieLinkUp l => Sys2Proof.Machine.execPcieLinkUp l s
  | .configurationRequest l => Sys2Proof.Machine.execConfigurationRequest l s
  | .groupAnswerReceive a => Sys2Proof.Machine.execGroupAnswerReceive a s
  | .groupFormationTimeout => Sys2Proof.Machine.execGroupFormationTimeout s
  | .reformAcknowledge rank => Sys2Proof.Machine.execReformAcknowledge rank s
  | .groupForwardReceive x => Sys2Proof.Machine.execGroupForwardReceive x s

end Sys2Proof.Machine
end

