-- ==== Sys2Proof/Machine/Mesh.lean ====
section
/-! DEFINITION. The mesh of a C-die: routes, and the lanes into which firmware divides each link (01 R33 to R35; 14 R528, R532).
Lanes are channels of their own, so they change no value and no order between claims; what a link is divided into follows from
what the claims own, and is computed from it here. -/

namespace Sys2Proof.Machine

/-- A mesh link of a C-die, both directions: along row `r` between columns `c` and `c + 1`; along column `c` between rows `r` and
`r + 1`; from the router of column `c` of row 0 to the hub bridge; from the router of row `r` at an edge to a ring bridge (R33,
R34). -/
inductive MeshLink where
  | row (r : Fin 4) (c : Fin 3)
  | col (c : Fin 4) (r : Fin 3)
  | hub (c : Fin 4)
  | ring (next : Bool) (r : Fin 4)
  deriving DecidableEq, Repr

/-- The links on the way between two routers, each 4 × row + column: along the row of the first, then along the column of the
second (R33). -/
def meshRoute (a b : Nat) : List MeshLink :=
  let along (x y : Nat) : List Nat := (upFrom (min x y) (max x y - min x y))
  (along (a % 4) (b % 4)).map (fun c => .row (Fin.ofNat 4 (a / 4)) (Fin.ofNat 3 c)) ++
    (along (a / 4) (b / 4)).map fun r => .col (Fin.ofNat 4 (b % 4)) (Fin.ofNat 3 r)

/-- The routers at which a claim's traffic ends on a die: those of its cores, and those that reach its gallery banks directly
(R34, R35). -/
def claimRouters (s : State) (k d : Nat) : List Nat :=
  let q := claimAt s k
  (upFrom 0 16).filter fun l => inSet q.quads (4 * d + l / 4) || (upFrom (64 * d + 4 * l) 4).any (inSet q.galBanks)

/-- Whether a claim has a tally or a conveyor homed on a die. The mesh place of a home is open in R34; the model takes it that
such traffic can cross every column link of the die (DESIGN CHOICE, log entry 142). -/
def homesOn (s : State) (k d : Nat) : Bool :=
  let q := claimAt s k
  (q.tallyBase < 16 * (d + 1) && 16 * d < q.tallyBase + q.tallyUnits) ||
    (q.convBase < 8 * (d + 1) && 8 * d < q.convBase + q.convUnits)

/-- The rows between which a claim's traffic runs on a die: those of its routers, row 0 for the hub bridge, and the rows by which
its traffic of the next and the previous die comes in over the ring bridges. -/
def claimRows (s : State) (k d : Nat) : List Nat :=
  let mine := (claimRouters s k d).map fun l => l / 4
  if mine.isEmpty && !(homesOn s k d) then []
  else if homesOn s k d then [0, 3]
  else 0 :: mine ++ (upFrom 0 4).filter fun r =>
    inSet (claimAt s k).quads (4 * dieNext d + r) || inSet (claimAt s k).quads (4 * diePrev d + r)

/-- Whether a claim's traffic can cross a mesh link of die `d`: a row link only of its own quads, and column, hub and ring links
that lie between its rows (R532). -/
def canCross (s : State) (k d : Nat) : MeshLink → Bool
  | .row r _ => inSet (claimAt s k).quads (4 * d + r.val)
  | .col _ r => (claimRows s k d).any (fun x => x ≤ r.val) && (claimRows s k d).any fun x => r.val < x
  | .hub _ => !(claimRows s k d).isEmpty
  | .ring next r => inSet (claimAt s k).quads (4 * d + r.val) ||
      ((!(claimRouters s k d).isEmpty || homesOn s k d) &&
        inSet (claimAt s k).quads (4 * (if next then dieNext d else diePrev d) + r.val))

/-- The claims that share a mesh link (R532). -/
def meshClaims (s : State) (d : Nat) (l : MeshLink) : List Nat := (createdClaims s).filter fun k => canCross s k d l

/-- Bytes per beat of each of `k` lanes of a link of 512: rounded down to a multiple of 64 (R532). -/
def laneWidth (k : Nat) : Nat := if k = 0 then 512 else 512 / k / 64 * 64

/-- The lanes of a mesh link: one to each claim of its set, with its width. -/
def meshLanes (s : State) (d : Nat) (l : MeshLink) : List (Nat × Nat) :=
  let ks := meshClaims s d l
  ks.map fun k => (k, laneWidth ks.length)

end Sys2Proof.Machine
end

