-- ==== Sys2Proof/Safety.lean ====
section
/-! DEFINITION. What the statements speak of: when an instruction of a core program may execute, what a command leaves
alone, which states are well formed, and what a safe run is. -/

namespace Sys2Proof.Machine

/-! ### A core that executes an instruction (R332 to R334, R339, R364) -/

/-- Core `c` executes its next instruction: its beats run, its claim's task is live and its sequencer runs; the word at the
pc is `w`, without poison; and it is a well-formed instruction of row `r`. -/
def executes (s : State) (c : CoreId) (r : SeqRow) (w : W64) : Bool :=
  seqCan s c && !(anyPoison 8 (coreAt s c).bench.poison (instrBase + 8 * (coreAt s c).seq.pc) 8) &&
    instrAt s c (coreAt s c).seq.pc == w && rowOf w == some r && (illegalReason r w).isNone

/-- The same, and the instruction can be followed in sequence (R343). -/
def runs (s : State) (c : CoreId) (r : SeqRow) (w : W64) : Bool :=
  executes s c r w && canFollow (coreAt s c).seq

/-- The command that is an instruction of a row at core `c`. -/
def rowCommand (c : CoreId) : SeqRow → Instr
  | .alu => .alu c | .alui => .alui c | .li => .li c | .load => .ldstLoad c | .store => .ldstStore c | .br => .br c
  | .loop => .loop c | .jmp => .jmp c | .nop => .nop c | .endp => .endProgram c | .pcmp => .pcmp c
  | .plogic => .plogic c | .csrr => .csrr c | .rdloop => .rdloop c | .mma => .mma c | .mmaR => .mmaR c
  | .sload => .sload c | .swap => .swap c | .drain => .drain c | .catt => .catt c | .fill => .fill c
  | .attend => .attend c | .pass => .pass c | .dot => .dot c | .conv => .conv c | .wld => .wld c | .wst => .wst c
  | .lane => .lane c | .move => .move c | .moveh => .moveh c | .tagFill => .tagFill c | .tagDrain => .tagDrain c
  | .tallyAdd => .tallyAdd c | .tallyAddFetch => .tallyAddFetch c | .tallySet => .tallySet c
  | .tallyRead => .tallyRead c | .twait => .twait c | .push => .conveyorPush c | .pop => .conveyorPop c
  | .reset => .conveyorReset c | .fence => .fence c | .post => .post c | .rtally => .rtally c | .rpush => .rpush c
  | .wfence => .wfence c | .cstep => .cstep c | .phase => .phase c | .brk => .breakPoint c

/-! ### Frames -/

/-- Only core `c` differs. -/
def onlyCore (c : Nat) (s t : State) : Prop := t = setCore s c (coreAt t c)

/-- Only die `d` differs. -/
def onlyDie (d : Nat) (s t : State) : Prop := t = { s with dies := tput {} s.dies d (dieAt t d) }

/-- Only the sequencer of core `c` differs. -/
def onlySeq (c : Nat) (s t : State) : Prop := t = setCore s c { coreAt s c with seq := (coreAt t c).seq }

/-- The sequencer state that an instruction of R341 to R343 leaves alone beside the registers: predicates, attachments,
fault registers, phase, break, image and issue numbers, and stall counts. -/
def sameSeqRest (a b : SeqState) : Prop :=
  b.preds = a.preds ∧ b.prologue = a.prologue ∧ b.epilogue = a.epilogue ∧ b.odd = a.odd ∧ b.fault = a.fault ∧ b.phase = a.phase ∧
    b.breakId = a.breakId ∧ b.imageId = a.imageId ∧ b.nextItem = a.nextItem ∧ b.stalls = a.stalls

/-- Every general register but those listed reads as before. -/
def regsBut (c : Nat) (except : List Nat) (s t : State) : Prop := ∀ r, r ∉ except → regAt t c r = regAt s c r

/-- The instruction retired and was followed in sequence (R343, R344): the sequencer runs, and pc and loops are those of the
loop procedure. -/
def wentOn (a b : SeqState) : Prop :=
  b.run = .running ∧ b.wait = none ∧ b.retired = wrapAdd 64 a.retired 1 ∧ b.pc = (followed a).pc ∧
    b.order = (followed a).order ∧ b.loops = (followed a).loops

/-- An instruction whose effect is a register at most: core `c`'s sequencer goes on, register `rd` may have changed, and
nothing else. -/
def registerOnly (c rd : Nat) (s t : State) : Prop :=
  onlySeq c s t ∧ regsBut c [rd] s t ∧ sameSeqRest (coreAt s c).seq (coreAt t c).seq ∧
    wentOn (coreAt s c).seq (coreAt t c).seq

/-- An instruction without another effect: core `c`'s sequencer goes on in sequence, and nothing else. -/
def advanceOnly (c : Nat) (s t : State) : Prop :=
  onlySeq c s t ∧ regsBut c [] s t ∧ sameSeqRest (coreAt s c).seq (coreAt t c).seq ∧
    wentOn (coreAt s c).seq (coreAt t c).seq

/-- A jump: core `c`'s sequencer goes on at `target`; the loop state stays (R344), and nothing but the registers listed
changes. -/
def jumped (c target : Nat) (except : List Nat) (s t : State) : Prop :=
  onlySeq c s t ∧ regsBut c except s t ∧ sameSeqRest (coreAt s c).seq (coreAt t c).seq ∧
    (coreAt t c).seq.pc = target ∧ (coreAt t c).seq.loops = (coreAt s c).seq.loops ∧
    (coreAt t c).seq.order = (coreAt s c).seq.order ∧ (coreAt t c).seq.run = .running ∧
    (coreAt t c).seq.retired = wrapAdd 64 (coreAt s c).seq.retired 1

/-- The claim of core `c` has a task, and no fault of it has been recorded. -/
def claimRuns (s : State) (c k : Nat) : Bool :=
  coreOwner s c == some k && taskLive s k

/-- A fault that core `c`'s sequencer raised and that is the first of the task of claim `k` (R364, R397, R398): the sequencer
has stopped, and the task holds the fault. -/
def sequencerFaulted (c k : Nat) (name : FaultName) (reason : Nat) (t : State) : Prop :=
  (coreAt t c).seq.run = .faulted ∧ ∃ x f, (claimAt t k).task = some x ∧ x.fault = some f ∧ f.info.name = name ∧
    f.info.reason = reason ∧ f.engine = 0 ∧ f.core = c

/-- The task of claim `k` holds its first fault: this name and this reason (R397, R398). -/
def taskFaulted (k : Nat) (name : FaultName) (reason : Nat) (t : State) : Prop :=
  ∃ x f, (claimAt t k).task = some x ∧ x.fault = some f ∧ f.info.name = name ∧ f.info.reason = reason

/-- The claim that engine `e` works for is `k`, and its task is live. -/
def engineRuns (s : State) (e : Engine) (k : Nat) : Bool := engineClaim s e == some k && taskLive s k

/-! ### Well-formed states -/

/-- The MMA that streams and the rows in flight stay inside the accumulator: at most 64 columns and rows up to 255, one slice
for each array of the mask (R112, R113). -/
def rowsWf (m : MatState) : Bool :=
  m.run.all (fun q => q.op.n ≤ 64 && q.op.base + q.op.m ≤ 256 && q.row < q.op.m) &&
    m.flight.all (fun f => f.op.n ≤ 64 && f.op.base + f.row < 256 && f.slices.map (fun x => x.array) == arraysOf f.op.mask)

/-- The canonical form of a memory of bytes: addresses strictly rising, and no cell that holds what an unlisted address reads
as. -/
abbrev Memory.wf (m : List Host.Cell) : Bool := twf 0 m

/-- The memories of a core are in canonical form (R244, R249), and its rows stay inside the accumulator. -/
def coreWf (k : CoreState) : Bool :=
  Memory.wf k.bench.bytes && Memory.wf k.mat.weight && Memory.wf k.mat.act && rowsWf k.mat

/-- Every memory of bytes is in canonical form: benches and chutes, gallery, DRAM, host memory, sump slots; and the rows of
every core stay inside the accumulator. -/
def stateWf (s : State) : Bool :=
  s.cores.all (fun e => coreWf e.2) && Memory.wf s.gallery.bytes && Memory.wf s.dram.bytes && Memory.wf s.host.bytes &&
    s.fabric.sump.all (fun e => Memory.wf e.2.bytes)

/-! ### Safe runs -/

/-- No task of any claim has a fault recorded (R397). -/
def faultFree (s : State) : Bool :=
  claimNos.all fun k => match (claimAt s k).task with
    | some t => t.fault.isNone
    | none => true

/-- The outcome of a step is a next state without a fault of a task. -/
def safeStep (s : State) : Bool :=
  match step s with
  | .next t => faultFree t
  | _ => false

end Sys2Proof.Machine
end

