-- ==== Sys2Proof/WellFormed.lean ====
section
/-! DEFINITION. Which operands a command can carry: the widths and counts of the fields that the spec gives its access,
frame or sensor. What a field may not hold by rule (a cap out of range, a reserved code) is the command's own effect. -/

namespace Sys2Proof

/-- A request's destination lies in DRAM, or in a target's 52-bit space. -/
def jctDestWf : JctDest → Bool
  | .dram offset => offset < 144000000000
  | .module _ offset => offset < 2 ^ 52
  | _ => true

/-- A bench access touches between one byte and one line (R252). -/
def benchOpWf : BenchOp → Bool
  | .read len => 0 < len && len ≤ 512
  | .write data => 0 < data.length && data.length ≤ 512

/-- A temperature that a 12-bit field holds, in units of 0.125 °C (R600). -/
def tempWf (t : Int) : Bool := -2048 ≤ t && t < 2048

/-- A security version is 0 to 63, and a version 32 bits (R606). -/
def imageWf (i : FwImage) : Bool := i.security < 64 && i.version < 2 ^ 32

/-- A word of a memory that exists (R244, R246, R247). -/
def wordWf : MemWord → Bool
  | .bench _ w => w < 2 ^ 20
  | .gallery w => w < 512 * 98304
  | .dram u => u < 225 * 10000000

/-- A well-formed command. -/
def Instr.wf : Instr → Bool
  | .droopDetect _ => true
  | .droopClampRelease _ => true
  | .voltageStepSettle _ => true
  | .alu _ => true
  | .alui _ => true
  | .li _ => true
  | .ldstLoad _ => true
  | .ldstStore _ => true
  | .br _ => true
  | .loop _ => true
  | .jmp _ => true
  | .nop _ => true
  | .endProgram _ => true
  | .pcmp _ => true
  | .plogic _ => true
  | .csrr _ => true
  | .rdloop _ => true
  | .mma _ => true
  | .mmaR _ => true
  | .sload _ => true
  | .swap _ => true
  | .drain _ => true
  | .catt _ => true
  | .fill _ => true
  | .attend _ => true
  | .pass _ => true
  | .dot _ => true
  | .conv _ => true
  | .wld _ => true
  | .wst _ => true
  | .lane _ => true
  | .move _ => true
  | .moveh _ => true
  | .tagFill _ => true
  | .tagDrain _ => true
  | .tallyAdd _ => true
  | .tallyAddFetch _ => true
  | .tallySet _ => true
  | .tallyRead _ => true
  | .twait _ => true
  | .conveyorPush _ => true
  | .conveyorPop _ => true
  | .conveyorReset _ => true
  | .fence _ => true
  | .post _ => true
  | .rtally _ => true
  | .rpush _ => true
  | .wfence _ => true
  | .cstep _ => true
  | .phase _ => true
  | .breakPoint _ => true
  | .mmaStart _ => true
  | .stationaryLoadStart _ => true
  | .stationaryLoadDone _ => true
  | .fillStart _ => true
  | .arraySliceEnter _ => true
  | .arrayRowComplete _ _ => true
  | .arrayIdle _ => true
  | .dressingItemStart _ => true
  | .closingPassStart _ => true
  | .attentionCallStart _ _ _ => true
  | .attentionClosing _ => true
  | .haulHand _ _ => true
  | .benchAccess _ _ _ offset op _ _ _ => offset < 2 ^ 23 && benchOpWf op
  | .heldAccessIssue _ _ => true
  | .galleryRead _ offset len _ => offset < 2 ^ 52 && 0 < len && len ≤ 128
  | .galleryWrite _ offset data => offset < 2 ^ 52 && 0 < data.length && data.length ≤ 128
  | .transposingRead _ offset _ _ => offset < 2 ^ 52
  | .stridedRead _ offset _ dims => offset < 2 ^ 52 && 0 < dims.length && dims.length ≤ 4
  | .gather _ list _ base _ _ => list < 2 ^ 52 && base < 2 ^ 52
  | .accumulateInPlace req _ => req.offset < 2 ^ 52 && req.data.length ≤ 128
  | .quantiseOnWrite _ _ _ target dst scaleDst _ => target < 16 && dst < 2 ^ 52 && scaleDst < 2 ^ 52
  | .zeroFill _ offset len => offset < 2 ^ 52 && 0 < len
  | .rowReduction _ offset _ _ _ => offset < 2 ^ 52
  | .turnSet _ _ count tally _ => count < 2 ^ 16 && tally < 131072
  | .turnHoldPresent _ => true
  | .backoffRetry _ => true
  | .junctionRequest _ dest _ bytes _ => jctDestWf dest && bytes ≤ 4096
  | .portGrant _ => true
  | .dramAccess _ offset len data _ => offset < 2 ^ 52 && (0 < len || 0 < data.length)
  | .benchBankPower _ _ _ => true
  | .pwrGalOffWrite _ _ _ => true
  | .pwrDramOffWrite _ _ _ => true
  | .powerUpZeroFillDone _ => true
  | .dramRegionZeroed _ => true
  | .watchdogStall _ => true
  | .deadlineMiss _ _ _ object _ => object < 131072
  | .blockDeadlineMiss _ => true
  | .holdTakesEffect _ => true
  | .taskEnd _ elapsed => elapsed < 2 ^ 32
  | .moverBlockStart _ => true
  | .completionAction _ => true
  | .taskAbort _ elapsed => elapsed < 2 ^ 32
  | .peerAbort _ _ => true
  | .atsInvalidation _ page pages _ => page + pages ≤ 2 ^ 52 && 0 < pages
  | .flitReceive _ flits _ _ acked _ => flits.length ≤ 5 && flits.all (fun x => x.body.length = 60) && (acked.all fun n => n < 4096)
  | .replayRequest _ seq => seq < 4096
  | .linkRetrainDone _ _ => true
  | .laneFailure _ _ => true
  | .linkDown _ => true
  | .inboundWindowAccess _ => true
  | .winRefused _ _ _ _ => true
  | .transitPacket _ _ bytes => 0 < bytes
  | .windowOpenExport _ _ _ => true
  | .windowOpenImport _ _ _ => true
  | .windowClose _ _ => true
  | .sumpAcquire _ => true
  | .sumpRelease _ _ => true
  | .sumpConfigure _ _ _ => true
  | .sumpArrive _ _ _ _ => true
  | .sumpContribute _ _ _ data _ => 0 < data.length && data.length ≤ 4096
  | .sumpResult _ _ _ => true
  | .sumpAtomic _ _ _ _ data _ => 0 < data.length && data.length ≤ 4096
  | .collectiveChunk _ _ _ _ params _ _ _ => params.length = 10
  | .collectiveComplete _ _ => true
  | .frameSend _ _ => true
  | .acknowledge _ _ => true
  | .nak _ _ => true
  | .rnrNak _ => true
  | .rnrWaitExpiry _ => true
  | .ackTimeout _ => true
  | .cnp _ _ => true
  | .rateIncrease _ => true
  | .inboundPacketDrop _ => true
  | .pfcPause _ _ _ => true
  | .slowReceiverDeadline _ _ => true
  | .ethernetPortDown _ => true
  | .streamOpen _ _ _ => true
  | .streamClose _ _ => true
  | .qpReady _ _ _ => true
  | .qpReset _ _ => true
  | .claimCreate _ _ => true
  | .claimDestroy _ _ => true
  | .doorbell _ _ _ tail _ => tail < 65536
  | .taskStart _ => true
  | .holdRequest _ _ => true
  | .holdLift _ _ => true
  | .cancel _ _ => true
  | .functionLevelReset _ => true
  | .coreL0Request _ _ => true
  | .coreL1Request _ _ => true
  | .coreL2Request _ _ => true
  | .dieL3Request _ _ => true
  | .dieL0Request _ _ => true
  | .moduleL4Request _ => true
  | .moduleL0Request _ => true
  | .hostLimitWrite _ watts => watts < 65536
  | .bar0InvalidAccess _ offset _ => offset < 2 ^ 26
  | .poweredOffAccess _ offset _ => offset < 2 ^ 26
  | .registerWrite _ offset size _ => offset < 2 ^ 26 && (size = 1 || size = 2 || size = 4 || size = 8)
  | .powerEstimateTick e => e.activity.length = 8 && (e.activity.all fun x => x.length = 48) && e.monitors.length = 8 &&
      (e.monitors.all fun x => x.length = 8)
  | .fastLimiterTick => true
  | .governorLoop _ => true
  | .excursionReport => true
  | .calibrationTick rails => rails.length = 11
  | .rateCorrectionTick monitors => monitors.length = 8 && (monitors.all fun x => x.length = 8)
  | .achievableCodeReport => true
  | .matchReportReceive _ code => 10 ≤ code && code ≤ 64
  | .grpSyncDrive => true
  | .grpSyncPulse _ => true
  | .grpSyncTimeout => true
  | .thermalSample _ sensors => sensors.length = 24 && sensors.all tempWf
  | .dramThermalTick s0 s1 => tempWf s0 && tempWf s1
  | .hubThermalTick t => tempWf t
  | .dieThermalTrip _ => true
  | .hubThermalTrip => true
  | .vrAlertAssert => true
  | .pwrBrakeAssert => true
  | .forceRelease => true
  | .inputPowerSample volt amp _ mean => volt < 65536 && amp < 65536 && mean < 65536
  | .failsafeTimeout => true
  | .setCap cap _ => cap < 65536
  | .getCap => true
  | .getPower => true
  | .getReasons => true
  | .setHostAuth _ => true
  | .setFailsafe cap timeout => cap < 65536 && timeout < 65536
  | .setState state => state < 256
  | .clearExcursion => true
  | .oemUnknownCommand code => code.toNat = 0 || 8 < code.toNat
  | .pldmGetSensor _ => true
  | .pldmSetRackCap cap => cap < 65536
  | .queryDeviceIdentifiers => true
  | .getFirmwareParameters => true
  | .requestUpdate => true
  | .passComponentTable _ _ => true
  | .updateComponent _ security => security < 64
  | .requestFirmwareData vdm data => data.length ≤ (if vdm then 4096 else 256)
  | .transferComplete => true
  | .verifyComplete img => imageWf img
  | .applyComplete => true
  | .activateFirmware _ => true
  | .getStatus => true
  | .cancelUpdateComponent => true
  | .cancelUpdate => true
  | .fwStage _ _ img _ _ => imageWf img
  | .fwActivate _ _ _ => true
  | .moduleReset _ _ _ => true
  | .portConfig _ _ pfs vfs => pfs.length = 4 && vfs.length = 4
  | .haulConfig _ _ _ _ _ _ _ => true
  | .groupForm _ _ _ => true
  | .groupPlanReceive _ _ _ => true
  | .groupCommitReceive => true
  | .groupDissolve _ _ => true
  | .groupTakeControl _ _ _ => true
  | .linkRetrain _ _ _ => true
  | .dieRestart _ _ _ => true
  | .watchdog _ _ _ _ => true
  | .telemetry _ _ _ _ _ => true
  | .telemetryRefresh _ => true
  | .livenessProbeSend => true
  | .livenessProbeReceive _ _ => true
  | .memberDeclaredFailed _ => true
  | .declarationReceive _ => true
  | .reformCommit failed => !failed.isEmpty
  | .controlCoreWatchdog _ _ => true
  | .controlCoreRestarted _ => true
  | .scrubAccess w _ => wordWf w
  | .dieFail _ => true
  | .stackFail _ => true
  | .moduleFault => true
  | .logPersist => true
  | .auxGood => true
  | .strapSample _ _ _ _ => true
  | .inputConnect => true
  | .mainGood => true
  | .bootRails => true
  | .bootFirmwareLoad _ => true
  | .bootZeroAndCharacterise rates _ _ => rates.length = 8
  | .bootTraining _ _ => true
  | .bootPcieRelease _ _ => true
  | .mainLost => true
  | .auxLost => true
  | .perstAssert _ => true
  | .perstDeassert _ => true
  | .pcieLinkDown _ => true
  | .setdasa _ => true
  | .entdaa _ => true
  | .droopHoldStart _ => true
  | .vrAlertDeassert => true
  | .pwrBrakeDeassert => true
  | .spillCopyDone _ _ => true
  | .ethernetPortUp _ => true
  | .pcieLinkUp _ => true
  | .configurationRequest _ => true
  | .groupAnswerReceive _ => true
  | .groupFormationTimeout => true
  | .reformAcknowledge _ => true
  | .groupForwardReceive _ => true

end Sys2Proof
end

