-- ==== Sys2Proof/Certificates/Slice0/Obligations.lean ====
section
/-! DEFINITION. The statements for the provers. -/

section
open Sys2Proof Sys2Proof.Machine

/-- R341, *ALU functs*: what each function computes; ALU, ALUI and LI complete with it in rd and change no other register and
nothing else but the sequencer's advance. -/
def Obligations.ScalarArithmetic : Prop :=
  (∀ a b : W64,
    aluResult 0 a b = a + b ∧ aluResult 1 a b = a - b ∧ aluResult 2 a b = a &&& b ∧ aluResult 3 a b = a ||| b ∧
    aluResult 4 a b = a ^^^ b ∧ aluResult 5 a b = a <<< b.extractLsb' 0 6 ∧ aluResult 6 a b = a >>> b.extractLsb' 0 6 ∧
    aluResult 7 a b = a.sshiftRight' (b.extractLsb' 0 6) ∧ aluResult 8 a b = a * b ∧
    aluResult 9 a b = (a.setWidth 128 * b.setWidth 128).extractLsb' 64 64 ∧
    aluResult 10 a b = (if b.slt a then b else a) ∧ aluResult 11 a b = (if a.slt b then b else a) ∧
    aluResult 12 a b = (if b.ult a then b else a) ∧ aluResult 13 a b = (if a.ult b then b else a) ∧
    aluResult 14 a b = (if a.slt b then 1 else 0) ∧ aluResult 15 a b = (if a.ult b then 1 else 0)) ∧
  ∀ (s : State) (c : CoreId) (w : W64),
    (runs s c .alu w = true → ∃ t, exec (.alu c) s = .next t ∧ registerOnly c (fieldOf w 57 53) s t ∧
      regAt t c (fieldOf w 57 53) =
        aluResult (fieldOf w 42 37) (regAt s c (fieldOf w 52 48)) (regAt s c (fieldOf w 47 43))) ∧
    (runs s c .alui w = true → ∃ t, exec (.alui c) s = .next t ∧ registerOnly c (fieldOf w 57 53) s t ∧
      regAt t c (fieldOf w 57 53) =
        aluResult (fieldOf w 47 43) (regAt s c (fieldOf w 52 48)) ((w.extractLsb' 0 32).signExtend 64)) ∧
    (runs s c .li w = true → ∃ t, exec (.li c) s = .next t ∧ registerOnly c (fieldOf w 57 53) s t ∧
      regAt t c (fieldOf w 57 53) =
        if w.getLsbD 52 then w.extractLsb' 0 32 ++ (regAt s c (fieldOf w 57 53)).extractLsb' 0 32
        else (w.extractLsb' 0 32).signExtend 64)

/-- *SYS functs*: CSRR reads the claim-relative core index, the rank, the group size or the number of quads; RDLOOP the
remaining count of a loop, or 0; NOP and PHASE (R360) have no register effect. Each goes on in sequence. -/
def Obligations.ReadsAndPhase : Prop :=
  ∀ (s : State) (c : CoreId) (w : W64),
    (runs s c .csrr w = true → ∃ t, exec (.csrr c) s = .next t ∧ registerOnly c (fieldOf w 52 48) s t ∧
      regAt t c (fieldOf w 52 48) = BitVec.ofNat 64 (csrValue s c (fieldOf w 47 40))) ∧
    (csrValue s c 1 = (if s.group.stage = .none then 0 else s.group.rank)) ∧
    (csrValue s c 2 = (if s.group.stage = .none then 1 else s.group.members)) ∧
    (∀ k, coreOwner s c = some k →
      csrValue s c 0 = ((coresOf (claimAt s k).quads).filter fun x => x < c.val).length ∧
      csrValue s c 3 = setCount 32 (claimAt s k).quads) ∧
    (runs s c .rdloop w = true → ∃ t, exec (.rdloop c) s = .next t ∧ registerOnly c (fieldOf w 52 48) s t ∧
      (fieldOf w 47 46 ∈ (coreAt s c).seq.order → regAt t c (fieldOf w 52 48) =
        BitVec.ofNat 64 (tget {} (coreAt s c).seq.loops (fieldOf w 47 46)).remaining) ∧
      (fieldOf w 47 46 ∉ (coreAt s c).seq.order → regAt t c (fieldOf w 52 48) = 0)) ∧
    (runs s c .nop w = true → ∃ t, exec (.nop c) s = .next t ∧ advanceOnly c s t) ∧
    (runs s c .phase w = true → ∃ t, exec (.phase c) s = .next t ∧ onlySeq c s t ∧ regsBut c [] s t ∧
      (coreAt t c).seq.phase = fieldOf w 57 54 ∧ (coreAt t c).seq.preds = (coreAt s c).seq.preds ∧
      wentOn (coreAt s c).seq (coreAt t c).seq)

/-- R342: an untagged load whose offset is aligned, in the bench and outside the instruction region, in powered and clean
banks, behind no earlier access of the sequencer (R295), puts the zero-extended bytes, least significant first, into rd; an untagged store writes the low bytes of rd. Only
the stored bytes change; the P-dress port counts one access. -/
def Obligations.LocalLoadStore : Prop :=
  ∀ (s : State) (c : CoreId) (w : W64),
    let o := (regAt s c (fieldOf w 47 43) + (w.extractLsb' 0 24).signExtend 64).toNat
    let len := 2 ^ fieldOf w 56 55
    let rd := fieldOf w 52 48
    fieldOf w 54 53 = 0 → o % len = 0 → o + len ≤ benchSize →
    (runs s c .load w = true → benchGate s c o len true = .go →
      accessBehind s c (.sequencer c) .pDress o len false .plain = false →
      ∃ t, exec (.ldstLoad c) s = .next t ∧ onlyCore c s t ∧ regsBut c [rd] s t ∧
        regAt t c rd = BitVec.ofNat 64 (leNat (benchBytes s c o len)) ∧ (∀ a, benchByte t c a = benchByte s c a) ∧
        (coreAt t c).bench.tags = (coreAt s c).bench.tags ∧
        tget 0 (coreAt t c).bench.portBeats 1 = wrapAdd 64 (tget 0 (coreAt s c).bench.portBeats 1) 1 ∧
        sameSeqRest (coreAt s c).seq (coreAt t c).seq ∧ wentOn (coreAt s c).seq (coreAt t c).seq) ∧
    (runs s c .store w = true → benchGate s c o len false = .go →
      accessBehind s c (.sequencer c) .pDress o len true .plain = false →
      ∃ t, exec (.ldstStore c) s = .next t ∧ onlyCore c s t ∧ regsBut c [] s t ∧
        benchBytes t c o len = leBytes len (regAt s c rd).toNat ∧
        (∀ a, a < o ∨ o + len ≤ a → benchByte t c a = benchByte s c a) ∧
        (coreAt t c).bench.tags = (coreAt s c).bench.tags ∧
        tget 0 (coreAt t c).bench.portBeats 1 = wrapAdd 64 (tget 0 (coreAt s c).bench.portBeats 1) 1 ∧
        sameSeqRest (coreAt s c).seq (coreAt t c).seq ∧ wentOn (coreAt s c).seq (coreAt t c).seq)

/-- R343 and *Branch conditions*: what each condition tests; a taken BR goes to its own index plus the signed offset and
leaves the loops alone, outside 0 to 16,383 it raises SEQ_PC; a BR not taken goes on in sequence; the four kinds of JMP. -/
def Obligations.BranchesAndJumps : Prop :=
  (∀ (a b : W64) (p : Bool),
    condHolds 0 a b p = true ∧ condHolds 1 a b p = decide (a = b) ∧ condHolds 2 a b p = decide (a ≠ b) ∧
    condHolds 3 a b p = a.slt b ∧ condHolds 4 a b p = b.sle a ∧ condHolds 5 a b p = a.ult b ∧
    condHolds 6 a b p = b.ule a ∧ condHolds 7 a b p = p ∧ condHolds 8 a b p = !p) ∧
  ∀ (s : State) (c : CoreId) (w : W64),
    let i := (coreAt s c).seq.pc
    let target : Int := Int.ofNat i + (w.extractLsb' 0 24).toInt
    let taken := condHolds (fieldOf w 57 54) (regAt s c (fieldOf w 53 49)) (regAt s c (fieldOf w 48 44))
      ((predAt s c (fieldOf w 43 41)).getLsbD 0)
    let ra := (regAt s c (fieldOf w 55 51)).toNat % 16384
    (executes s c .br w = true → (fieldOf w 57 54 < 7 ∨ predReadWaits s c (fieldOf w 43 41) = false) →
      (taken = true → 0 ≤ target → target ≤ 16383 →
        ∃ t, exec (.br c) s = .next t ∧ jumped c target.toNat [] s t) ∧
      (taken = true → (target < 0 ∨ 16383 < target) → ∀ k, claimRuns s c k = true →
        ∃ t, exec (.br c) s = .next t ∧ sequencerFaulted c k .seqPc 0 t) ∧
      (taken = false → canFollow (coreAt s c).seq = true → ∃ t, exec (.br c) s = .next t ∧ advanceOnly c s t)) ∧
    (executes s c .jmp w = true →
      (fieldOf w 57 56 = 0 → 0 ≤ target → target ≤ 16383 →
        ∃ t, exec (.jmp c) s = .next t ∧ jumped c target.toNat [] s t) ∧
      (fieldOf w 57 56 = 1 → ∃ t, exec (.jmp c) s = .next t ∧ jumped c ra [] s t) ∧
      (fieldOf w 57 56 = 2 → 0 ≤ target → target ≤ 16383 →
        ∃ t, exec (.jmp c) s = .next t ∧ jumped c target.toNat [31] s t ∧
          regAt t c 31 = BitVec.ofNat 64 (i + 1)) ∧
      (fieldOf w 57 56 = 3 →
        ∃ t, exec (.jmp c) s = .next t ∧ jumped c ((regAt s c 31).toNat % 16384) [] s t))

/-- R344: the loop procedure after an instruction at index `i` that is followed in sequence, and LOOP: with a count of 0 the
pc goes past the body, or to SEQ_PC beyond index 16,383; else the loop counter takes start, end and count, the loop is the
most recently started, and a LOOP that cannot be followed in sequence then raises SEQ_PC. A jump, a call or a taken branch leaves every loop as it was. -/
def Obligations.LoopProcedure : Prop :=
  (∀ (k : SeqState) (pre post : List Nat) (l : Nat),
    let ends (x : Nat) : Bool := (tget {} k.loops x).stop = k.pc
    let goes (x : Nat) : Bool := ends x && 1 < (tget {} k.loops x).remaining
    (k.order = pre ++ l :: post → (∀ x ∈ pre, goes x = false) → goes l = true →
      (followed k).pc = (tget {} k.loops l).start ∧
      (tget {} (followed k).loops l) = { tget {} k.loops l with remaining := (tget {} k.loops l).remaining - 1 } ∧
      (∀ x, x ≠ l → tget {} (followed k).loops x = tget {} k.loops x) ∧
      (followed k).order = (pre.filter fun x => !ends x) ++ l :: post) ∧
    ((∀ x ∈ k.order, goes x = false) →
      (followed k).pc = k.pc + 1 ∧ (followed k).loops = k.loops ∧
      (followed k).order = k.order.filter fun x => !ends x)) ∧
  ∀ (s : State) (c : CoreId) (w : W64),
    let q := (coreAt s c).seq
    let l := fieldOf w 57 56
    let n := if w.getLsbD 55 then (regAt s c (fieldOf w 54 50)).toNat % 2 ^ 32 else fieldOf w 23 0
    let last := q.pc + 1 + fieldOf w 49 34
    let q' : SeqState := { q with order := q.order.filter fun x => x != l }
    (executes s c .loop w = true → n = 0 → last < 16383 →
      ∃ t, exec (.loop c) s = .next t ∧ jumped c (last + 1) [] s t) ∧
    (executes s c .loop w = true → n = 0 → 16383 ≤ last → ∀ k, claimRuns s c k = true →
      ∃ t, exec (.loop c) s = .next t ∧ sequencerFaulted c k .seqPc 0 t) ∧
    (∀ i ∈ [(SeqRow.jmp, Instr.jmp c), (.br, .br c)], executes s c i.1 w = true → ∀ t, exec i.2 s = .next t →
      canFollow q = true → (i.1 = .br → condHolds (fieldOf w 57 54) (regAt s c (fieldOf w 53 49)) (regAt s c (fieldOf w 48 44))
        ((predAt s c (fieldOf w 43 41)).getLsbD 0) = true) →
        (coreAt t c).seq.loops = q.loops ∧ (coreAt t c).seq.order = q.order) ∧
    (executes s c .loop w = true → n ≠ 0 → canFollow q' = false → ∀ k, claimRuns s c k = true →
      ∃ t, exec (.loop c) s = .next t ∧ sequencerFaulted c k .seqPc 0 t) ∧
    (executes s c .loop w = true → n ≠ 0 → canFollow q' = true →
      ∃ t, exec (.loop c) s = .next t ∧ onlySeq c s t ∧ regsBut c [] s t ∧ sameSeqRest q (coreAt t c).seq ∧
        tget {} (coreAt t c).seq.loops l = ⟨q.pc + 1, last, n⟩ ∧ (coreAt t c).seq.order.head? = some l ∧
        (coreAt t c).seq.pc = (followed q').pc)

/-- PCMP and PLOGIC (*SYS functs*, R336): once no queued dressing item uses the predicate, all 128 bits of pd take the
comparison's result, or each lane takes the operation on pa and pb; no other predicate and no register changes. -/
def Obligations.Predicates : Prop :=
  ∀ (s : State) (c : CoreId) (w : W64),
    let pd := fieldOf w 52 50
    let rest (t : State) : Prop := onlySeq c s t ∧ regsBut c [] s t ∧ (∀ p, p ≠ pd → predAt t c p = predAt s c p) ∧
      wentOn (coreAt s c).seq (coreAt t c).seq
    (runs s c .pcmp w = true → predWriteWaits s c pd = false →
      ∃ t, exec (.pcmp c) s = .next t ∧ rest t ∧ predAt t c pd =
        (if condHolds (fieldOf w 49 46) (regAt s c (fieldOf w 45 41)) (regAt s c (fieldOf w 40 36)) false
          then BitVec.allOnes 128 else 0)) ∧
    (runs s c .plogic w = true → predWriteWaits s c pd = false → predReadWaits s c (fieldOf w 49 47) = false →
      predReadWaits s c (fieldOf w 46 44) = false →
      ∃ t, exec (.plogic c) s = .next t ∧ rest t ∧
        ∀ lane, lane < 128 → (predAt t c pd).getLsbD lane =
          (let a := (predAt s c (fieldOf w 49 47)).getLsbD lane
           let b := (predAt s c (fieldOf w 46 44)).getLsbD lane
           match fieldOf w 43 42 with
           | 0 => a && b
           | 1 => a || b
           | 2 => a != b
           | _ => a && !b)) ∧
    ((predWriteWaits s c pd = true ∧ executes s c .pcmp w = true) → exec (.pcmp c) s = .next s)

/-- R313, R361, R362: a FENCE whose units have completed every item goes on, else the sequencer waits at it; a BREAK goes on
when no hold is pending, and stops the core when one is and everything issued has completed and no tile is held (R204),
recording its id, else waits; an END after everything issued completes the program and discards the attachments that are pending (R347). -/
def Obligations.UnitWaits : Prop :=
  ∀ (s : State) (c : CoreId) (w : W64),
    let k := coreAt s c
    (runs s c .fence w = true → unitsDone s c (fieldOf w 57 52) = true →
      ∃ t, exec (.fence c) s = .next t ∧ advanceOnly c s t) ∧
    (runs s c .fence w = true → unitsDone s c (fieldOf w 57 52) = false →
      ∃ t, exec (.fence c) s = .next t ∧ onlyCore c s t ∧ regsBut c [] s t ∧ (coreAt t c).seq.pc = k.seq.pc ∧
        (coreAt t c).seq.run = .waiting ∧ (coreAt t c).seq.wait = some ⟨3, 0⟩ ∧ (coreAt t c).seq.retired = k.seq.retired) ∧
    (runs s c .brk w = true → holdPending s c = false →
      ∃ t, exec (.breakPoint c) s = .next t ∧ advanceOnly c s t) ∧
    (runs s c .brk w = true → holdPending s c = true → unitsDone s c 63 = true → k.drs.holdBytes = 0 →
      ∃ t, exec (.breakPoint c) s = .next t ∧ onlySeq c s t ∧ regsBut c [] s t ∧ (coreAt t c).seq.run = .held ∧
        (coreAt t c).seq.breakId = fieldOf w 57 42 ∧ (coreAt t c).seq.pc = (followed k.seq).pc) ∧
    (runs s c .brk w = true → holdPending s c = true → (unitsDone s c 63 = false ∨ k.drs.holdBytes ≠ 0) →
      ∃ t, exec (.breakPoint c) s = .next t ∧ onlySeq c s t ∧ regsBut c [] s t ∧ (coreAt t c).seq.run = .waiting ∧
        (coreAt t c).seq.pc = k.seq.pc ∧ (coreAt t c).seq.retired = k.seq.retired) ∧
    (executes s c .endp w = true → unitsDone s c 63 = true →
      ∃ t, exec (.endProgram c) s = .next t ∧ onlySeq c s t ∧ regsBut c [] s t ∧ (coreAt t c).seq.run = .ended ∧
        (coreAt t c).seq.prologue = none ∧ (coreAt t c).seq.epilogue = none ∧ (coreAt t c).seq.odd = [] ∧
        (coreAt t c).seq.retired = wrapAdd 64 k.seq.retired 1) ∧
    (executes s c .endp w = true → unitsDone s c 63 = false →
      ∃ t, exec (.endProgram c) s = .next t ∧ (coreAt t c).seq.run = .waiting ∧ (coreAt t c).seq.pc = k.seq.pc)

/-- R357 and R293: TAG sets the tags of its range full or empty and no other tag, byte or register; a range beyond slot 8,191
raises SEQ_RANGE, reason 2. -/
def Obligations.TagRanges : Prop :=
  ∀ (s : State) (c : CoreId) (w : W64),
    let slot := fieldOf w 56 44
    let n := fieldOf w 43 30
    let rest (t : State) : Prop := onlyCore c s t ∧ regsBut c [] s t ∧ (∀ a, benchByte t c a = benchByte s c a) ∧
      sameSeqRest (coreAt s c).seq (coreAt t c).seq ∧ wentOn (coreAt s c).seq (coreAt t c).seq
    (slot + n ≤ 8192 →
      (runs s c .tagFill w = true → ∃ t, exec (.tagFill c) s = .next t ∧ rest t ∧
        ∀ x, tagFull t c x = if slot ≤ x ∧ x < slot + n then true else tagFull s c x) ∧
      (runs s c .tagDrain w = true → ∃ t, exec (.tagDrain c) s = .next t ∧ rest t ∧
        ∀ x, tagFull t c x = if slot ≤ x ∧ x < slot + n then false else tagFull s c x)) ∧
    (8192 < slot + n → ∀ k, claimRuns s c k = true →
      (executes s c .tagFill w = true → ∃ t, exec (.tagFill c) s = .next t ∧ sequencerFaulted c k .seqRange 2 t) ∧
      (executes s c .tagDrain w = true → ∃ t, exec (.tagDrain c) s = .next t ∧ sequencerFaulted c k .seqRange 2 t))

/-- R299 to R301: the four TALLY operations on a tally of the claim. The operand is (s[rs][31:0] + imm) mod 2^32; an add wraps;
a change releases every wait of the tally whose target it reaches and keeps the others; no other tally, no other register
of any core and no memory changes.
R300, R302, R303: a TWAIT whose target is reached goes on; else it enters the home's wait entries while fewer than 256 of
them are in use, and backs off when all are; a tally that the claim does not own raises SYNC_RANGE. -/
def Obligations.Tallies : Prop :=
  (∀ (s : State) (c : CoreId) (w : W64),
    let n := fieldOf w 55 39
    let rs := fieldOf w 38 34
    let v : W32 := BitVec.ofNat 32 ((regAt s c rs).toNat % 2 ^ 32 + fieldOf w 31 0)
    let wrote (x : W32) (t : State) : Prop :=
      tallyAt t n = x ∧ (∀ m, m ≠ n → tallyAt t m = tallyAt s m) ∧
      t.waits = s.waits.filter (fun e => !(e.tally == n && reached x e.target)) ∧
      (∀ e ∈ s.waits, e.tally = n → reached x e.target = true → ∀ j, e.who = .seq j →
        (coreAt s j).seq.run = .waiting → (coreAt t j).seq.run = .running)
    let kept (t : State) : Prop :=
      t.gallery = s.gallery ∧ t.dram = s.dram ∧ t.conveyors = s.conveyors ∧ t.claims = s.claims ∧
      (∀ j, (coreAt t j).bench = (coreAt s j).bench) ∧
      (∀ j r, (j ≠ c.val ∨ r ≠ rs) → regAt t j r = regAt s j r) ∧
      ((coreAt s c).seq.run ≠ .waiting → wentOn (coreAt s c).seq (coreAt t c).seq)
    coreOwnsTally s c n = true →
      (runs s c .tallyAdd w = true → ∃ t, exec (.tallyAdd c) s = .next t ∧ wrote (tallyAt s n + v) t ∧ kept t ∧
        regAt t c rs = regAt s c rs) ∧
      (runs s c .tallyAddFetch w = true → ∃ t, exec (.tallyAddFetch c) s = .next t ∧ wrote (tallyAt s n + v) t ∧ kept t ∧
        regAt t c rs = (tallyAt s n).setWidth 64) ∧
      (runs s c .tallySet w = true → ∃ t, exec (.tallySet c) s = .next t ∧ wrote v t ∧ kept t ∧
        regAt t c rs = regAt s c rs) ∧
      (runs s c .tallyRead w = true → ∃ t, exec (.tallyRead c) s = .next t ∧ registerOnly c rs s t ∧
        regAt t c rs = (tallyAt s n).setWidth 64)) ∧
  ((∀ v t : W32, reached v t = decide ((v - t).toNat < 2 ^ 31)) ∧
  ∀ (s : State) (c : CoreId) (w : W64),
    let n := fieldOf w 57 41
    let e : WaitEntry := ⟨n, BitVec.ofNat 32 ((regAt s c (fieldOf w 36 32)).toNat % 2 ^ 32 + fieldOf w 31 0), .seq c, fieldOf w 40 37⟩
    let used := (s.waits.filter fun x => x.tally / 16384 == n / 16384).length
    let waits (t : State) : Prop := (coreAt t c).seq.run = .waiting ∧ (coreAt t c).seq.wait = some ⟨1, n⟩ ∧
      (coreAt t c).seq.pc = (coreAt s c).seq.pc ∧ regsBut c [] s t ∧ t.tallies = s.tallies
    (runs s c .twait w = true → coreOwnsTally s c n = true →
      (reached (tallyAt s n) e.target = true → ∃ t, exec (.twait c) s = .next t ∧ advanceOnly c s t) ∧
      (reached (tallyAt s n) e.target = false → used < 256 →
        ∃ t, exec (.twait c) s = .next t ∧ waits t ∧ t.waits = s.waits ++ [e] ∧ t.backoffs = s.backoffs) ∧
      (reached (tallyAt s n) e.target = false → 256 ≤ used →
        ∃ t, exec (.twait c) s = .next t ∧ waits t ∧ t.waits = s.waits ∧ t.backoffs = s.backoffs ++ [⟨.wait e, 2⟩])) ∧
    (executes s c .twait w = true → coreOwnsTally s c n = false → ∀ k, claimRuns s c k = true →
      ∃ t, exec (.twait c) s = .next t ∧ sequencerFaulted c k .syncRange 0 t ∧
        ((coreAt s c).sync.fault.fault = false → (coreAt t c).sync.fault = ⟨true, 2, 0, 1, n, 0⟩)))

/-- R304, R306, R357: a push appends the handle of the register pair while the conveyor has room, reaches a waiting pop at
once, waits when the conveyor is full and backs off behind another waiting push; a pop takes the oldest handle into the
pair, lets a waiting push in, waits when there is none; a reset discards the handles and sets the depth. -/
def Obligations.ConveyorOperations : Prop :=
  ∀ (s : State) (c : CoreId) (w : W64),
    let n := fieldOf w 55 47
    let rs := fieldOf w 46 42
    let h : Handle := ⟨regAt s c rs, regAt s c (rs + 1)⟩
    let v := conveyorAt s n
    let others (t : State) : Prop := (∀ m, m ≠ n → conveyorAt t m = conveyorAt s m) ∧ t.tallies = s.tallies ∧
      t.gallery = s.gallery ∧ t.dram = s.dram ∧ (∀ j, (coreAt t j).bench = (coreAt s j).bench)
    let waits (t : State) : Prop := (coreAt t c).seq.run = .waiting ∧ (coreAt t c).seq.wait = some ⟨2, n⟩ ∧
      (coreAt t c).seq.pc = (coreAt s c).seq.pc ∧ regsBut c [] s t
    coreOwnsConveyor s c n = true →
    (runs s c .push w = true →
      (v.handles.length < v.depth → v.push = none → v.pop = none →
        ∃ t, exec (.conveyorPush c) s = .next t ∧ others t ∧ regsBut c [] s t ∧ wentOn (coreAt s c).seq (coreAt t c).seq ∧
          conveyorAt t n = { v with handles := v.handles ++ [h] }) ∧
      (∀ (j : CoreId) rd cls, j ≠ c → v.handles = [] → 0 < v.depth → v.push = none → v.pop = some ⟨.seq j, rd, cls⟩ →
        ∃ t, exec (.conveyorPush c) s = .next t ∧ others t ∧ regsBut c [] s t ∧ wentOn (coreAt s c).seq (coreAt t c).seq ∧
          conveyorAt t n = { v with pop := none } ∧ regAt t j rd = h.place ∧ regAt t j (rd + 1) = h.info ∧
          (coreAt t j).seq.run = .running ∧ (coreAt t j).seq.pc = (followed (coreAt s j).seq).pc) ∧
      (v.depth ≤ v.handles.length → v.push = none →
        ∃ t, exec (.conveyorPush c) s = .next t ∧ others t ∧ waits t ∧
          conveyorAt t n = { v with push := some ⟨.seq c, h, fieldOf w 41 38⟩ }) ∧
      (v.depth ≤ v.handles.length → v.push ≠ none →
        ∃ t, exec (.conveyorPush c) s = .next t ∧ others t ∧ waits t ∧ conveyorAt t n = v ∧
          t.backoffs = s.backoffs ++ [⟨.push n ⟨.seq c, h, fieldOf w 41 38⟩, 2⟩])) ∧
    (runs s c .pop w = true →
      (∀ x xs, v.handles = x :: xs → v.pop = none → v.push = none →
        ∃ t, exec (.conveyorPop c) s = .next t ∧ others t ∧ regsBut c [rs, rs + 1] s t ∧
          wentOn (coreAt s c).seq (coreAt t c).seq ∧ regAt t c rs = x.place ∧ regAt t c (rs + 1) = x.info ∧
          conveyorAt t n = { v with handles := xs }) ∧
      (∀ x xs p, v.handles = x :: xs → v.handles.length = v.depth → v.pop = none → v.push = some p →
        ∃ t, exec (.conveyorPop c) s = .next t ∧ conveyorAt t n = { v with handles := xs ++ [p.handle], push := none } ∧
          (∀ j : CoreId, p.who = .seq j → (coreAt s j).seq.run = .waiting → (coreAt t j).seq.run = .running)) ∧
      (v.handles = [] → v.pop = none →
        ∃ t, exec (.conveyorPop c) s = .next t ∧ others t ∧ waits t ∧
          conveyorAt t n = { v with pop := some ⟨.seq c, rs, fieldOf w 41 38⟩ }) ∧
      (v.handles = [] → v.pop ≠ none →
        ∃ t, exec (.conveyorPop c) s = .next t ∧ others t ∧ waits t ∧ conveyorAt t n = v ∧
          t.backoffs = s.backoffs ++ [⟨.pop n ⟨.seq c, rs, fieldOf w 41 38⟩, 2⟩])) ∧
    (runs s c .reset w = true →
      (v.push = none → ∃ t, exec (.conveyorReset c) s = .next t ∧ others t ∧ regsBut c [] s t ∧
        wentOn (coreAt s c).seq (coreAt t c).seq ∧ conveyorAt t n = { v with handles := [], depth := fieldOf w 37 32 }))

/-- R334, R337, R346 to R351, R353: with room in the matrix queue, and for chains and ATTEND in the dressing queue, the matrix
instructions append their item with the fields of *Opcodes and formats* and the register operands as they are at issue; an MMA
takes the attached chains with it (R347), the prologue before the epilogue, and an attached chain of another position for its
start to refuse; with no room the sequencer stalls at the
instruction.
R334, R337, R350, R354, R355: with room in the dressing queue DRAIN, PASS, DOT, CONV, WLD, WST and LANE append their item
with the fields of *Opcodes and formats* and the registers as read at issue; a DRAIN of 0 rows and a PASS of 0 rows are
no-ops; a full queue stalls the sequencer. -/
def Obligations.QueueIssue : Prop :=
  (∀ (s : State) (c : CoreId) (w : W64),
    let k := coreAt s c
    let op (base source : Nat) : MmaOp :=
      { mask := fieldOf w 57 54, m := fieldOf w 53 45, n := fieldOf w 44 38, k := fieldOf w 37 30, base := base
        acc := w.getLsbD 21, swap := w.getLsbD 20, sfmt := fieldOf w 19 16, wfmt := fieldOf w 15 12, sat := w.getLsbD 11
        source := source, prologue := k.seq.prologue, epilogue := k.seq.epilogue
        odd := k.seq.odd.head?.map Prod.snd }
    let r := regAt s c (fieldOf w 10 6)
    let frame (t : State) : Prop := onlyCore c s t ∧ regsBut c [] s t ∧ (coreAt t c).bench = k.bench ∧
      wentOn k.seq (coreAt t c).seq
    let one (i : MatItem) (t : State) : Prop := frame t ∧ (coreAt t c).drs = k.drs ∧
      (coreAt t c).mat = { k.mat with queue := k.mat.queue ++ [⟨k.seq.nextItem, i⟩] }
    let arrays (o : MmaOp) (t : State) : Prop := frame t ∧
      (coreAt t c).mat = { k.mat with queue := k.mat.queue ++ [⟨k.seq.nextItem + 1, .mma o⟩] } ∧
      (coreAt t c).drs = { k.drs with queue := k.drs.queue ++
        (k.seq.prologue.toList.map fun p => ⟨k.seq.nextItem, .prologue p o⟩) ++
        (k.seq.epilogue.toList.map fun e => ⟨k.seq.nextItem + 2, .drain e ⟨o.mask, o.m, o.n, o.base⟩ o.sat false⟩) } ∧
      (coreAt t c).seq.prologue = none ∧ (coreAt t c).seq.epilogue = none ∧ (coreAt t c).seq.odd = []
    let chains := k.seq.prologue.toList.length + k.seq.epilogue.toList.length + k.seq.odd.length
    let stalled (i : Instr) : Prop := ∃ t, exec i s = .next t ∧ onlySeq c s t ∧ (coreAt t c).seq =
      { k.seq with run := .stalled, stalls := tput 0 k.seq.stalls 0 (wrapAdd 64 (tget 0 k.seq.stalls 0) 1) }
    (k.mat.queue.length < 8 →
      (k.drs.queue.length + chains ≤ 16 →
        (runs s c .mma w = true →
          ∃ t, exec (.mma c) s = .next t ∧ arrays (op (fieldOf w 29 22) (fieldOf w 10 0)) t) ∧
        (runs s c .mmaR w = true →
          ∃ t, exec (.mmaR c) s = .next t ∧ arrays (op (fieldOf r 23 16) (fieldOf r 10 0)) t)) ∧
      (runs s c .sload w = true → ∃ t, exec (.sload c) s = .next t ∧
        one (.sload (fieldOf w 57 46) (fieldOf w 45 42) (fieldOf w 41 30) (w.getLsbD 29)) t) ∧
      (runs s c .swap w = true → ∃ t o, exec (.swap c) s = .next t ∧ one (.mma o) t ∧ o.m = 0 ∧ o.mask = 15 ∧
        o.swap = true ∧ o.prologue = none ∧ o.epilogue = none ∧ o.odd = none) ∧
      (runs s c .fill w = true → ∃ t, exec (.fill c) s = .next t ∧
        one (.fill { mode := fieldOf w 57 56, target := fieldOf w 55 53, coff := fieldOf w 52 41, dh := fieldOf w 40 24
                     m := fieldOf w 23 15, reg := regAt s c (fieldOf w 14 10) }) t) ∧
      (runs s c .attend w = true → k.drs.queue.length < 16 → ∃ t, exec (.attend c) s = .next t ∧ frame t ∧
        (coreAt t c).mat = { k.mat with
          queue := k.mat.queue ++ [⟨k.seq.nextItem, .attend ⟨fieldOf w 57 41, fieldOf w 40 37⟩⟩] } ∧
        (coreAt t c).drs = { k.drs with
          queue := k.drs.queue ++ [⟨k.seq.nextItem, .attend ⟨fieldOf w 57 41, fieldOf w 40 37⟩⟩] })) ∧
    (8 ≤ k.mat.queue.length →
      (executes s c .mma w = true → stalled (.mma c)) ∧ (executes s c .mmaR w = true → stalled (.mmaR c)) ∧
      (executes s c .sload w = true → stalled (.sload c)) ∧ (executes s c .swap w = true → stalled (.swap c)) ∧
      (executes s c .fill w = true → stalled (.fill c)) ∧ (executes s c .attend w = true → stalled (.attend c)))) ∧
  (∀ (s : State) (c : CoreId) (w : W64),
    let k := coreAt s c
    let one (i : DrsItem) (t : State) : Prop := onlyCore c s t ∧ regsBut c [] s t ∧ (coreAt t c).bench = k.bench ∧
      (coreAt t c).mat = k.mat ∧ (coreAt t c).drs = { k.drs with queue := k.drs.queue ++ [⟨k.seq.nextItem, i⟩] } ∧
      wentOn k.seq (coreAt t c).seq
    let reg (i : Nat) : W64 := regAt s c i
    let wideAt := (reg (fieldOf w 51 47) + BitVec.ofNat 64 (512 * fieldOf w 46 33)).toNat
    let stalled (i : Instr) : Prop := ∃ t, exec i s = .next t ∧ onlySeq c s t ∧ (coreAt t c).seq =
      { k.seq with run := .stalled, stalls := tput 0 k.seq.stalls 1 (wrapAdd 64 (tget 0 k.seq.stalls 1) 1) }
    (k.drs.queue.length < 16 →
      (runs s c .drain w = true → fieldOf w 45 37 ≠ 0 → ∃ t, exec (.drain c) s = .next t ∧
        one (.drain ⟨fieldOf w 36 21, fieldOf w 19 16⟩ ⟨fieldOf w 57 54, fieldOf w 45 37, 64, fieldOf w 53 46⟩
          (w.getLsbD 20) true) t) ∧
      (runs s c .pass w = true → fieldOf w 41 26 ≠ 0 → ∃ t, exec (.pass c) s = .next t ∧
        one (.pass ⟨fieldOf w 57 42, fieldOf w 19 16⟩ (fieldOf w 41 26) (fieldOf (reg (fieldOf w 25 21)) 22 0)
          (fieldOf (reg (fieldOf w 25 21)) 63 32) (w.getLsbD 20)) t) ∧
      (runs s c .dot w = true → ∃ t, exec (.dot c) s = .next t ∧
        one (.dot (fieldOf w 57 50) (fieldOf w 49 46) (fieldOf w 45 30) (fieldOf w 29 26) (fieldOf w 25 22)
          (fieldOf w 21 16) (reg (fieldOf w 15 11)) (reg (fieldOf w 15 11 + 1)) (reg (fieldOf w 15 11 + 2))) t) ∧
      (runs s c .conv w = true → ∃ t, exec (.conv c) s = .next t ∧
        one (.conv (fieldOf w 57 54) (fieldOf w 53 50) (w.getLsbD 49) (fieldOf w 48 24) (reg (fieldOf w 23 19))
          (reg (fieldOf w 23 19 + 1))) t) ∧
      (runs s c .wld w = true → wideAt % 512 = 0 → wideAt < instrBase → ∃ t, exec (.wld c) s = .next t ∧
        one (.wld (fieldOf w 57 52) wideAt) t) ∧
      (runs s c .wst w = true → wideAt % 512 = 0 → wideAt < instrBase → ∃ t, exec (.wst c) s = .next t ∧
        one (.wst (fieldOf w 57 52) wideAt) t) ∧
      (runs s c .lane w = true → ∃ t, exec (.lane c) s = .next t ∧
        one (.lane (fieldOf w 57 52) (fieldOf w 51 46) (fieldOf w 45 40) (fieldOf w 39 34) (fieldOf w 33 28)
          (fieldOf w 27 25) (w.getLsbD 24) (w.getLsbD 23) ((reg (fieldOf w 22 18)).setWidth 32)) t)) ∧
    (runs s c .drain w = true → fieldOf w 45 37 = 0 → ∃ t, exec (.drain c) s = .next t ∧ advanceOnly c s t) ∧
    (runs s c .pass w = true → fieldOf w 41 26 = 0 → ∃ t, exec (.pass c) s = .next t ∧ advanceOnly c s t) ∧
    (16 ≤ k.drs.queue.length →
      (executes s c .dot w = true → stalled (.dot c)) ∧ (executes s c .conv w = true → stalled (.conv c)) ∧
      (executes s c .lane w = true → stalled (.lane c))))

/-- R347: a CATT attaches the chain of its handle and class to the next MMA, as the prologue when the chain's position is 1, as
the epilogue when it is 0, in place of an earlier one of that position; one of another position, or outside the bench, is kept
by its position for the MMA's start to refuse. -/
def Obligations.ChainAttach : Prop :=
  ∀ (s : State) (c : CoreId) (w : W64),
    let q := (coreAt s c).seq
    let h := fieldOf w 57 42
    let r : ChainRef := ⟨h, fieldOf w 41 38⟩
    let position := fieldOf (benchWord s c (128 * h) 0) 63 62
    let p := if 128 * h + 128 ≤ benchSize then position else 4
    runs s c .catt w = true →
      ∃ t, exec (.catt c) s = .next t ∧ onlySeq c s t ∧ regsBut c [] s t ∧ wentOn q (coreAt t c).seq ∧
        (coreAt t c).seq.prologue = (if p = 1 then some r else q.prologue) ∧
        (coreAt t c).seq.epilogue = (if p = 0 then some r else q.epilogue) ∧
        (coreAt t c).seq.odd = if 2 ≤ p then (q.odd.filter fun x => x.1 ≠ p) ++ [(p, r)] else q.odd

/-- R356, R376: MOVE appends its list to the queue of 8 of M0 or M1, and MOVEH to that of a hub mover of the claim when
nothing else stands in the net queue; a count of 0 is a no-op; a hub mover that the claim does not own raises SEQ_RANGE,
reason 3. -/
def Obligations.MoverLists : Prop :=
  ∀ (s : State) (c : CoreId) (w : W64),
    let k := coreAt s c
    let m := if w.getLsbD 57 then k.m1 else k.m0
    let h := fieldOf w 57 54
    let owns : Prop := ∃ q, coreOwner s c = some q ∧ (claimAt s q).hubMovers.testBit h = true
    (runs s c .move w = true → fieldOf w 39 24 = 0 → ∃ t, exec (.move c) s = .next t ∧ advanceOnly c s t) ∧
    (runs s c .move w = true → fieldOf w 39 24 ≠ 0 → m.lists.length < 8 →
      ∃ t, exec (.move c) s = .next t ∧ onlyCore c s t ∧ regsBut c [] s t ∧ wentOn k.seq (coreAt t c).seq ∧
        (coreAt t c).bench = k.bench ∧
        let m' := { m with lists := m.lists ++ [{ core := c, handle := fieldOf w 56 40, count := fieldOf w 39 24 }] }
        (coreAt t c).m0 = (if w.getLsbD 57 then k.m0 else m') ∧ (coreAt t c).m1 = (if w.getLsbD 57 then m' else k.m1)) ∧
    (runs s c .moveh w = true → owns → fieldOf w 36 21 ≠ 0 → k.net.queue = [] → (hubMoverAt s h).lists.length < 16 →
      ∃ t, exec (.moveh c) s = .next t ∧ regsBut c [] s t ∧ wentOn k.seq (coreAt t c).seq ∧
        (coreAt t c).net = k.net ∧ (coreAt t c).bench = k.bench ∧
        hubMoverAt t h = { hubMoverAt s h with lists := (hubMoverAt s h).lists ++
          [{ core := c, handle := fieldOf w 53 37, count := fieldOf w 36 21 }] } ∧
        (∀ j, j ≠ h → hubMoverAt t j = hubMoverAt s j)) ∧
    (runs s c .moveh w = true → owns → fieldOf w 36 21 = 0 → ∃ t, exec (.moveh c) s = .next t ∧ advanceOnly c s t) ∧
    (executes s c .moveh w = true → ¬ owns → ∀ q, claimRuns s c q = true →
      ∃ t, exec (.moveh c) s = .next t ∧ sequencerFaulted c q .seqRange 3 t)

/-- R339, R364, R372: a word whose opcode, funct or op is reserved raises SEQ_ILLEGAL (reason 1 for an opcode that no row
defines, else 2) at whichever instruction command the core meets it; a word of a row with a reserved code, a nonzero RSV bit,
a value out of range or a register pair that does not exist raises it with reason 2, 3, 4 or 5; a word of another row is left
to that row's command. The fault takes pc and word, changes no register and no bench byte. -/
def Obligations.IllegalWords : Prop :=
  (∀ o < 64, opcodeDefined o = (upFrom 0 22 ++ [24, 25] ++ upFrom 32 5 ++ upFrom 40 5 ++ [48, 49]).contains o) ∧
  ∀ (s : State) (c : CoreId) (w : W64) (k : Nat),
    let pc := (coreAt s c).seq.pc
    let faulted (n : Nat) (i : Instr) : Prop :=
      ∃ t, exec i s = .next t ∧ sequencerFaulted c k .seqIllegal n t ∧ regsBut c [] s t ∧
        (∀ a, benchByte t c a = benchByte s c a) ∧
        ((coreAt s c).seq.fault.fault = false → (coreAt t c).seq.fault = ⟨true, 1, n, pc, w⟩)
    seqCan s c = true → anyPoison 8 (coreAt s c).bench.poison (instrBase + 8 * pc) 8 = false → instrAt s c pc = w →
    claimRuns s c k = true →
      (rowOf w = none → ∀ r, faulted (if opcodeDefined (opcodeOf w) then 2 else 1) (rowCommand c r)) ∧
      (∀ r n, rowOf w = some r → illegalReason r w = some n → faulted n (rowCommand c r)) ∧
      (∀ r q, rowOf w = some r → q ≠ r → exec (rowCommand c q) s = .next s)

/-- R314, R334, R337, R359: with the net queue empty and no earlier access of the net port on its way, RTALLY adds s[rs][31:0] to a
tally, and RPUSH pushes the handle (s[rs], s[rs+1]) at the target, when the window of the own rank accepts it; a POST
inside one slot copies its bytes to the window's bench or memory; to another module each goes out on a link, once, with
what it asks for; a WFENCE is complete; a full net queue of 8 stalls the sequencer. -/
def Obligations.NetInstructions : Prop :=
  ∀ (s : State) (c : CoreId) (w : W64) (k : Nat),
    let q := coreAt s c
    let e : Engine := .netPort c
    let win := fieldOf w 57 50
    let rank := fieldOf w 49 44
    let done (t : State) : Prop := regsBut c [] s t ∧ (coreAt t c).net = q.net ∧
      ((coreAt s c).seq.run ≠ .waiting → wentOn q.seq (coreAt t c).seq) ∧ t.answer = s.answer
    let sent (t : State) (off : Nat) (op : RemoteOp) : Prop :=
      t.fabric.outgoing = ⟨e, k, rank, win, off, op⟩ :: s.fabric.outgoing ∧ t.tallies = s.tallies ∧
        t.conveyors = s.conveyors ∧ t.gallery = s.gallery ∧ t.dram = s.dram ∧
        (∀ j a, benchByte t j a = benchByte s j a)
    let delta : W32 := (regAt s c (fieldOf w 25 21)).setWidth 32
    let pair (r : Nat) : Handle := ⟨regAt s c r, regAt s c (r + 1)⟩
    let src := fieldOf (regAt s c (fieldOf w 43 39)) 22 0
    let len := 64 * fieldOf w 38 23
    let off := fieldOf (regAt s c (fieldOf w 43 39 + 1)) 47 0
    let mark : TagMark := if !w.getLsbD 22 then .plain else if w.getLsbD 21 then .pass else .hold
    let op : RemoteOp := .write (benchBytes s c src len) mark (some (crc32c (benchBytes s c src len)))
    let stalled (i : Instr) : Prop := ∃ t, exec i s = .next t ∧ onlySeq c s t ∧ (coreAt t c).seq =
      { q.seq with run := .stalled, stalls := tput 0 q.seq.stalls 4 (wrapAdd 64 (tget 0 q.seq.stalls 4) 1) }
    (coreOwner s c = some k → q.net.queue = [] → q.net.due = [] → engineOut s e = false →
      (runs s c .rtally w = true → ∀ x : RemoteOp, x = .tallyAdd (fieldOf w 43 27) delta →
        (∀ o, reach s e k rank win 0 x = .own o → ∃ t, exec (.rtally c) s = .next t ∧ done t ∧
          tallyAt t (fieldOf w 43 27) = tallyAt s (fieldOf w 43 27) + delta ∧
          ∀ m, m ≠ fieldOf w 43 27 → tallyAt t m = tallyAt s m) ∧
        (reach s e k rank win 0 x = .away → ∃ t, exec (.rtally c) s = .next t ∧ done t ∧ sent t 0 x)) ∧
      (runs s c .rpush w = true → ∀ x : RemoteOp,
        x = .convPush (fieldOf w 43 35) (pair (fieldOf w 34 30)).place (pair (fieldOf w 34 30)).info →
        (∀ o v, reach s e k rank win 0 x = .own o → v = conveyorAt s (fieldOf w 43 35) → v.handles.length < v.depth →
          v.push = none → v.pop = none → ∃ t, exec (.rpush c) s = .next t ∧ done t ∧
            conveyorAt t (fieldOf w 43 35) = { v with handles := v.handles ++ [pair (fieldOf w 34 30)] }) ∧
        (reach s e k rank win 0 x = .away → ∃ t, exec (.rpush c) s = .next t ∧ done t ∧ sent t 0 x)) ∧
      (runs s c .post w = true → 0 < len → off % 1024 + len ≤ 1024 → benchGate s c src len true = .go →
        (∀ o a, reach s e k rank win off op = .own o → targetGate s o (winPlace (windowAt s win) off) len false = .go →
          (winPlace (windowAt s win) off) = ⟨1, 0, a⟩ → ∃ t, exec (.post c) s = .next t ∧ done t ∧
            ∀ b, galByte t b = if a ≤ b ∧ b < a + len then benchByte s c (src + (b - a)) else galByte s b) ∧
        (∀ o d a, reach s e k rank win off op = .own o → targetGate s o (winPlace (windowAt s win) off) len false = .go →
          (winPlace (windowAt s win) off) = ⟨0, d, a⟩ → mark = .plain → ∃ t, exec (.post c) s = .next t ∧ done t ∧
            ∀ b, benchByte t d b = if a ≤ b ∧ b < a + len then benchByte s c (src + (b - a)) else benchByte s d b) ∧
        (reach s e k rank win off op = .away → ∃ t, exec (.post c) s = .next t ∧ done t ∧ sent t off op)) ∧
      (runs s c .wfence w = true → ∃ t, exec (.wfence c) s = .next t ∧ advanceOnly c s t)) ∧
    (8 ≤ q.net.queue.length →
      (executes s c .post w = true → stalled (.post c)) ∧ (executes s c .rtally w = true → stalled (.rtally c)) ∧
      (executes s c .rpush w = true → stalled (.rpush c)) ∧ (executes s c .wfence w = true → stalled (.wfence c)) ∧
      (executes s c .cstep w = true → stalled (.cstep c)))

/-- R94, R95, R98, R99, R118, R119, R100: the head of the matrix queue. A stationary load starts once the shadow is EMPTY and
makes it FILLING with the tile's bytes of the weight chute, and waits while it is not; its end makes the shadow READY. An MMA
that passes its checks starts to stream; with M = 0 it retires, and a swap takes effect; with K = 0 it sets the columns below N
of its rows to zero, or leaves them when it accumulates.
R91, R99, R113, R347: an MMA that breaks a rule of its formats, its ranges, the fence or the tile, or has a chain of neither
position attached, aborts the task with that fault, and nothing streams. R123, R124: an exact check weight is the exact sum
of its row, in at most 24 bits. -/
def Obligations.TilesAndMmaStarts : Prop :=
  (∀ (s : State) (c : CoreId) (no : Nat) (rest : List MatEntry),
    let m := (coreAt s c).mat
    let onlyMat (t : State) (x : MatState) : Prop := t = setCore s c { coreAt s c with mat := x }
    unitLive s c = true → (coreAt s c).att.call = none →
    (∀ woff wf soff packed, m.queue = ⟨no, .sload woff wf soff packed⟩ :: rest → sloadFault woff wf soff packed = none →
      (m.shadow = .empty → ∃ t tile, exec (.stationaryLoadStart c) s = .next t ∧
        onlyMat t { m with queue := rest, fill := none, shadow := .filling, shadowTile := tile
                           wideTiles := wrapAdd 32 m.wideTiles (b2n tile.wide) } ∧
        tile.fmt = wf ∧ tile.packed = packed ∧
        tile.rows = tgetN 0 m.weight (64 * woff) (64 * rowBytes wf packed) ∧
        tile.scales = tgetN 0 m.weight (64 * soff) (64 * colScales wf packed)) ∧
      (m.shadow ≠ .empty → exec (.stationaryLoadStart c) s = .next s)) ∧
    (m.shadow = .filling → ∃ t, exec (.stationaryLoadDone c) s = .next t ∧ onlyMat t { m with shadow := .ready }) ∧
    (∀ op, m.queue = ⟨no, .mma op⟩ :: rest → m.run = none → mmaFault m op = none →
      firstSome (badChain s c) ([op.odd, op.prologue, op.epilogue].filterMap id) = none →
      (op.m ≠ 0 → op.k ≠ 0 → ∃ t, exec (.mmaStart c) s = .next t ∧
        onlyMat t { m with queue := rest, fill := none, run := some ⟨no, op, 0⟩ }) ∧
      (op.m = 0 → op.k ≠ 0 → op.swap = false → ∃ t, exec (.mmaStart c) s = .next t ∧
        onlyMat t { m with queue := rest, fill := none }) ∧
      (op.m = 0 → op.k ≠ 0 → op.swap = true → m.shadow = .ready → ∃ t, exec (.mmaStart c) s = .next t ∧
        onlyMat t { m with queue := rest, fill := none, active := m.shadowTile, activeValid := true, shadow := .empty, shadowTile := {} }) ∧
      (op.k = 0 → op.acc = true → op.swap = false → ∃ t, exec (.mmaStart c) s = .next t ∧
        onlyMat t { m with queue := rest, fill := none }) ∧
      (op.k = 0 → op.acc = false → op.swap = false → rowsFree s c no op = true →
        ∃ t, exec (.mmaStart c) s = .next t ∧ onlyCore c s t ∧ (coreAt t c).mat.queue = rest ∧
          ∀ a r n, a < 4 → r < 256 → n < 64 → tget 0 (coreAt t c).mat.acc (accKey a r n) =
            if op.mask.testBit a ∧ op.base ≤ r ∧ r < op.base + op.m ∧ n < op.n then 0 else tget 0 m.acc (accKey a r n)))) ∧
  (∀ (s : State) (c : CoreId) (no k : Nat) (op : MmaOp) (rest : List MatEntry) (f : FaultName),
    let m := (coreAt s c).mat
    unitLive s c = true → (coreAt s c).att.call = none → m.queue = ⟨no, .mma op⟩ :: rest → m.run = none →
    claimRuns s c k = true →
    (mmaFault m op = some f → (f = .mmaFormat ∨ f = .mmaRange ∨ f = .arrFenced ∨ f = .arrNoTile) ∧
      ∃ t, exec (.mmaStart c) s = .next t ∧ (coreAt t c).mat = { m with queue := rest, fill := none } ∧
        ∃ x y, (claimAt t k).task = some x ∧ x.fault = some y ∧ y.info.name = f ∧ y.engine = 1 ∧ y.core = c) ∧
    (∀ r n, mmaFault m op = none → firstSome (badChain s c) ([op.odd, op.prologue, op.epilogue].filterMap id) = some (r, n) →
      ∃ t, exec (.mmaStart c) s = .next t ∧ (coreAt t c).mat = { m with queue := rest, fill := none } ∧
        taskFaulted k .chainDesc n t)) ∧
  ∀ row : List Sys2Proof.Machine.Num, (checkOf row).2 = true →
    let w := (checkOf row).1
    w.mag < 2 ^ 24 ∧
      (addDyadic ⟨if w.neg then -w.mag else w.mag, w.ex⟩ ⟨-(sumExact row).m, (sumExact row).e⟩).m = 0

/-- R96, R98, R100, R104, R106, R175: the next slice enters every enabled array with the tile that is then active, unless the
prologue, a swap that waits, or an earlier drain of its row holds it, when a bubble is counted; the first slice of a
swapping MMA makes the shadow tile active and the shadow EMPTY, and idle arrays wake, but under a mask of 0 (log entry 114). ARRAY_IDLE disables a row quarter (R108). -/
def Obligations.SlicesEnter : Prop :=
  ∀ (s : State) (c : CoreId) (q : RunMma),
    let m := (coreAt s c).mat
    let swaps := q.row = 0 ∧ q.op.swap = true
    let held := prologuePending s c q.no q.row = true ∨ (swaps ∧ m.shadow ≠ .ready) ∨
      drainHold s c q.no (q.op.base + q.row) = true
    (unitLive s c = true → m.run = some q →
      (held → ∃ t, exec (.arraySliceEnter c) s = .next t ∧
        t = setCore s c { coreAt s c with mat := { m with bubbleBeats := wrapAdd 64 m.bubbleBeats 1 } }) ∧
      (¬ held → ∃ t x, exec (.arraySliceEnter c) s = .next t ∧ onlyCore c s t ∧ (coreAt t c).mat.flight = m.flight ++ [x] ∧
        x.no = q.no ∧ x.op = q.op ∧ x.row = q.row ∧ x.slices.map (fun y => y.array) = arraysOf q.op.mask ∧
        (∀ y ∈ x.slices, y.data = tgetN 0 m.act (actSize * y.array + 64 * q.op.source + 64 * slicePositions q.op.sfmt * q.row)
          (if q.op.sfmt = 9 ∨ q.op.sfmt = 10 then 48 else 64 * slicePositions q.op.sfmt)) ∧
        (swaps → x.tile = m.shadowTile ∧ (coreAt t c).mat.active = m.shadowTile ∧ (coreAt t c).mat.shadow = .empty) ∧
        (¬ swaps → x.tile = m.active ∧ (coreAt t c).mat.active = m.active ∧ (coreAt t c).mat.shadow = m.shadow) ∧
        (coreAt t c).mat.run = (if q.row + 1 < q.op.m then some { q with row := q.row + 1 } else none) ∧
        (coreAt t c).mat.acc = m.acc ∧ (coreAt t c).mat.act = m.act ∧ (coreAt t c).mat.queue = m.queue ∧
        (coreAt t c).bench = (coreAt s c).bench ∧ (coreAt t c).mat.idle = (m.idle && decide (q.op.mask = 0)))) ∧
    (m.flight = [] → beatsRun s c = true → ∃ t, exec (.arrayIdle c) s = .next t ∧
      t = setCore s c { coreAt s c with mat := { m with idle := true, quarters := m.quarters - 1 } })

/-- R102, R125, R126, R127, R178: the oldest row in flight lands in accumulator row base + row of each array of its mask, in
columns 0 to N − 1; every other column, row and array keeps its value; the row's INT32 mark follows the format. With no
failed comparison or residue check nothing else changes; else the task aborts with CHECK_MISMATCH for the first failure and
every array that fails is fenced. -/
def Obligations.RowsLand : Prop :=
  ∀ (s : State) (c : CoreId) (f : FlightRow) (rest : List FlightRow) (errs : List ArrayFault),
    let m := (coreAt s c).mat
    let fails := rowFails f errs (rowAccs m f)
    stateWf s = true → unitLive s c = true → m.flight = f :: rest → tileMatches f.op f.tile = true →
    ∃ t, exec (.arrayRowComplete c errs) s = .next t ∧ (coreAt t c).mat.flight = rest ∧
      (∀ sl ∈ f.slices, ∀ n < f.op.n, tget 0 (coreAt t c).mat.acc (accKey sl.array (f.op.base + f.row) n) =
        (columnWith f.op sl f.tile (errs.filter fun x => x.array.val = sl.array)
          (tget 0 m.acc (accKey sl.array (f.op.base + f.row) n)) n).acc) ∧
      (∀ a r n, a < 4 → r < 256 → n < 64 → (f.op.mask.testBit a = false ∨ r ≠ f.op.base + f.row ∨ f.op.n ≤ n) →
        tget 0 (coreAt t c).mat.acc (accKey a r n) = tget 0 m.acc (accKey a r n)) ∧
      (∀ a, a < 4 → f.op.mask.testBit a = true →
        tget false (coreAt t c).mat.intRow (256 * a + (f.op.base + f.row)) = decide (f.op.sfmt = 5)) ∧
      (fails = [] → onlyCore c s t ∧ (coreAt t c).bench = (coreAt s c).bench ∧ (coreAt t c).seq = (coreAt s c).seq ∧
        (coreAt t c).mat.fenced = m.fenced) ∧
      (∀ x xs k, fails = x :: xs → claimRuns s c k = true → taskFaulted k .checkMismatch x.reason t ∧
        ∀ y ∈ fails, y.array < 4 → (coreAt t c).mat.fenced.testBit y.array = true)

/-- R150: for an INT8 pair the sum of the K products of the slice's and the tile's elements is exact and lies between −64 × 16,384
and 64 × 16,384; the accumulator takes its previous value, or 0 in overwrite mode, plus that sum modulo 2^32; and where the
true sum lies outside −2^31 to 2^31 − 1, the row that lands sets the int_ovf flag of its array, which no row clears. -/
def Obligations.IntegerRows : Prop :=
  (∀ (op : MmaOp) (sl : Slice) (t : Tile) (old : W32) (n : Nat),
    let sum : Int := ((List.range (min op.k 64)).map fun k => (sl.data.getD k 0).toInt * (t.rows.getD (64 * k + n) 0).toInt).sum
    let total : Int := (if op.acc then old.toInt else 0) + sum
    op.sfmt = 5 → op.wfmt = 5 → t.packed = false → n < 64 →
      -(64 * 16384) ≤ sum ∧ sum ≤ 64 * 16384 ∧ (columnResult op sl t old n).acc = BitVec.ofInt 32 total ∧
      ((columnResult op sl t old n).wrapped = true ↔ total < -(2 ^ 31) ∨ 2 ^ 31 - 1 < total)) ∧
  ∀ (f : FlightRow) (draws : Nat) (m : MatState) (sl : Slice), f.op.sfmt = 5 → tileMatches f.op f.tile = true → f.op.n ≤ 64 →
    sl.array < 4 → f.op.base + f.row < 256 →
    ∀ a, inSet (writeRow f [] draws m sl).arith.intOvf a = true ↔ inSet m.arith.intOvf a = true ∨ (a = sl.array ∧
      ∃ n < f.op.n, (columnResult f.op sl f.tile (tget 0 m.acc (accKey sl.array (f.op.base + f.row) n)) n).wrapped = true)

/-- R351, R352, R251, R252: a FILL at the head of the matrix queue whose descriptor can be read, whose plan is sound, whose reads
are in clean and powered banks, with no tag to wait for, no chute byte that an earlier MMA still reads and no broken
seal, writes each area of its plan into its chute and nothing else; P-array counts the lines read. A descriptor without a
plan raises FEED_DESC and writes nothing. -/
def Obligations.FillsChutes : Prop :=
  ∀ (s : State) (c : CoreId) (no : Nat) (op : FillOp) (rest : List MatEntry),
    let k := coreAt s c
    let words := benchWords s c (64 * op.dh) 8
    let plan := if op.mode = 2 then convPlan s c op words else walkPlan s c op words
    unitLive s c = true → k.att.call = none → k.mat.queue = ⟨no, .fill op⟩ :: rest → k.mat.fill = none →
    benchGate s c (64 * op.dh) 64 true = .go →
    (∀ p, plan = some p → fillWaits k.mat p = false → gates (fun o n => benchGate s c o n true) (p.reads ++ p.scaleReads) = .go →
      (p.mark = 0 ∨ slotsBlock s c (.matrix c) false (slotsOf p.reads) = none) → accessOut s (.matrix c) = false → sealBroken s c (p.reads ++ p.scaleReads) = false →
      ∃ t, exec (.fillStart c) s = .next t ∧ onlyCore c s t ∧ (coreAt t c).mat.queue = rest ∧ (coreAt t c).mat.fill = none ∧
        (coreAt t c).mat.acc = k.mat.acc ∧ (coreAt t c).seq = k.seq ∧ (coreAt t c).bench.bytes = k.bench.bytes ∧
        (∀ x, tagFull t c x = if p.mark = 2 ∧ x ∈ slotsOf p.reads then false else tagFull s c x) ∧
        tget 0 (coreAt t c).bench.portBeats 0 =
          wrapAdd 64 (tget 0 k.bench.portBeats 0) (lineCount (p.reads ++ p.scaleReads)) ∧
        (∀ a o bs, p.areas = [(some a, o, bs)] → (coreAt t c).mat.weight = k.mat.weight ∧
          ∀ x, tget 0 (coreAt t c).mat.act x =
            if actSize * a + o ≤ x ∧ x < actSize * a + o + bs.length then bs.getD (x - (actSize * a + o)) 0
            else tget 0 k.mat.act x) ∧
        (∀ o bs, p.areas = [(none, o, bs)] → (coreAt t c).mat.act = k.mat.act ∧
          ∀ x, tget 0 (coreAt t c).mat.weight x =
            if o ≤ x ∧ x < o + bs.length then bs.getD (x - o) 0 else tget 0 k.mat.weight x)) ∧
    (plan = none → ∀ q, claimRuns s c q = true → ∃ t x y, exec (.fillStart c) s = .next t ∧
      (coreAt t c).mat = { k.mat with queue := rest, fill := none } ∧ (claimAt t q).task = some x ∧ x.fault = some y ∧
      y.info.name = .feedDesc ∧ y.engine = 1 ∧ y.core = c)

/-- R168, R354, R355: the item at the head of the dressing queue runs as a whole once its reads and writes may go. WLD loads 128
little-endian words into a wide register, WST stores them; LANE gives each lane its function's value unless the predicate
gates it; CONV converts its elements; DOT puts its row-by-column products into the lanes of wd. The queue loses the item,
and no other wide register, no accumulator and no other byte changes. -/
def Obligations.DressingItems : Prop :=
  ∀ (s : State) (c : CoreId) (no k : Nat) (rest : List DrsEntry),
    let q := (coreAt s c).drs
    let ran (t : State) : Prop := exec (.dressingItemStart c) s = .next t ∧ onlyCore c s t ∧
      (coreAt t c).drs.queue = rest ∧ (coreAt t c).mat.acc = (coreAt s c).mat.acc ∧ (coreAt t c).seq.regs = (coreAt s c).seq.regs
    let sameBytes (t : State) : Prop := (coreAt t c).bench.bytes = (coreAt s c).bench.bytes
    let sameWide (t : State) : Prop := (coreAt t c).drs.wide = q.wide
    unitLive s c = true → coreOwner s c = some k → (coreAt s c).att.call = none → q.hands = [] → q.prog = none →
    (∀ wd o, q.queue = ⟨no, .wld wd o⟩ :: rest → benchGate s c o 512 true = .go → ∃ t, ran t ∧ sameBytes t ∧
      ∀ x, tget 0 (coreAt t c).drs.wide x = if 128 * wd ≤ x ∧ x < 128 * wd + 128
        then BitVec.ofNat 32 (leNat (benchBytes s c (o + 4 * (x - 128 * wd)) 4)) else tget 0 q.wide x) ∧
    (∀ wd o, q.queue = ⟨no, .wst wd o⟩ :: rest → benchGate s c o 512 false = .go → ∃ t, ran t ∧ sameWide t ∧
      (∀ i < 128, benchBytes t c (o + 4 * i) 4 = leBytes 4 (tget 0 q.wide (128 * wd + i)).toNat) ∧
      ∀ a, a < o ∨ o + 512 ≤ a → benchByte t c a = benchByte s c a) ∧
    (∀ f wd wa wb wc p pen bsc imm, q.queue = ⟨no, .lane f wd wa wb wc p pen bsc imm⟩ :: rest →
      let reg (r i : Nat) : W32 := tget 0 q.wide (128 * r + i)
      let b (i : Nat) : W32 := if bsc then imm else reg wb i
      let on (i : Nat) : Bool := !pen || (predAt s c p).getLsbD i
      (f ≠ 11 → f ≠ 12 → ∃ t, ran t ∧ sameBytes t ∧ (∀ i, predAt t c i = predAt s c i) ∧
        (∀ x, x < 128 * wd ∨ 128 * wd + 128 ≤ x → tget 0 (coreAt t c).drs.wide x = tget 0 q.wide x) ∧
        ∀ i < 128, tget 0 (coreAt t c).drs.wide (128 * wd + i) =
          if on i then laneResult f (reg wa i) (b i) (reg wc i) ((predAt s c p).getLsbD i) else reg wd i) ∧
      (f = 11 ∨ f = 12 → ∃ t, ran t ∧ sameBytes t ∧ sameWide t ∧ (∀ i, i ≠ wd % 8 → predAt t c i = predAt s c i) ∧
        ∀ i < 128, (predAt t c (wd % 8)).getLsbD i = if on i then (if f = 11 then lt32 (reg wa i) (b i)
          else eq32 (reg wa i) (b i)) else (predAt s c (wd % 8)).getLsbD i)) ∧
    (∀ sf df sat n r0 r1, q.queue = ⟨no, .conv sf df sat n r0 r1⟩ :: rest → isBlock sf = false → isBlock df = false →
      fmtBits df * n % 8 = 0 →
      let src := fieldOf r0 22 0
      let dst := fieldOf r0 54 32
      let codes := (convertRow df sat (readNums sf (benchBytes s c src (fmtBytes sf n)) [] 0 n)).1
      benchGate s c src (fmtBytes sf n) true = .go → benchGate s c dst (fmtBytes df n) false = .go →
      ∃ t, ran t ∧ sameWide t ∧ benchBytes t c dst (packElems df codes).length = packElems df codes ∧
        ∀ a, a < dst ∨ dst + (packElems df codes).length ≤ a → benchByte t c a = benchByte s c a) ∧
    (∀ rows cols kk af wf wd r0 r1 r2, q.queue = ⟨no, .dot rows cols kk af wf wd r0 r1 r2⟩ :: rest →
      pairAllowed af wf = true → isBlock af = false → isBlock wf = false → rows * cols ≤ 128 →
      let aAt (r : Nat) : Nat := fieldOf r0 22 0 + r * fieldOf r1 31 0
      let wAt (x : Nat) : Nat := fieldOf r0 54 32 + x * fieldOf r1 63 32
      (∀ r < rows, benchGate s c (aAt r) (fmtBytes af kk) true = .go) →
      (∀ x < cols, benchGate s c (wAt x) (fmtBytes wf kk) true = .go) →
      ∃ t, ran t ∧ sameBytes t ∧
        (∀ r < rows, ∀ x < cols, tget 0 (coreAt t c).drs.wide (128 * wd + r * cols + x) =
          dotValue af wf kk (rawNums af kk (benchBytes s c (aAt r) (fmtBytes af kk)))
            (rawNums wf kk (benchBytes s c (wAt x) (fmtBytes wf kk))) (fun _ => .fin false 1 0) (fun _ => .fin false 1 0)) ∧
        (∀ x, x < 128 * wd ∨ 128 * wd + rows * cols ≤ x → tget 0 (coreAt t c).drs.wide x = tget 0 q.wide x))

/-- R105, R119, R174, R177, R184, R350: a drain whose rows run past accumulator row 255 raises MMA_RANGE and reads nothing; one of
no rows has no effect; one that is sound and whose rows earlier MMAs have completed leaves the queue and writes no byte outside
its output rows and scales. With no stage and FP32 output, row i's column n goes to place + i × row_stride + 4n. -/
def Obligations.Drains : Prop :=
  ∀ (s : State) (c : CoreId) (no k : Nat) (ref : ChainRef) (r : DrainRows) (sat : Bool) (isDrain : Bool) (rest : List DrsEntry),
    let q := (coreAt s c).drs
    let o := 128 * ref.handle
    let d := chainOf (benchWords s c o 16)
    let x : TileCtx := ⟨c, d, 4 * r.m, nextTile s c ref.handle d, r.n, r.m⟩
    let rows := rowIndices r.mask r.m
    unitLive s c = true → coreOwner s c = some k → (coreAt s c).att.call = none → q.hands = [] → q.prog = none →
    accessOut s (.dressing c) = false → q.queue = ⟨no, .drain ref r sat isDrain⟩ :: rest →
    (isDrain = true → 256 < r.base + r.m → claimRuns s c k = true →
      ∃ t y z, exec (.dressingItemStart c) s = .next t ∧ (coreAt t c).bench = (coreAt s c).bench ∧
        (claimAt t k).task = some y ∧ y.fault = some z ∧ z.info.name = .mmaRange ∧ z.engine = 2 ∧ z.core = c) ∧
    (r.m = 0 → r.base ≤ 256 → ∃ t, exec (.dressingItemStart c) s = .next t ∧ onlyCore c s t ∧
      (coreAt t c).drs.queue = rest ∧ (coreAt t c).bench = (coreAt s c).bench ∧ (coreAt t c).mat = (coreAt s c).mat) ∧
    (r.m ≠ 0 → r.base + r.m ≤ 256 → o + 128 ≤ benchSize → benchGate s c o 128 true = .go →
      chainFault c d 0 0 (4 * r.m) r.m = none → d.stages = [] → rowsComplete s c no r.mask r.base r.m = true →
      (∀ i ∈ rows, gates (fun o n => benchGate s c o n false) (elemOut x i ++ scaleOut [] x i) = .go) →
      (d.outTagged = true → slotsBlock s c (.dressing c) true (slotsOf (rows.flatMap (elemOut x))) = none) →
      ∃ t, exec (.dressingItemStart c) s = .next t ∧ onlyCore c s t ∧ (coreAt t c).drs.queue = rest ∧
        (coreAt t c).mat.acc = (coreAt s c).mat.acc ∧ (coreAt t c).drs.wide = q.wide ∧
        (∀ a, (∀ i ∈ rows, ∀ e ∈ elemOut x i ++ scaleOut [] x i, a < e.1 ∨ e.1 + e.2 ≤ a) →
          benchByte t c a = benchByte s c a) ∧
        (d.outFmt = 0 → d.outNone = false → 4 * r.n ≤ d.rowStride → r.n ≤ 64 → ∀ i ∈ rows, ∀ n < r.n,
          benchBytes t c (outOffset x i + 4 * n) 4 =
            leBytes 4 (convertPlain 0 sat (accNum s c (i / r.m) (r.base + i % r.m) n)).1))

/-- R196, R206: a closing pass at the head of the dressing queue starts once its tally is reached, or at once without one; when
every step of it may go, the pass leaves the queue and is counted; a tally that is not reached is waited for at its home, each
presentation meanwhile counting a beat, and one that the claim does not own raises SYNC_RANGE. -/
def Obligations.ClosingPasses : Prop :=
  ∀ (s : State) (c : CoreId) (no k : Nat) (ref : ChainRef) (words post : List W64) (rows : List Nat) (count : Nat)
    (ws : List Nat) (sat : Bool) (rest : List DrsEntry) (st : Stage),
    let q := (coreAt s c).drs
    let d := chainOf words
    let j := closingJob no ref st d post sat
    let us := tileUnits (ws.zipIdx.map fun p => (⟨c, d, count, p.2, p.1, max 1 (count / 4)⟩ : TileCtx)) rows
    let goes : Prop := (runUnits c k j rows us us (beginPart c ref.handle d.position words post 0 s)).1 = true
    let n := st.param / 2 ^ 15
    let target : W32 := BitVec.ofNat 32 (st.param % 2 ^ 15)
    let done : Prop := ∃ t, exec (.closingPassStart c) s = .next t ∧ (coreAt t c).drs.queue = rest ∧
      (coreAt t c).drs.closes = wrapAdd 32 q.closes 1 ∧ (coreAt t c).drs.prog = none ∧
      (coreAt t c).mat.acc = (coreAt s c).mat.acc
    unitLive s c = true → coreOwner s c = some k → (coreAt s c).att.call = none → q.hands = [] → q.prog = none →
    q.queue = ⟨no, .closing ref words post rows count ws sat⟩ :: rest → markerOf d = some st →
    (goes → (st.variant = 0 → done) ∧
      (st.variant ≠ 0 → ownsTally s k n = true → q.closeWait = false → reached (tallyAt s n) target = true → done)) ∧
    (st.variant ≠ 0 → ownsTally s k n = true → q.closeWait = false → reached (tallyAt s n) target = false →
      (s.waits.filter fun x => x.tally / 16384 == n / 16384).length < 256 →
      ∃ t, exec (.closingPassStart c) s = .next t ∧ t.waits = s.waits ++ [⟨n, target, .closing c, ref.cls⟩] ∧
        (coreAt t c).drs = { q with closeWait := true }) ∧
    (st.variant ≠ 0 → ownsTally s k n = true → q.closeWait = true →
      ∃ t, exec (.closingPassStart c) s = .next t ∧ onlyCore c s t ∧
        (coreAt t c).drs = { q with closeWaitBeats := wrapAdd 32 q.closeWaitBeats 1 }) ∧
    (st.variant ≠ 0 → ownsTally s k n = false → claimRuns s c k = true →
      ∃ t x y, exec (.closingPassStart c) s = .next t ∧ (coreAt t c).drs.queue = rest ∧ (claimAt t k).task = some x ∧
        x.fault = some y ∧ y.info.name = .syncRange ∧ y.engine = 2 ∧ y.core = c)

/-- R208, R209, R230, R232, R236, R240: an attention call that stands at the head of both queues, whose earlier matrix work is
through and whose descriptor is sound, leaves both queues and counts the tiles it skips; it runs its tiles in order as far as
their keys and values are there, writes no bench byte, and waits at the first tile whose bank powers up or whose slots are
empty; with no tile to run its closing is due. A descriptor that breaks a rule raises ATT_DESC with its reason. -/
def Obligations.AttentionCalls : Prop :=
  ∀ (s : State) (c : CoreId) (no : Nat) (ref r2 : ChainRef) (rest : List MatEntry) (rest2 : List DrsEntry)
    (errs errs2 : List AttError),
    let k := coreAt s c
    let ws := benchWords s c (64 * ref.handle) 8
    let d := attOf ws
    let reason := attFault c ws (chainOf (benchWords s c (128 * d.outHandle) 16))
    let tiles := runTileList d
    let gate (j : Nat) : Gate := gates (fun o n => benchGate s c o n true) (tileReads c d j ++ tileScaleReads c d j)
    unitLive s c = true → k.att.call = none → k.mat.run = none → k.mat.flight = [] → k.drs.hands = [] →
    k.mat.queue = ⟨no, .attend ref⟩ :: rest → k.drs.queue = ⟨no, .attend r2⟩ :: rest2 →
    64 * ref.handle + 64 ≤ benchSize → benchGate s c (64 * ref.handle) 64 true = .go →
    (reason = none → k.mat.fenced % 16 = 0 → (k.mat.shadow = .empty ∨ tiles = []) →
      ∃ t, exec (.attentionCallStart c errs errs2) s = .next t ∧ (coreAt t c).mat.queue = rest ∧
        (coreAt t c).drs.queue = rest2 ∧ (coreAt t c).bench.bytes = k.bench.bytes ∧
        (coreAt t c).att.skipped = wrapAdd 32 k.att.skipped (tileCount d - tiles.length) ∧
        (tiles = [] → onlyCore c s t ∧ (coreAt t c).att.call = some ⟨no, ref, ws, 0, []⟩) ∧
        (∀ j js, tiles = j :: js → gate j = .wait →
          (coreAt t c).att.call = some ⟨no, ref, ws, 0, tiles⟩ ∧ (coreAt t c).att.tile = j) ∧
        (∀ j js slot, tiles = j :: js → gate j = .go → d.kvTagged = true →
          slotsBlock s c (.matrix c) false (slotsOf (tileReads c d j)) = some slot →
          (coreAt t c).att.call = some ⟨no, ref, ws, 0, tiles⟩ ∧ (coreAt t c).att.kvWait = true) ∧
        (∀ x, (coreAt t c).att.call = some x → x.no = no ∧ x.ref = ref ∧ x.words = ws ∧
          ∃ through, tiles = through ++ x.tiles ∧ x.steps = through.length)) ∧
    (∀ r q, reason = some r → claimRuns s c q = true →
      ∃ t x y, exec (.attentionCallStart c errs errs2) s = .next t ∧ (coreAt t c).mat.queue = rest ∧
        (coreAt t c).drs.queue = rest2 ∧ (coreAt t c).att.call = none ∧ (claimAt t q).task = some x ∧ x.fault = some y ∧
        y.info.name = .attDesc ∧ y.info.reason = r ∧ y.engine = 1 ∧ y.core = c ∧
        (k.att.fault.fault = false → (coreAt t c).att.fault = ⟨true, 1, r, ref.handle⟩))

/-- R133, R218 to R221, R227: the closing of a call without an output chain writes the state region, or the log-sum-exps when
they are asked for, ends the call and counts it; the tally it names takes 1; no tile is active any more and the shadow is
EMPTY. A row whose partial is empty on one side merges to the other side. -/
def Obligations.AttentionClosings : Prop :=
  (∀ p n : Partial, (n.m = 0xFF800000 → mergePartial p n = p) ∧
    (n.m ≠ 0xFF800000 → p.m = 0xFF800000 → mergePartial p n = n)) ∧
  ∀ (s : State) (c : CoreId) (k : Nat) (call : AttCall),
    let d := attOf call.words
    let ps := closedRows s c d
    let writes := closingWrites d ps
    unitLive s c = true → coreOwner s c = some k → (coreAt s c).att.call = some call → call.tiles = [] →
    (coreAt s c).drs.prog = none → (d.last && d.outEn) = false →
    readsReady s c (closingReads d) [] = .go →
    gates (fun o n => benchGate s c o n false) (closingRanges d ps) = .go →
    (d.tallyEn = true → ownsTally s k d.tally = true) →
      ∃ t, exec (.attentionClosing c) s = .next t ∧ (coreAt t c).att.call = none ∧
        (coreAt t c).att.calls = wrapAdd 32 (coreAt s c).att.calls 1 ∧
        (coreAt t c).mat.activeValid = false ∧ (coreAt t c).mat.shadow = .empty ∧
        (∀ o bs, writes = [(o, bs)] → benchBytes t c o bs.length = bs ∧
          ∀ a, a < o ∨ o + bs.length ≤ a → benchByte t c a = benchByte s c a) ∧
        (writes = [] → ∀ a, benchByte t c a = benchByte s c a) ∧
        tallyAt t d.tally = (if d.tallyEn then tallyAt s d.tally + 1 else tallyAt s d.tally) ∧
        (∀ x, x < 128 * d.stateReg ∨ 128 * d.stateReg + 512 ≤ x →
          tget 0 (coreAt t c).drs.wide x = tget 0 (coreAt s c).drs.wide x) ∧ t.claims = s.claims

/-- R252, R253, R255, R287, R291, R293: an access of a bench through a port that reaches it in that direction, that neither its
tag nor an earlier access keeps waiting, with no clash and its bank open, reads or writes its bytes, one beat of the port for
each line of 512 B; the release mark empties and the fill mark fills its slots. A tagged access that must wait goes to a wait
register of its port; an untagged one behind an earlier one of its engine waits without effect. Two accesses through two ports
to one bank: neither takes effect and BENCH_CLASH is recorded with both ports in order of number.
R295 to R297: a held access whose slots are in the state it waits for, and that stands behind none of its own engine and
port or of its slots, issues while the beats of the core run: it leaves its wait register, its bytes move and its mark changes
the tags; a waiting load also completes, into its register; an item is presented again by its unit. What waited behind it goes
on. -/
def Obligations.BenchAccesses : Prop :=
  (∀ (s : State) (c : CoreId) (e : Engine) (p : Port) (o k : Nat) (mark : TagMark) (others : List (Port × Nat)),
    engineClaim s e = some k → taskLive s k = true → coreOwner s c = some k →
    let may (isWrite : Bool) (n : Nat) : Prop :=
      portServes c e p isWrite = true ∧ 1 ≤ n ∧ benchGate s c o n (!isWrite) = .go ∧
        accessWaits s c e p o n isWrite mark = false
    let tags (isWrite : Bool) (n : Nat) (t : State) : Prop :=
      (∀ x, tagFull t c x = if mark = .pass ∧ x ∈ unitsIn 1024 o n then isWrite else tagFull s c x) ∧
      tget 0 (coreAt t c).bench.portBeats (portNo p) = wrapAdd 64 (tget 0 (coreAt s c).bench.portBeats (portNo p))
        ((o + n - 1) / 512 - o / 512 + 1)
    ((∀ x ∈ others, x.1 = p ∨ benchBank x.2 ≠ benchBank o) →
      (∀ n, may false n →
        ∃ t, exec (.benchAccess c e p o (.read n) mark others .clean) s = .next t ∧
          onlyCore c { s with answer := .data (benchBytes s c o n) } t ∧ tags false n t ∧
          (∀ a, benchByte t c a = benchByte s c a) ∧ (coreAt t c).seq = (coreAt s c).seq) ∧
      (∀ d, may true d.length →
        ∃ t, exec (.benchAccess c e p o (.write d) mark others .clean) s = .next t ∧
          onlyCore c { s with answer := .nothing } t ∧ tags true d.length t ∧ (coreAt t c).seq = (coreAt s c).seq ∧
          ∀ a, benchByte t c a = if o ≤ a ∧ a < o + d.length then d.getD (a - o) 0 else benchByte s c a)) ∧
    (∀ op, portServes c e p (opWrites op) = true → 1 ≤ opLen op → benchGate s c o (opLen op) (!(opWrites op)) = .go →
      accessWaits s c e p o (opLen op) (opWrites op) mark = true →
      (mark = .plain → exec (.benchAccess c e p o op mark others .clean) s = .next { s with answer := .waits }) ∧
      (mark ≠ .plain → waitRegisters s c p e = true →
        ∃ t, exec (.benchAccess c e p o op mark others .clean) s = .next t ∧ onlyCore c { s with answer := .waits } t ∧
          (∀ a, benchByte t c a = benchByte s c a) ∧ (coreAt t c).bench.tags = (coreAt s c).bench.tags ∧
          (coreAt t c).bench.held = (coreAt s c).bench.held ++
            [{ eng := e, port := p, offset := o, op := .access op, mark := mark, isWrite := opWrites op }]) ∧
      (mark ≠ .plain → waitRegisters s c p e = false → p = .pNet →
        ∃ t, exec (.benchAccess c e p o op mark others .clean) s = .next t ∧ (coreAt t c).bench = (coreAt s c).bench ∧
          t.backoffs = s.backoffs ++ [⟨.tagged c { eng := e, port := p, offset := o, op := .access op, mark := mark
                                                   isWrite := opWrites op }, 2⟩])) ∧
    (∀ (q : Port) (o2 : Nat) (op : BenchOp), may (opWrites op) (opLen op) → portNo p < portNo q →
      benchBank o2 = benchBank o → (coreAt s c).bench.fault.fault = false →
      ∃ t, exec (.benchAccess c e p o op mark [(q, o2)] .clean) s = .next t ∧ taskFaulted k .benchClash 0 t ∧
        (∀ j a, benchByte t j a = benchByte s j a) ∧ (∀ j, (coreAt t j).bench.tags = (coreAt s j).bench.tags) ∧
        (coreAt t c).bench.fault = ⟨true, 1, benchBank o, portNo p, portNo q, slotOf o, slotOf o2⟩)) ∧
  (∀ (s : State) (c : CoreId) (i : Nat) (a : HeldAccess),
    let x := (coreAt s c).bench
    let o := a.offset
    let n := heldLen a.op
    let goesOn (v : State) : State := endDestroys (sendReplies (serveNets v))
    x.held[i]? = some a → beatsRun s c = true → heldBehind (x.held.take i) a = false →
    (∀ y ∈ heldSlots a, tagFull s c y = !a.isWrite) →
    (a.op = .item → exec (.heldAccessIssue c i) s = .next (goesOn (unitResume a.eng s))) ∧
    (a.op ≠ .item → benchGate s c o n (!a.isWrite) = .go →
      ∃ t u, exec (.heldAccessIssue c i) s = .next t ∧
        (((∃ d, a.op = .access (.write d)) ∨ ∃ v b, a.op = .part v b) → t = goesOn (owesReply a.eng 0 u)) ∧
        (((∃ m, a.op = .access (.read m)) ∨ (∃ d, a.op = .store d) ∨ ∃ rd m, a.op = .load rd m) → t = goesOn u) ∧
        (coreAt u c).bench.held = x.held.take i ++ x.held.drop (i + 1) ∧ onlyCore c { s with answer := u.answer } u ∧
        (∀ y, tagFull u c y = if a.mark = .pass ∧ y ∈ heldSlots a then a.isWrite else tagFull s c y) ∧
        (∀ d, a.op = .access (.write d) ∨ a.op = .store d →
          ∀ b, benchByte u c b = if o ≤ b ∧ b < o + d.length then d.getD (b - o) 0 else benchByte s c b) ∧
        (∀ v bits, a.op = .part v bits →
          ∀ b, benchByte u c b = if b = o then mixBits bits (benchByte s c o) v else benchByte s c b) ∧
        (∀ m, a.op = .access (.read m) → u.answer = .data (benchBytes s c o m) ∧ ∀ b, benchByte u c b = benchByte s c b) ∧
        (∀ rd m, a.op = .load rd m → regAt u c rd = BitVec.ofNat 64 (leNat (benchBytes s c o m)) ∧
          (coreAt u c).seq.pc = (followed (coreAt s c).seq).pc ∧ (coreAt u c).seq.run = .running ∧
          ∀ b, benchByte u c b = benchByte s c b)))

/-- R264, R272 to R274, R276, R277, R697: gallery and DRAM accesses by a live task's engine to its own, powered, ready memory,
with no request of it parked on the way; DRAM is reached by movers and the haul engine. A read
answers the bytes and changes nothing; a write changes the bytes it names and no other. A row reduction writes its 32-bit
result, in the gallery or in host memory; a quantise writes elements, and scales for a block format, and its conversions are
counted for the core on whose behalf it was requested. -/
def Obligations.GalleryAndDram : Prop :=
  ∀ (s : State) (e : Engine) (k o : Nat), engineRuns s e k = true → parkedFor s e (bankDest o) = false →
    let galKept (t : State) : Prop := t.gallery = { s.gallery with bytes := t.gallery.bytes, poison := t.gallery.poison }
    let galOnly (t : State) : Prop := t = { s with gallery := t.gallery, answer := .nothing } ∧ galKept t
    (∀ n, galGate s (some k) o n true = .go →
      exec (.galleryRead e o n .clean) s = .next { s with answer := .data (galBytes s o n) }) ∧
    (∀ d, galGate s (some k) o d.length false = .go → ∃ t, exec (.galleryWrite e o d) s = .next t ∧ galOnly t ∧
      ∀ a, galByte t a = if o ≤ a ∧ a < o + d.length then d.getD (a - o) 0 else galByte s a) ∧
    (∀ n, galBank o = galBank (o + n - 1) → galGate s (some k) o n false = .go →
      ∃ t, exec (.zeroFill e o n) s = .next t ∧ galOnly t ∧
        ∀ a, galByte t a = if o ≤ a ∧ a < o + n then 0 else galByte s a) ∧
    (∀ n, reachesDram e = true → parkedFor s e (.dram o) = false → dramGate s (some k) o n true = .go →
      exec (.dramAccess e o n [] .clean) s = .next (stackCheck { s with answer := .data (dramBytes s o n) })) ∧
    (∀ d, reachesDram e = true → parkedFor s e (.dram o) = false → d ≠ [] → dramGate s (some k) o d.length false = .go →
      ∃ t, exec (.dramAccess e o d.length d .clean) s = .next (stackCheck t) ∧
      t = { s with dram := t.dram, answer := .nothing } ∧
      t.dram = { s.dram with bytes := t.dram.bytes, poison := t.dram.poison } ∧
      ∀ a, dramByte t a = if o ≤ a ∧ a < o + d.length then d.getD (a - o) 0 else dramByte s a) ∧
    (∀ n isMax a, 1 ≤ n → n ≤ 196608 → o % 4 = 0 → galBank o = galBank (o + 4 * n - 1) →
      galGate s (some k) o (4 * n) true = .go → galGate s (some k) a 4 false = .go →
      ∃ t, exec (.rowReduction e o n isMax (galPlace a)) s = .next t ∧ galOnly t ∧
        galBytes t a 4 = leBytes 4 (reduceRow s o n isMax).toNat ∧ ∀ b, b < a ∨ a + 4 ≤ b → galByte t b = galByte s b) ∧
    (∀ n isMax dst f a, 1 ≤ n → n ≤ 196608 → o % 4 = 0 → galBank o = galBank (o + 4 * n - 1) →
      galGate s (some k) o (4 * n) true = .go →
      spotFor s e true k dst 4 (.write (leBytes 4 (reduceRow s o n isMax).toNat) .plain none) = .host f a →
      ∃ t, exec (.rowReduction e o n isMax dst) s = .next t ∧ t.gallery = s.gallery ∧
        hostBytes t f a 4 = leBytes 4 (reduceRow s o n isMax).toNat) ∧
    (∀ n isMax dst, n = 0 ∨ 196608 < n ∨ o % 4 ≠ 0 ∨ galBank o ≠ galBank (o + 4 * n - 1) →
      ∃ t, exec (.rowReduction e o n isMax dst) s = .next t ∧ t.gallery = s.gallery ∧ taskFaulted k .galOp 8 t) ∧
    (∀ fromBf16 row f scaleDst sat, quantTarget f = true → quantFits fromBf16 row.length f = true →
      let q := quantRow fromBf16 row f sat
      galGate s (some k) o q.1.length false = .go → (isBlock f = true → galGate s (some k) scaleDst q.2.1.length false = .go) →
      ∃ t, exec (.quantiseOnWrite e fromBf16 row f o scaleDst sat) s = .next t ∧
        t = noteConvFor e q.2.2 { s with gallery := t.gallery, answer := .nothing } ∧ galKept t ∧
        galBytes t o q.1.length = q.1 ∧
        (isBlock f = true → (scaleDst + q.2.1.length ≤ o ∨ o + q.1.length ≤ scaleDst) →
          galBytes t scaleDst q.2.1.length = q.2.1) ∧
        ∀ b, (b < o ∨ o + q.1.length ≤ b) → (isBlock f = false ∨ b < scaleDst ∨ scaleDst + q.2.1.length ≤ b) →
          galByte t b = galByte s b)

/-- R259, R260, R264 to R266: the three shaped gallery reads. Element (i, j) of a transposed 64 × 64 block stands at (j, i) of
what is answered; a strided walk takes dimension 0 innermost; a gather answers row v of its base for each index v, and a
row of zeros for the padding index. -/
def Obligations.ShapedReads : Prop :=
  ∀ (s : State) (e : Engine) (k o : Nat), engineRuns s e k = true → parkedFor s e (bankDest o) = false →
    let answers (i : Instr) (bs : List Byte) : Prop := exec i s = .next { s with answer := .data bs }
    (∀ (st : Int) (el : Fin 4),
      let row (i : Nat) : Int := Int.ofNat o + Int.ofNat i * st
      let ranges := elemRanges (transRowBytes el.val) (transRows o st)
      (∀ i < 64, 0 ≤ row i) → inOneBank ranges = true → gates (fun a n => galGate s (some k) a n true) ranges = .go →
      ∃ bs, answers (.transposingRead e o st el) bs ∧
        (el.val ≠ 3 → ∀ i < 64, ∀ j < 64, ∀ b < elemSize el.val,
          bs.getD ((64 * j + i) * elemSize el.val + b) 0 = galByte s ((row i).toNat + elemSize el.val * j + b)) ∧
        (el.val = 3 → ∀ i < 64, ∀ j < 128, nibble bs (64 * j + i) = nibble (galBytes s (row i).toNat 64) j)) ∧
    (∀ (el : Fin 4) (n0 n1 : Nat) (s0 s1 : Int),
      let dims := [(n0, s0), (n1, s1)]
      let place (i j : Nat) : Int := Int.ofNat o + Int.ofNat i * s0 + Int.ofNat j * s1
      let ranges := elemRanges (elemSize el.val) (walkFrom dims (Int.ofNat o))
      walkFits el.val dims = true → (∀ i < n0, ∀ j < n1, 0 ≤ place i j) → inOneBank ranges = true →
      gates (fun a n => galGate s (some k) a n true) ranges = .go →
      ∃ bs, answers (.stridedRead e o el dims) bs ∧ ∀ i < n0, ∀ j < n1, ∀ b < elemSize el.val,
        bs.getD ((n0 * j + i) * elemSize el.val + b) 0 = galByte s ((place i j).toNat + b)) ∧
    (∀ (count base size : Nat) (st : Int), gatherFits size = true → galGate s (some k) o (4 * count) true = .go →
      gatherGate s k (gatherRows s o count (Int.ofNat base) st) size = .go →
      ∃ bs, answers (.gather e o count base st size) bs ∧ ∀ i < count, ∀ b < size,
        let v := leNat (galBytes s (o + 4 * i) 4)
        bs.getD (size * i + b) 0 = if v = 0xFFFFFFFF then 0
          else galByte s ((Int.ofNat base + Int.ofNat v * st).toNat + b)) ∧
    (∀ count base size st, gatherFits size = false → ∃ t, exec (.gather e o count base st size) s = .next t ∧
      t.gallery = s.gallery ∧ taskFaulted k .galOp 7 t)

/-- R267 to R270, R275, R645: an accumulate replaces each FP32 or INT32 element of its range by the kind's result and no other byte;
in its turn it makes its engine the owner, and with the end bit hands the turn on: to the next contributor, or, after the
last, to contributor 0 with one more round and 1 added to the tally that the counter names. One that is not due stands in
the turn hold, or backs off when the hold is taken. TURN_SET starts a counter whose hold is empty and that nobody owns. A
counter of another claim, and a round's tally that the counter's claim does not own, is SYNC_RANGE (R303). An error of the
adder that is no multiple of 3 is found by the residues, and nothing is written. -/
def Obligations.AccumulatesInTurn : Prop :=
  (∀ m v : W32, (accElem .iadd m v).1 = m + v ∧ (accElem .imax m v).1 = (if m.slt v then v else m) ∧
    (accElem .imin m v).1 = (if v.slt m then v else m) ∧ (accElem .fadd m v).1 = add32 m v ∧
    (accElem .fmax m v).1 = max32 m v ∧ (accElem .fmin m v).1 = min32 m v) ∧
  ∀ (s : State) (r : AccReq) (k : Nat),
    let o := r.offset
    let n := r.data.length
    let added (t : State) : Prop := (∀ i < n / 4, galBytes t (o + 4 * i) 4 = leBytes 4
        (accElem r.kind (word32 (galBytes s (o + 4 * i) 4)) (word32 (r.data.drop (4 * i)))).1.toNat) ∧
      (∀ a, a < o ∨ o + n ≤ a → galByte t a = galByte s a) ∧ t.dram = s.dram ∧
      (∀ j, (coreAt t j).bench = (coreAt s j).bench) ∧ t.claims = s.claims
    let same (t : State) : Prop := t.gallery.bytes = s.gallery.bytes ∧ t.cores = s.cores ∧ t.dram = s.dram
    let gate : Gate := galGate s (some k) o (max 1 n) (!r.data.isEmpty)
    let goesOn (v : State) : State := sendReplies (serveNets v)
    let tallyOk (u : TurnRef) : Prop := (turnAt s u.counter.val).tallyEn = true →
      ∃ q, turnOwner s u.counter.val = some q ∧ ownsTally s q (turnAt s u.counter.val).tally = true
    engineRuns s r.engine k = true → parkedFor s r.engine (bankDest o) = false → o % 4 = 0 → n % 4 = 0 →
    (gate = .go →
      (r.turn = none → ∃ t, exec (.accumulateInPlace r none) s = .next t ∧ added t ∧
        t.gallery.turns = s.gallery.turns ∧ t.tallies = s.tallies) ∧
      (∀ e : AdderErr, r.turn = none → e.elem < n / 4 → e.err % 3 ≠ 0 → (r.kind = .iadd ∨ r.kind = .fadd ∧
          isFin (num32 (word32 (galBytes s (o + 4 * e.elem) 4))) = true ∧
          isFin (num32 (word32 (r.data.drop (4 * e.elem)))) = true) →
        ∃ t, exec (.accumulateInPlace r (some e)) s = .next t ∧ t.gallery = s.gallery ∧ taskFaulted k .memUe 5 t) ∧
      (∀ u, r.turn = some u → ownsTurn s k u.counter.val = true → ∀ x, x = turnAt s u.counter.val →
        u.contributor < x.count → u.counter.val / 64 = galSlice o →
        x.next = u.contributor → (x.owner = none ∨ x.owner = some r.engine) →
        (x.next + 1 = x.count → u.last = true → x.tallyEn = true →
          (∀ q, turnOwner s u.counter.val = some q → ownsTally s q x.tally = false) →
          ∃ t, exec (.accumulateInPlace r none) s = .next t ∧ t.tallies = s.tallies ∧ taskFaulted k .syncRange 0 t ∧
            turnAt t u.counter.val = { x with owner := none, next := 0, rounds := wrapAdd 32 x.rounds 1 }) ∧
        (tallyOk u → ∃ t, exec (.accumulateInPlace r none) s = .next t ∧ added t ∧
          (∀ m, m ≠ u.counter.val → turnAt t m = turnAt s m) ∧
          turnAt t u.counter.val = (if !u.last then { x with owner := some r.engine }
            else if x.next + 1 = x.count then { x with owner := none, next := 0, rounds := wrapAdd 32 x.rounds 1 }
            else { x with owner := none, next := x.next + 1 }) ∧
          ∀ m, tallyAt t m = if u.last ∧ x.next + 1 = x.count ∧ x.tallyEn ∧ m = x.tally then tallyAt s m + 1
            else tallyAt s m))) ∧
    (∀ u, r.turn = some u → ownsTurn s k u.counter.val = false → ∃ t, exec (.accumulateInPlace r none) s = .next t ∧
      t.gallery = s.gallery ∧ t.dram = s.dram ∧ taskFaulted k .syncRange 0 t) ∧
    (∀ u, r.turn = some u → ownsTurn s k u.counter.val = true → ∀ x, x = turnAt s u.counter.val →
      (x.count ≤ u.contributor → ∃ t, exec (.accumulateInPlace r none) s = .next t ∧ same t ∧ taskFaulted k .galOp 1 t) ∧
      (u.contributor < x.count → u.counter.val / 64 = galSlice o → x.next ≠ u.contributor →
        (x.hold = none → ∃ t, exec (.accumulateInPlace r none) s = .next t ∧ same t ∧ t.backoffs = s.backoffs ∧
          t.answer = .waits ∧ turnAt t u.counter.val = { x with hold := some (.request r (some k)) }) ∧
        (x.hold ≠ none → exec (.accumulateInPlace r none) s =
          .next { s with backoffs := s.backoffs ++ [⟨.accumulate (.request r (some k)), 2⟩], answer := .waits })) ∧
      (x.hold = some (.request r (some k)) → u.contributor < x.count → u.counter.val / 64 = galSlice o → x.next = u.contributor →
        (x.owner = none ∨ x.owner = some r.engine) → gate = .go → tallyOk u →
        ∃ t, exec (.turnHoldPresent u.counter) s = .next (goesOn t) ∧ added t ∧ (turnAt t u.counter.val).hold = none) ∧
      (x.hold = some (.request r (some k)) → u.contributor < x.count → u.counter.val / 64 = galSlice o → x.next ≠ u.contributor →
        exec (.turnHoldPresent u.counter) s = .next (goesOn s))) ∧
    (∀ (c : Fin 512) (count tally : Nat) (en : Bool), ownsTurn s k c.val = true →
      ((turnAt s c.val).hold = none → (turnAt s c.val).owner = none →
        ∃ t, exec (.turnSet r.engine c count tally en) s = .next t ∧
          t = { s with gallery := { s.gallery with turns := t.gallery.turns } } ∧
          (∀ m, m ≠ c.val → turnAt t m = turnAt s m) ∧
          turnAt t c.val = { turnAt s c.val with next := 0, count := count, tally := tally, tallyEn := en }) ∧
      ((turnAt s c.val).hold ≠ none ∨ (turnAt s c.val).owner ≠ none →
        ∃ t, exec (.turnSet r.engine c count tally en) s = .next t ∧ t.gallery = s.gallery ∧ taskFaulted k .galOp 4 t))

/-- R280 to R282, R286, R288, R289: a function powers off and on bench banks of a core of its claim while no task runs there, and
gallery banks and DRAM regions of its claim without a task; bits of other units stay and such a write is counted. A unit
that comes on again is not ready until its zero-fill is done, and then reads as zero; a region returned by a destroyed
claim is zeroed before another claim may have it. -/
def Obligations.MemoryPower : Prop :=
  ∀ (s : State) (f : FnId) (c : CoreId),
    (∀ (k : Nat) (v : BitVec 16), coreOwner s c = some k → actsFor s f k = true → dieInReach s (dieOf c) = true →
      (taskOn s c = false → ∃ t, exec (.benchBankPower f c v) s = .next t ∧ onlyCore c s t ∧
        (coreAt t c).bench = { (coreAt s c).bench with
          off := v.toNat % 2 ^ 15, ready := setMinus (coreAt s c).bench.ready (v.toNat % 2 ^ 15) } ∧
        (coreAt t c).seq = (coreAt s c).seq) ∧
      (taskOn s c = true → ∃ t, exec (.benchBankPower f c v) s = .next t ∧ onlyCore c s t ∧
        (coreAt t c).bench = { (coreAt s c).bench with refused := true })) ∧
    (∀ (d : DieId) (v : W64), (isControl s f = true ∨ (boundClaim s f).isSome = true) →
      let may (b : Nat) : Prop := ∃ q, bankOwner s b = some q ∧ actsFor s f q = true ∧ (claimAt s q).task = none
      let refused : Prop := ∃ i, i < 64 ∧ v.getLsbD i ≠ inSet s.gallery.off (64 * d.val + i) ∧ ¬ may (64 * d.val + i)
      ∃ t, exec (.pwrGalOffWrite f d v) s = .next t ∧ t.gallery.bytes = s.gallery.bytes ∧ t.cores = s.cores ∧
        (∀ i, i < 64 → may (64 * d.val + i) → inSet t.gallery.off (64 * d.val + i) = v.getLsbD i) ∧
        (∀ b, (b < 64 * d.val ∨ 64 * d.val + 64 ≤ b ∨ ¬ may b) → inSet t.gallery.off b = inSet s.gallery.off b) ∧
        (∀ b, inSet t.gallery.ready b = (inSet s.gallery.ready b && !(inSet t.gallery.off b))) ∧
        (refused → t.power.galRefused = true ∧ t.power.memRefused = wrapAdd 32 s.power.memRefused 1) ∧
        (¬ refused → t.power = s.power)) ∧
    (∀ (w : Fin 4) (v : W64), (isControl s f = true ∨ (boundClaim s f).isSome = true) →
      let n := if w.val = 3 then 33 else 64
      let may (b : Nat) : Prop := ∃ q, regionOwner s b = some q ∧ actsFor s f q = true ∧ (claimAt s q).task = none
      ∃ t, exec (.pwrDramOffWrite f w v) s = .next t ∧ t.dram.bytes = s.dram.bytes ∧ t.gallery = s.gallery ∧
        (∀ i, i < n → may (64 * w.val + i) → inSet t.dram.off (64 * w.val + i) = v.getLsbD i) ∧
        (∀ b, (b < 64 * w.val ∨ 64 * w.val + n ≤ b ∨ ¬ may b) → inSet t.dram.off b = inSet s.dram.off b) ∧
        (∀ b, inSet t.dram.ready b = (inSet s.dram.ready b && !(inSet t.dram.off b)))) ∧
    (∀ b : Fin 16, inSet (coreAt s c).bench.off b.val = false → inSet (coreAt s c).bench.ready b.val = false →
      ∃ t, exec (.powerUpZeroFillDone (.benchBank c b)) s = .next t ∧ onlyCore c s t ∧
        inSet (coreAt t c).bench.ready b.val = true ∧
        ∀ a, benchByte t c a = if a / 0x80000 = b.val then 0 else benchByte s c a) ∧
    (∀ b : Fin 512, inSet s.gallery.off b.val = false → inSet s.gallery.ready b.val = false →
      ∃ t, exec (.powerUpZeroFillDone (.galleryBank b)) s = .next t ∧ t = { s with gallery := t.gallery } ∧
        inSet t.gallery.ready b.val = true ∧ ∀ a, galByte t a = if galBank a = b.val then 0 else galByte s a) ∧
    (∀ r : Fin 225, inSet s.dram.off r.val = false → inSet s.dram.ready r.val = false →
      ∃ t, exec (.powerUpZeroFillDone (.dramRegion r)) s = .next t ∧ t = { s with dram := t.dram } ∧
        inSet t.dram.ready r.val = true ∧ ∀ a, dramByte t a = if dramRegion a = r.val then 0 else dramByte s a) ∧
    (∀ r : Fin 225, inSet s.dram.zeroing r.val = true →
      ∃ t, exec (.dramRegionZeroed r) s = .next t ∧ t = { s with dram := t.dram } ∧
        inSet t.dram.zeroing r.val = false ∧ ∀ a, dramByte t a = if dramRegion a = r.val then 0 else dramByte s a)

/-- R376 to R383, R391, R392, R396, R403: a mover whose task is live and that has no block under way takes the next descriptor of
its head list. A descriptor that breaks a rule raises MOV_DESC with its reason and stops the mover; a credit that is not there
is waited for at the tally's home; a block that is due begins to read. It goes on reading, or has read and is outstanding with
its list moved on, or has met a fault; while no other engine acts beside it, it changes no gallery, DRAM or bench byte but
those its writes and accumulates name. A copy of one run from gallery to gallery, apart from its source, puts the source bytes
there. -/
def Obligations.MoverBlocks : Prop :=
  ∀ (s : State) (m : MoverId) (hostError : Bool) (k : Nat) (l : MovList) (rest : List MovList),
    let v := moverAt s m
    let o := 64 * l.handle + 64 * l.next
    let w := benchWords s l.core o 8
    let b := blockOf w
    let p := l.params
    let kind := fieldOf (wordAt w 6) 63 60
    let reason : Option Nat := if kind = 1 then blockReason b p else if kind = 2 then (if paramsRsv w then some 2 else none) else some 1
    let xs := (blockWrites s k b p (copies ((unitsOfBlock s b p).foldl (fun n u => n + unitBytes u) 0) 0)).1
    let alone : Prop := (∀ c, (coreAt s c).net.queue = [] ∧ (coreAt s c).net.due = []) ∧
      ∀ c m1, m = .core c m1 → (moverAt s (.core c (!m1))).prog = none ∧ writingBlock (moverAt s (.core c (!m1))) = none
    let writesTo (sp sel a : Nat) : Prop := ∃ x ∈ xs,
      (∃ pl d tg i, x = .wr pl d tg i ∧ ∃ y z, spotOf s m k pl d.length (.write d .plain none) = .here y z ∧
        min y.space 2 = sp ∧ (sp = 0 → y.sel = sel) ∧ y.off ≤ a ∧ a < y.off + d.length) ∨
      (∃ pl d e t i, x = .acc pl d e t i ∧ ∃ y z, spotOf s m k pl d.length (.accumulate e d t) = .here y z ∧ sp = 1 ∧
        y.off ≤ a ∧ a < y.off + d.length)
    let key (y : MovList) : Nat × Nat × Nat × Nat × Nat := (y.core, y.handle, y.count, y.next, y.block)
    let met : Prop := ownsTally s k p.creditTally = true ∧
      reached (tallyAt s p.creditTally) (p.creditBase + BitVec.ofNat 32 (p.creditIdx + 1)) = true
    engineClaim s (moverEngine m) = some k → moverRuns s m = true → v.prog = none → writingBlock v = none →
    v.out.length < moverLimit m → v.lists = l :: rest → l.next < l.count → benchGate s l.core o 64 true = .go →
    (∀ n, reason = some n → ∃ t, exec (.moverBlockStart ⟨m, hostError⟩) s = .next (serveNets t) ∧ taskFaulted k .movDesc n t ∧
      (moverAt t m).stopped = true ∧ (v.fault.fault = false → (moverAt t m).fault.code = 2 ∧ (moverAt t m).fault.reason = n) ∧
      t.gallery = s.gallery ∧ t.dram = s.dram) ∧
    (kind = 1 → reason = none → b.credit = true → l.granted = false → l.waited = false → ownsTally s k p.creditTally = true →
      ¬ met → (s.waits.filter fun x => tallyHome x.tally == tallyHome p.creditTally).length < 256 →
      ∃ t, exec (.moverBlockStart ⟨m, hostError⟩) s = .next (serveNets t) ∧
        t.waits = s.waits ++
          [⟨p.creditTally, p.creditBase + BitVec.ofNat 32 (p.creditIdx + 1), .mover m, p.cls⟩] ∧
        (moverAt t m).lists = { l with begun := true, waited := true } :: rest ∧ (moverAt t m).out = v.out ∧
        (moverAt t m).prog = none ∧ t.gallery = s.gallery ∧ t.dram = s.dram ∧ t.claims = s.claims) ∧
    (kind = 1 → reason = none → (b.credit = false ∨ l.granted = true ∨ (l.waited = false ∧ met)) →
      ∃ t, exec (.moverBlockStart ⟨m, hostError⟩) s = .next (serveNets t) ∧
        ((moverAt t m).stopped = true ∨
          ((∃ g, (moverAt t m).prog = some g ∧ g.words = w) ∧ (moverAt t m).out = v.out ∧
            (moverAt t m).lists.map key = v.lists.map key) ∨
          ((moverAt t m).prog = none ∧ (moverAt t m).lists.map key = (afterDescriptor l p true rest).map key ∧
            ∃ y, (moverAt t m).out = v.out ++ [y] ∧ y.core = l.core ∧ y.handle = l.handle ∧ y.block = l.block ∧ y.op = b.op ∧
              y.dst = b.dst ∧ y.cmpl = b.cmpl ∧ y.arg = b.arg ∧ y.cls = p.cls ∧ y.last = decide (l.next + 1 = l.count))) ∧
        (alone → (∀ a, ¬ writesTo 1 0 a → galByte t a = galByte s a) ∧
          (∀ a, ¬ writesTo 2 0 a → dramByte t a = dramByte s a) ∧
          ∀ c a, ¬ writesTo 0 c a → benchByte t c a = benchByte s c a) ∧
        ∀ a d, b.src = galPlace a → b.dst = galPlace d → b.op = 0 → runCount b = 1 → b.ckVer = false → b.ckGen = false →
          (d + b.run ≤ a ∨ a + b.run ≤ d) → galGate s (some k) a b.run true = .go → galGate s (some k) d b.run false = .go →
          (moverAt t m).stopped = false ∧ (moverAt t m).prog = none ∧
            (∀ y, (moverAt t m).out.getLast? = some y → y.todo = [] ∧ y.bytes = b.run) ∧
            ∀ j < b.run, galByte t (d + j) = galByte s (a + j))

/-- R378, R379, R386 to R388, R394, R403: the completion action of the oldest outstanding block whose writes are done: nothing, a
tally add, a conveyor push of the block's handle, or the tags of its bench slots full; the block is then delivered. A push that
finds the conveyor full waits there. An object that is not the claim's raises SYNC_RANGE; an action on a window of another
module goes out to it. A block that passes its deadline in real-time mode raises DEADLINE_MISS and names that block. -/
def Obligations.MoverCompletions : Prop :=
  ∀ (s : State) (m : MoverId) (k : Nat) (o : OutBlock) (rest : List OutBlock),
    let v := moverAt s m
    let n := o.arg / 2 ^ 15
    let key (y : MovList) : Nat × Nat × Nat × Nat × Nat := (y.core, y.handle, y.count, y.next, y.block)
    let done (t : State) : Prop := exec (.completionAction m) s = .next t ∧ (moverAt t m).out = rest ∧
      (moverAt t m).delivered = wrapAdd 32 v.delivered 1 ∧ (moverAt t m).lists.map key = v.lists.map key ∧
      t.gallery = s.gallery ∧ t.dram = s.dram ∧ t.claims = s.claims
    engineClaim s (moverEngine m) = some k → moverRuns s m = true → v.out = o :: rest → o.todo = [] →
    (((placeOf o.dst).space ≠ 4 ∨ o.op = 7 ∨ o.cmpl = 0) →
      (o.cmpl = 0 → ∃ t, done t ∧ t.tallies = s.tallies ∧ t.conveyors = s.conveyors) ∧
      (o.cmpl = 1 → ownsTally s k n = true → ∃ t, done t ∧ tallyAt t n = tallyAt s n + BitVec.ofNat 32 (o.arg % 2 ^ 15) ∧
        ∀ x, x ≠ n → tallyAt t x = tallyAt s x) ∧
      (o.cmpl = 1 → ownsTally s k n = false → ∃ t, exec (.completionAction m) s = .next t ∧ taskFaulted k .syncRange 0 t ∧
        t.tallies = s.tallies ∧ (moverAt t m).stopped = true) ∧
      (o.cmpl = 2 → ownsConveyor s k (o.arg / 2 ^ 23) = true → v.pushing = false → ∀ y, y = conveyorAt s (o.arg / 2 ^ 23) →
        y.push = none →
        (y.handles.length < y.depth → y.pop = none →
          ∃ t, done t ∧ conveyorAt t (o.arg / 2 ^ 23) = { y with handles := y.handles ++ [blockHandle o] }) ∧
        (y.depth ≤ y.handles.length → ∃ t, exec (.completionAction m) s = .next t ∧ (moverAt t m).pushing = true ∧
          (moverAt t m).out = v.out ∧
          conveyorAt t (o.arg / 2 ^ 23) = { y with push := some ⟨.mover m, blockHandle o, o.cls⟩ })) ∧
      (o.cmpl = 3 → ∃ t, done t ∧ ∀ x, tagFull t (placeOf o.dst).sel x =
        if x ∈ blockSlots o then true else tagFull s (placeOf o.dst).sel x)) ∧
    ((placeOf o.dst).space = 4 → o.op ≠ 7 → ∀ op, o.cmpl ≠ 0 → remoteAction o = some op → v.pushing = false →
      pushOut s (moverEngine m) = false →
      let x := windowAt s (placeOf o.dst).sel
      let rank := fieldOf x.w5 55 50
      let w := fieldOf x.w5 63 56
      windowOut s (moverEngine m) rank w = false →
      reach s (moverEngine m) k rank w 0 op = .away → ∃ t, done t ∧
        t.fabric.outgoing = ⟨moverEngine m, k, rank, w, 0, op⟩ :: s.fabric.outgoing ∧ t.tallies = s.tallies) ∧
    (∀ i cls blk, (openBlocks v)[i]? = some (cls, blk) →
      ((claimAt s k).rtMode = true → cls ≠ 0 → ∃ t, exec (.blockDeadlineMiss ⟨m, i⟩) s = .next t ∧
        taskFaulted k .deadlineMiss 0 t ∧ (moverAt t m).stopped = true ∧
        (v.fault.fault = false → (moverAt t m).fault.code = 8 ∧ (moverAt t m).fault.block = blk % 65536)) ∧
      ((claimAt s k).rtMode = false ∨ cls = 0 → exec (.blockDeadlineMiss ⟨m, i⟩) s = .next s))

/-- R23, R26, R413, R432 to R438, R565: data between two dies crosses the ring bridge between them when they are adjacent, else
the hub bridges of both. A request parks at a port of its path, in its claim's own entry of the pending queue, else in the
lowest shared entry that is free, and backs off when there is none, to be presented again with its wait doubled, up to 1,024;
a port of a bridge whose die is off takes none. A grant takes a request of the slot's owner when one waits, else one of another
owner; requests of one owner and one input go in their order; the next slot follows; a DRAM port lets pass the opportunities
that its ceiling takes out, and a link's port stalls while the boundary FIFO is full. Requests of a group's claims stay while
the group re-forms. Of the slice ports that present requests to one bank in a beat one is served, in rotating priority, and the
others back off. -/
def Obligations.JunctionGrants : Prop :=
  (∀ (c : CoreId) (d : DieId), crossing (.core c) (.die d) =
    if d.val = dieOf c then none
    else if d.val = (dieOf c + 1) % 8 then some (28 + dieOf c, c.val % 16 / 4)
    else if d.val = (dieOf c + 7) % 8 then some (36 + dieOf c, c.val % 16 / 4) else some (12 + d.val, 12 + dieOf c)) ∧
  (∀ (s : State) (e : Engine) (dst : JctDest) (stage bytes input : Nat) (inbound : Option LinkId) (p : PortRef),
    let transit := inbound.isSome && (match dst with
      | .module _ _ => true
      | _ => false)
    let o := portOwner s e transit
    let q := pendingAt s p
    let used (i : Nat) : Prop := ∃ r ∈ q, r.entry = i
    (pathOf s e dst inbound)[stage]? = some (p, input) → bytes ≤ 4096 →
    ((portCarries s p = false ∨ ownerLive s o = false) → exec (.junctionRequest e dst stage bytes inbound) s = .next s) ∧
    (portCarries s p = true → ownerLive s o = true →
      (∀ i, (∃ k, o = .claim k ∧ i = k ∧ ¬ used k) ∨
          ((∀ k, o = .claim k → used k) ∧ 8 ≤ i ∧ i < 16 ∧ ¬ used i ∧ ∀ j, 8 ≤ j → j < i → used j) →
        ∃ x, exec (.junctionRequest e dst stage bytes inbound) s = .next x ∧
          x = { s with fabric := x.fabric, answer := .nothing } ∧ (∀ y, y ≠ p → pendingAt x y = pendingAt s y) ∧
          pendingAt x p = q ++ [{ owner := o, eng := e, input := input, bytes := bytes, entry := i, unit := destUnit dst }]) ∧
      ((∀ k, o = .claim k → used k) → (∀ j, 8 ≤ j → j < 16 → used j) →
        ∃ x, exec (.junctionRequest e dst stage bytes inbound) s = .next x ∧ x.answer = .waits ∧
          (∀ y, pendingAt x y = pendingAt s y) ∧
          (∀ t, p = .table t → (tableAt x t).refused = wrapAdd 32 (tableAt s t).refused 1) ∧
          (∀ d n, p = .slice d n → (sliceAt x (sliceNo d n)).refused = wrapAdd 32 (sliceAt s (sliceNo d n)).refused 1) ∧
          x.backoffs = s.backoffs ++ [⟨.junction p ⟨e, input, bytes, destUnit dst, transit⟩, 2⟩]))) ∧
  (∀ (s : State) (t : TableId) (rivals : List Nat),
    let v := tableAt s t
    let served := readyRequests s v.pending
    (portCarries s (.table t) = false ∨ portFlows s t = false ∨ served = [] → exec (.portGrant ⟨.table t, rivals⟩) s = .next s) ∧
    (portCarries s (.table t) = true → portFlows s t = true → served ≠ [] → (t.val = sumpPort → rivals = []) →
      (ceilingLets s t = false → ∃ x, exec (.portGrant ⟨.table t, rivals⟩) s = .next x ∧
        x = { s with fabric := { s.fabric with tables := x.fabric.tables } } ∧
        tableAt x t = { v with chance := (v.chance + 1) % 64 } ∧ ∀ j, j ≠ t.val → tableAt x j = tableAt s j) ∧
      (ceilingLets s t = true → ∃ r x, exec (.portGrant ⟨.table t, rivals⟩) s = .next x ∧
        x = { s with fabric := { s.fabric with tables := x.fabric.tables, sumpTurn := x.fabric.sumpTurn }, answer := x.answer } ∧
        (∀ j, j ≠ t.val → tableAt x j = tableAt s j) ∧ r ∈ served ∧
        ((∃ q ∈ served, q.owner = v.slots.getD v.next .openSlot) → r.owner = v.slots.getD v.next .openSlot) ∧
        served.find? (fun q => q.owner = r.owner ∧ q.input = r.input) = some r ∧
        (tableAt x t).pending = v.pending.filter (fun q => q.entry ≠ r.entry) ∧ (tableAt x t).next = (v.next + 1) % 64 ∧
        (tableAt x t).slots = v.slots ∧ x.answer = .number (engineId r.eng)))) ∧
  (∀ (s : State) (d : DieId) (n : Fin 19) (rivals : List Nat) (r : PortReq),
    let reaches (c : Fin 19) : Prop := c = n ∨ (c.val ∈ rivals ∧ ∃ y, sliceHead s d c = some y ∧ y.unit = r.unit)
    let turn := tget 0 s.fabric.bankTurn r.unit
    portCarries s (.slice d n) = true → sliceHead s d n = some r →
    ∃ w y x, exec (.portGrant ⟨.slice d n, rivals⟩) s = .next x ∧ reaches w ∧ sliceHead s d w = some y ∧
      (∀ c, reaches c → (turn ≤ w.val ∧ (turn ≤ c.val → w.val ≤ c.val)) ∨ (c.val < turn ∧ w.val ≤ c.val)) ∧
      x.answer = .number (engineId y.eng) ∧ tget 0 x.fabric.bankTurn r.unit = w.val + 1 ∧
      pendingAt x (.slice d w) = (pendingAt s (.slice d w)).filter (fun q => q.entry ≠ y.entry) ∧
      (∀ c z, reaches c → c ≠ w → sliceHead s d c = some z →
        pendingAt x (.slice d c) = (pendingAt s (.slice d c)).map (fun q =>
          if q.entry = z.entry then { q with lost := true, delay := min 1024 (2 * z.delay) } else q) ∧
        ⟨.loser (.slice d c) z.entry, min 1024 (2 * z.delay)⟩ ∈ x.backoffs) ∧
      ∀ c, ¬ reaches c → pendingAt x (.slice d c) = pendingAt s (.slice d c)) ∧
  ∀ (s : State) (i : Nat),
    let goesOn (u : State) : State := endDestroys (sendReplies (serveNets u))
    let others := s.backoffs.eraseIdx i
    (∀ p r d, s.backoffs[i]? = some ⟨.junction p r, d⟩ →
      (∀ j, freeEntry (pendingAt s p) (portOwner s r.eng r.transit) = some j →
        ∃ u, exec (.backoffRetry i) s = .next (goesOn u) ∧ u.backoffs = others ∧
          pendingAt u p = pendingAt s p ++ [{ owner := portOwner s r.eng r.transit, eng := r.eng, input := r.input
                                              bytes := r.bytes, entry := j, unit := r.unit }]) ∧
      (freeEntry (pendingAt s p) (portOwner s r.eng r.transit) = none →
        ∃ u, exec (.backoffRetry i) s = .next (goesOn u) ∧ pendingAt u p = pendingAt s p ∧
          u.backoffs = others ++ [⟨.junction p r, min 1024 (2 * d)⟩])) ∧
    (∀ p n d, s.backoffs[i]? = some ⟨.loser p n, d⟩ →
      ∃ u, exec (.backoffRetry i) s = .next (goesOn u) ∧ u.backoffs = others ∧
        pendingAt u p = (pendingAt s p).map fun q => if q.entry = n then { q with lost := false } else q) ∧
    ∀ w d, s.backoffs[i]? = some ⟨.wait w, d⟩ →
      let entries := (s.waits.filter fun y => tallyHome y.tally == tallyHome w.tally).length
      (reached (tallyAt s w.tally) w.target = true → ∀ c : CoreId, w.who = .seq c → (coreAt s c).seq.run = .waiting →
        ∃ u, exec (.backoffRetry i) s = .next (goesOn u) ∧ u.backoffs = others ∧
          (coreAt u c).seq.run = .running ∧ (coreAt u c).seq.pc = (followed (coreAt s c).seq).pc) ∧
      (reached (tallyAt s w.tally) w.target = false → entries < 256 →
        exec (.backoffRetry i) s = .next (goesOn { s with waits := s.waits ++ [w], backoffs := others })) ∧
      (reached (tallyAt s w.tally) w.target = false → 256 ≤ entries →
        exec (.backoffRetry i) s = .next (goesOn { s with backoffs := others ++ [⟨.wait w, min 1024 (2 * d)⟩] }))

/-- R404 to R413, R416, R419: on a link that is up, flits whose CRC is good for the sequence number that is due are delivered into
the receive buffers and pass to the inbound FIFO in order, and the next codeword acknowledges them and returns a credit for
each that has left its buffer; the first that fails is discarded
with every later one and a replay request names it; an acknowledgement frees the replay buffer up to its flit and credits
come back to at most 512. A replay sends again from the flit named; a flit replayed 16 times starts a retraining, as does
the first lane that fails; the second takes the link down. The flits of a link that goes down follow those of the other
link of its pair, before its later packets; with both down the engines of the lost packets get WIN_REFUSED. A packet of n
bytes takes ⌈(16 + n) / 60⌉ flits; a packet for another module goes from the inbound FIFO to its outbound link. -/
def Obligations.LinkFlits : Prop :=
  (∀ n, 60 * (packetFlits n - 1) < 16 + n ∧ 16 + n ≤ 60 * packetFlits n) ∧
  ∀ (s : State) (l : LinkId),
    let v := linkAt s l
    let due (i : Nat) (f : Flit) : Prop := flitCrc f.body (v.rxSeq + i) = f.crc
    let receive (fs : List Flit) (marked : Bool) (a : Option Nat) (cr : List (Fin 4 × Nat)) (t : State) : Prop :=
      exec (.flitReceive l fs true marked a cr) s = .next (serveNets t) ∧ t.cores = s.cores ∧ t.claims = s.claims ∧
        (∀ j, j ≠ l.val → linkAt t j = linkAt s j) ∧ (linkAt t l).corrected = wrapAdd 32 v.corrected 1 ∧
        (linkAt t l).uncorrected = wrapAdd 32 v.uncorrected (if marked then 1 else 0)
    let order (x : LinkState) : List (Nat × Nat) := x.sent.map (fun f => (f.vc, f.packet)) ++ x.outFifo ++ x.stalled
    (linkUp v = true → v.rxSeq < 4096 → s.fabric.replies = [] →
      (∀ (fs : List Flit) (a : Option Nat) (cr : List (Fin 4 × Nat)),
        (∀ i f, fs[i]? = some f → due i f) → v.rxBuf.length + fs.length ≤ 512 →
        ∃ t, receive fs false a cr t ∧ (linkAt t l).rxSeq = (v.rxSeq + fs.length) % 4096 ∧
          (linkAt t l).delivered = v.delivered + fs.length ∧ (linkAt t l).replays = v.replays ∧
          (linkAt t l).inFifo ++ (linkAt t l).rxBuf = v.inFifo ++ v.rxBuf ++ fs.map (fun f => ⟨f.vc, f.body⟩) ∧
          (linkAt t l).control.replay = (linkAt t l).askReplay ∧ (fs ≠ [] → (linkAt t l).askReplay = none ∧
            (linkAt t l).control.acked = some ((v.rxSeq + fs.length + 4095) % 4096)) ∧
          (v.owed.length = 4 → ∀ ch < 4, (linkAt t l).control.credits.getD ch 0 = v.owed.getD ch 0 +
            (((linkAt t l).inFifo.drop v.inFifo.length).filter fun f => f.vc = ch).length)) ∧
      (∀ (pre post : List Flit) (g : Flit) (marked : Bool),
        (∀ i f, pre[i]? = some f → due i f) → v.rxBuf.length + pre.length < 512 →
        (¬ due pre.length g ∨ marked = true) → (marked = true → pre = []) →
        ∃ t, receive (pre ++ g :: post) marked none [] t ∧ (linkAt t l).rxSeq = (v.rxSeq + pre.length) % 4096 ∧
          (linkAt t l).askReplay = some ((v.rxSeq + pre.length) % 4096) ∧
          (linkAt t l).control.replay = (linkAt t l).askReplay ∧
          (linkAt t l).delivered = v.delivered + pre.length ∧ (linkAt t l).replays = wrapAdd 32 v.replays 1) ∧
      (∀ (pre post : List SentFlit) (g : SentFlit) (ch : Fin 4) (n : Nat), v.sent = pre ++ g :: post →
        (∀ f ∈ pre, f.seq ≠ g.seq) → v.outFifo = [] → v.stalled = [] → v.credits.length = 4 →
        ∃ t, receive [] false (some g.seq) [(ch, n)] t ∧ (linkAt t l).sent = post ∧
          (linkAt t l).credits.getD ch.val 0 = min 512 (v.credits.getD ch.val 0 + n) ∧
          ∀ j, j ≠ ch.val → (linkAt t l).credits.getD j 0 = v.credits.getD j 0)) ∧
    (linkUp v = true → ∀ (pre post : List SentFlit) (g : SentFlit), v.sent = pre ++ g :: post → (∀ f ∈ pre, f.seq ≠ g.seq) →
      ∃ t, exec (.replayRequest l g.seq) s = .next t ∧
        (linkAt t l).sent = pre ++ (g :: post).map (fun f => { f with replays := f.replays + 1 }) ∧
        (linkAt t l).replays = wrapAdd 32 v.replays 1 ∧
        (linkAt t l).mode = (if (linkAt t l).sent.any (fun f => 16 ≤ f.replays) then .retraining else v.mode)) ∧
    (linkUp v = true → ∀ lane : Fin 8, v.lanes = [] → ∃ t, exec (.laneFailure l lane) s = .next t ∧
      (linkAt t l).mode = .retraining ∧ (linkAt t l).lanes = [lane.val] ∧ (linkAt t l).sent = v.sent ∧
      (linkAt t l).retrains = satAdd 0xFFFF v.retrains 1) ∧
    (v.mode = .retraining → v.lanes.length ≤ 1 → ∃ t, exec (.linkRetrainDone l true) s = .next t ∧
      (linkAt t l).mode = (if v.lanes = [] then .up8 else .up7) ∧ order (linkAt t l) = order v) ∧
    ((linkUp v = true ∨ v.mode = .retraining) →
      let q := linkAt s (pairOf l)
      let down (i : Instr) : Prop := ∃ t, exec i s = .next t ∧ (linkAt t l).mode = .down ∧ order (linkAt t l) = [] ∧
        ((linkUp q = true ∨ q.mode = .retraining) → t.claims = s.claims ∧ order (linkAt t (pairOf l)) =
          q.sent.map (fun f => (f.vc, f.packet)) ++ order v ++ q.outFifo ++ q.stalled) ∧
        (linkUp q = false → q.mode ≠ .retraining → ∀ p e k, s.fabric.packets = [p] → p.eng = some e →
          (∃ vc, (vc, p.no) ∈ order v) → engineRuns s e k = true → (∀ j, e = .collMover j → absorbed s p.dest 8 = false) → taskFaulted k .winRefused 8 t ∧ t.fabric.packets = [])
      down (.linkDown l) ∧ (v.mode = .retraining → down (.linkRetrainDone l false)) ∧
        ∀ lane : Fin 8, v.lanes ≠ [] → lane.val ∉ v.lanes → down (.laneFailure l lane)) ∧
    ∀ (dest : Rank) (n : Nat) (vc : Fin 4), linkUp v = true → dest.val ≠ programRank s →
      (∀ x, linkFor s l 0 dest = some x → ∃ t, exec (.transitPacket ⟨l, vc⟩ dest n) s = .next t ∧
        t.answer = .nothing ∧ order (linkAt t x.1) = order (linkAt s x.1) ++
          copies (packetFlits n) (2 * (vc.val / 2) +
            (if x.2 = 1 ∨ (vc.val % 2 = 1 ∧ x.1 / 4 = l.val / 4) then 1 else 0), s.fabric.packetNo) ∧
        (linkAt t l).inFifo ++ (linkAt t l).rxBuf = v.inFifo.drop (packetFlits n) ++ v.rxBuf ∧
        t.fabric.packets = s.fabric.packets ++ [⟨s.fabric.packetNo, dest, x.1, none, 0⟩] ∧ t.cores = s.cores ∧
        t.fabric.windows = s.fabric.windows) ∧
      (linkFor s l 0 dest = none →
        exec (.transitPacket ⟨l, vc⟩ dest n) s = .next { (takeInbound l (packetFlits n) s) with answer := .refused 8 })

/-- R422 to R426, R450: an access through an export is refused, in this order, for a window that is no open export (1), a
fenced one (2), a rank (3) or a claim (4) it does not list, a permission it lacks (5), a range beyond it (6), memory powered
down (7); a refused access has no effect, is counted, and the module keeps its first refusal. An accepted one is performed
in the window's memory, tallies or conveyors; a tagged write that its slot or an earlier access keeps waiting goes to a wait
register, and a push to a full conveyor waits there. The access leaves the inbound FIFO of its link, and what is performed or
refused is answered on the way back. -/
def Obligations.WindowAccesses : Prop :=
  ∀ (s : State) (a : RemoteAccess) (k : Nat),
    let w := a.window
    let v := windowAt s w
    let e : Engine := .remote a.fromRank a.fromClaim
    let p := winPlace v a.offset
    let s1 := takeInbound a.link (packetFlits (requestBytes a.op)) s
    let answers (t : State) : Prop :=
      exec (.inboundWindowAccess a) s = .next (sendReplies (owesReply e (answerBytes t.answer) t))
    let refusedAs (code : Nat) : Prop := ∃ t, answers t ∧ t.answer = .refused code ∧
      t = { s with fabric := t.fabric, answer := t.answer } ∧ windowAt t w = { v with refused := wrapAdd 32 v.refused 1 } ∧
      (∀ x, x ≠ w.val → windowAt t x = windowAt s x) ∧
      t.fabric.refuseFirst = (if s.fabric.refuseFirst.refused then s.fabric.refuseFirst
        else ⟨true, w.val, a.fromRank.val, a.fromClaim.val, code⟩)
    let sound (n : Nat) : Prop := (1 < n → v.kind = 1) ∧ (2 < n → (claimAt s k).fenced = false) ∧
      (3 < n → v.w3.getLsbD a.fromRank.val = true) ∧ (4 < n → v.w0.getLsbD (46 + a.fromClaim.val) = true) ∧
      (5 < n → winAllows v a.op = true) ∧ (6 < n → winReaches v a.offset a.op = true) ∧
      (7 < n → winOff s v a.offset a.op = false)
    (windowOwner s w = none → refusedAs 1) ∧
    (windowOwner s w = some k →
      (v.kind ≠ 1 → refusedAs 1) ∧
      (sound 2 → (claimAt s k).fenced = true → refusedAs 2) ∧
      (sound 3 → v.w3.getLsbD a.fromRank.val = false → refusedAs 3) ∧
      (sound 4 → v.w0.getLsbD (46 + a.fromClaim.val) = false → refusedAs 4) ∧
      (sound 5 → winAllows v a.op = false → refusedAs 5) ∧
      (sound 6 → winReaches v a.offset a.op = false → refusedAs 6) ∧
      (sound 7 → winOff s v a.offset a.op = true → refusedAs 7) ∧
      (sound 8 →
        (∀ n, a.op = .read n → targetGate s k p n true = .go →
          (p.space ≠ 0 → answers { s1 with answer := .data (placeBytes s p n) }) ∧
          (p.space = 0 → accessBehind s p.sel e .pNet p.off n false .plain = false →
            answers { (countPort p.sel .pNet (linesIn p.off n) s1) with answer := .data (placeBytes s p n) })) ∧
        (∀ d crc, a.op = .write d .plain crc → targetGate s k p d.length false = .go → p.space = 1 →
          ∃ t, answers t ∧ t.cores = s.cores ∧ t.dram = s.dram ∧
            t.answer = (if crc.all (fun x => x = crc32c d) then .nothing else .badChecksum) ∧
            ∀ b, galByte t b = if p.off ≤ b ∧ b < p.off + d.length then d.getD (b - p.off) 0 else galByte s b) ∧
        (∀ d crc, a.op = .write d .pass crc → targetGate s k p d.length false = .go → p.space = 0 →
          (accessWaits s p.sel e .pNet p.off d.length true .pass = false →
            ∃ t, answers t ∧
              (∀ b, benchByte t p.sel b =
                if p.off ≤ b ∧ b < p.off + d.length then d.getD (b - p.off) 0 else benchByte s p.sel b) ∧
              (∀ x, tagFull t p.sel x = if x ∈ unitsIn 1024 p.off d.length then true else tagFull s p.sel x) ∧
              t.gallery = s.gallery) ∧
          (accessWaits s p.sel e .pNet p.off d.length true .pass = true →
            ∃ t, exec (.inboundWindowAccess a) s = .next t ∧ t.answer = .waits ∧
              (∀ b, benchByte t p.sel b = benchByte s p.sel b) ∧
              (waitRegisters s p.sel .pNet e = true → (coreAt t p.sel).bench.held = (coreAt s p.sel).bench.held ++
                [{ eng := e, port := .pNet, offset := p.off, op := .access (.write d), mark := .pass, isWrite := true
                   owner := some k, win := some (if s.group.stage = .none then 0 else s.group.rank, w.val) }]))) ∧
        (∀ n d, a.op = .tallyAdd n d → ∃ t, answers t ∧ t.answer = .nothing ∧ tallyAt t n = tallyAt s n + d ∧
          (∀ m, m ≠ n → tallyAt t m = tallyAt s m) ∧ t.gallery = s.gallery) ∧
        (∀ n lo hi, a.op = .convPush n lo hi → ∀ c, c = conveyorAt s n → c.push = none →
          (c.handles.length < c.depth → c.pop = none → ∃ t, answers t ∧ t.answer = .nothing ∧
            conveyorAt t n = { c with handles := c.handles ++ [⟨lo, hi⟩] }) ∧
          (c.depth ≤ c.handles.length → ∃ t, exec (.inboundWindowAccess a) s = .next t ∧ t.answer = .waits ∧
            conveyorAt t n = { c with push := some { who := .net e, handle := ⟨lo, hi⟩ } })) ∧
        (∀ kd d, a.op = .accumulate kd d none → p.space = 1 → p.off % 4 = 0 → d.length % 4 = 0 →
          galGate s (some k) p.off (max 1 d.length) (!d.isEmpty) = .go →
          let r : AccReq := ⟨e, p.off, kd, d, none⟩
          ∃ t, answers t ∧ t = { (applyAcc r (accData r s1) s1) with answer := .nothing } ∧
            ∀ b, b < p.off ∨ p.off + d.length ≤ b → galByte t b = galByte s b)))

/-- R423 to R426, R450, R453: the claim's function opens an export only for a region of 1 KiB units that it owns, with its own
tallies and conveyors, else the window stays closed and the attempt is counted; it opens imports and closes windows; another
function's write has no effect and is counted. A refusal that comes back to an engine raises WIN_REFUSED with its code, but for a refusal of an unreachable member that a
collective mover takes as MEMBER_LOST. -/
def Obligations.WindowDescriptors : Prop :=
  ∀ (s : State) (f : FnId) (w : WinId) (word0 : W64) (k : Nat),
    let v := windowAt s w
    let only (i : Instr) (x : Window) : Prop := ∃ t, exec i s = .next t ∧
      t = { s with fabric := { s.fabric with windows := t.fabric.windows } } ∧ windowAt t w = x ∧
      ∀ j, j ≠ w.val → windowAt t j = windowAt s j
    let denies (i : Instr) : Prop := ∃ t, exec i s = .next t ∧ t = { s with ras := t.ras } ∧
      t.ras.bar.count = wrapAdd 32 s.ras.bar.count 1
    (windowOwner s w = some k → actsFor s f k = true →
      (∀ x, x = { v with w0 := word0 &&& 0x077FC00000000000 } →
        (exportFits s k x = true → only (.windowOpenExport f w word0) { x with kind := 1 }) ∧
        (exportFits s k x = false →
          only (.windowOpenExport f w word0) { v with kind := 0, refused := wrapAdd 32 v.refused 1 }) ∧
        only (.windowOpenImport f w word0) { x with kind := 2 }) ∧
      only (.windowClose f w) { v with kind := 0 }) ∧
    ((windowOwner s w = none ∨ (windowOwner s w = some k ∧ actsFor s f k = false)) →
      denies (.windowOpenExport f w word0) ∧ denies (.windowOpenImport f w word0) ∧ denies (.windowClose f w)) ∧
    (∀ x, exportFits s k x = true → winSize x % 1024 = 0 ∧ winSize x ≠ 0 ∧
      ((placeOf x.w1).space = 1 → ∀ b, galBank (placeOf x.w1).off ≤ b → b ≤ galBank ((placeOf x.w1).off + winSize x - 1) →
        bankOwner s b = some k)) ∧
    (∀ (e : Engine) (rank : Rank) (code : Fin 9), code.val ≠ 0 → engineRuns s e k = true →
      (∀ j, e = .collMover j → absorbed s rank code = false) → ∃ t, exec (.winRefused e w rank code) s = .next t ∧ taskFaulted k .winRefused code t ∧ t.gallery = s.gallery ∧
        (∀ c : CoreId, e = .netPort c → (coreAt s c).net.fault.fault = false →
          (coreAt t c).net.fault = ⟨true, 1, code.val, w.val, rank.val⟩) ∧
        (∀ m, e = .hubMover m → (moverAt t (.hub m)).stopped = true))

/-- R440 to R446, R452, R647: a claim acquires the lowest free slot of the pool within its reservation, else SUMP_FULL is
counted, and releases it. A barrier slot counts arrivals of its generation; at the target every waiting arrival completes
and the generation moves on. A reduction slot takes part after part; once all are there the combined value, in ascending
part index, answers every result, and after as many results as parts a new round begins. An atomic slot takes each element
at once. A request to a slot that is not the claim's, of the wrong mode, to an old generation, of a part written already, or
out of range raises SUMP_OP with reason 1 to 5; an error of an adder that is no multiple of 3 fails its residue check: nothing is
combined, the adder is fenced and SUMP_RESIDUE is raised, and with the last adder fenced the module has failed (R651). -/
def Obligations.SumpSlots : Prop :=
  ∀ (s : State) (k : ClaimId) (i : SlotId),
    let v := sumpAt s i
    let only (t : State) (x : SumpSlot) : Prop := t = { s with fabric := t.fabric, answer := t.answer } ∧ sumpAt t i = x ∧
      ∀ j, j ≠ i.val → sumpAt t j = sumpAt s j
    let wrong (c : Instr) (reason : Nat) : Prop := ∃ t, exec c s = .next t ∧ taskFaulted k .sumpOp reason t ∧
      (∀ j, sumpAt t j = sumpAt s j) ∧ t.fabric.sumpDone = s.fabric.sumpDone ∧
      (s.fabric.sumpFault.fault = false → t.fabric.sumpFault = ⟨true, 1, reason, k.val, i.val⟩)
    let fencesAll : Prop := s.ras.sumpFenced ≠ 0xFFFF ∧ setWith s.ras.sumpFenced (sumpAdder s i) = 0xFFFF
    let broken (c : Instr) : Prop := (fencesAll → ∃ u, exec c s = .next (moduleFault u) ∧ u.ras.sumpFenced = 0xFFFF) ∧
      (¬ fencesAll → ∃ t, exec c s = .next t ∧ taskFaulted k .sumpResidue 0 t ∧
      (sumpAt t i).combined = v.combined ∧ (sumpAt t i).results = v.results ∧ t.ras.fence = true ∧
      inSet t.ras.sumpFenced (sumpAdder s i) = true)
    taskLive s k = true →
    ((claimAt s k).sump ≤ sumpInUse s k → ∃ t, exec (.sumpAcquire k) s = .next t ∧ t.answer = .sumpFull ∧
      t.fabric = s.fabric ∧ (claimAt t k).sumpFull = wrapAdd 32 (claimAt s k).sumpFull 1) ∧
    (sumpInUse s k < (claimAt s k).sump → 512 ≤ i.val → v.acquired = none →
      (∀ j, 512 ≤ j → j < i.val → (sumpAt s j).acquired ≠ none) →
      ∃ t, exec (.sumpAcquire k) s = .next t ∧ only t { acquired := some k.val } ∧ t.answer = .number i.val) ∧
    (sumpMine s k i = false → ∀ g who part data op ty mode, wrong (.sumpRelease k i) 1 ∧ wrong (.sumpConfigure k i mode) 1 ∧
      wrong (.sumpArrive k i g who) 1 ∧ wrong (.sumpContribute k i part data none) 1 ∧ wrong (.sumpResult k i who) 1 ∧
      wrong (.sumpAtomic k i op ty data none) 1) ∧
    (sumpMine s k i = true →
      (512 ≤ i.val → ∃ t, exec (.sumpRelease k i) s = .next t ∧ only t {}) ∧
      (i.val < 512 → wrong (.sumpRelease k i) 2) ∧
      (∀ mode, modeFits mode = true → ∃ t, exec (.sumpConfigure k i mode) s = .next t ∧
        only t { v with mode := mode, count := 0, written := 0, combined := none, results := 0 }) ∧
      (∀ target g who, v.mode = .barrier target →
        (g ≠ v.gen → wrong (.sumpArrive k i g who) 3) ∧
        (g = v.gen → v.count + 1 ≠ target → ∃ t, exec (.sumpArrive k i g who) s = .next t ∧
          only t { v with count := v.count + 1, waiting := v.waiting ++ [who] }) ∧
        (g = v.gen → v.count + 1 = target → ∃ t, exec (.sumpArrive k i g who) s = .next t ∧
          only t { v with count := 0, gen := v.gen + 1, waiting := [] } ∧
          ∀ x, (x ∈ v.waiting ∨ x = who) → ⟨i.val, x, [], false⟩ ∈ t.fabric.sumpDone) ∧
        wrong (.sumpResult k i who) 2) ∧
      (∀ n ty op part data who, v.mode = .reduction n ty op → part < n → n ≤ 64 →
        let x := { v with written := setWith v.written part, bytes := tputN 0 v.bytes (4096 / n * part) data }
        (4096 / n < data.length → wrong (.sumpContribute k i part data none) 5) ∧
        (data.length ≤ 4096 / n → inSet v.written part = true → wrong (.sumpContribute k i part data none) 4) ∧
        (data.length ≤ 4096 / n → inSet v.written part = false →
          ((∃ j, j < n ∧ j ≠ part ∧ inSet v.written j = false) →
            ∃ t, exec (.sumpContribute k i part data none) s = .next t ∧ only t x) ∧
          ((∀ j, j < n → j ≠ part → inSet v.written j = true) →
            (v.waiting = [] → v.results < n → ∃ t, exec (.sumpContribute k i part data none) s = .next t ∧
              only t { x with combined := combineParts x n ty op none }) ∧
            ∀ e, combineParts x n ty op (some e) = none → broken (.sumpContribute k i part data (some e)))) ∧
        (∀ r, v.combined = some r → v.results + 1 < n → ∃ t, exec (.sumpResult k i who) s = .next t ∧
          t.answer = .data r ∧ sumpAt t i = { v with results := v.results + 1 }) ∧
        (∀ r, v.combined = some r → v.results + 1 = n → ∃ t, exec (.sumpResult k i who) s = .next t ∧ t.answer = .data r ∧
          sumpAt t i = { v with written := 0, combined := none, results := 0, gen := v.gen + 1 }) ∧
        (v.combined = none → ∃ t, exec (.sumpResult k i who) s = .next t ∧ t.answer = .waits ∧
          only t { v with waiting := v.waiting ++ [who] })) ∧
      (∀ ty op data, v.mode = .atomic → data.length ≤ 4096 →
        let new := combineBytes ty op (data.length / redBytes ty) (tgetN 0 v.bytes 0 data.length) data
        (∃ t, exec (.sumpAtomic k i op ty data none) s = .next t ∧ only t { v with bytes := tputN 0 v.bytes 0 new }) ∧
        ∀ e, combineUpset ty op (data.length / redBytes ty) (tgetN 0 v.bytes 0 data.length) data (some e) = none →
          broken (.sumpAtomic k i op ty data (some e)))) ∧
    (∀ a b, redElem .int32 .add a b = (a + b) % 2 ^ 32) ∧
    ∀ (m : Nat) (xs ys : List Byte) (e : AdderErr), e.elem < m →
      let elemOf (zs : List Byte) : W32 := BitVec.ofNat 32 (leNat ((zs.drop (4 * e.elem)).take 4))
      (combineUpset .int32 .add m xs ys (some e) = none ↔ e.err % 3 ≠ 0) ∧
      (isFin (num32 (elemOf xs)) = true → isFin (num32 (elemOf ys)) = true →
        (combineUpset .fp32 .add m xs ys (some e) = none ↔ e.err % 3 ≠ 0))

/-- R454 to R456, R462 to R464, R468, R478, R480, R484, R485: a CSTEP whose descriptor keeps the rules starts a call on the next
of its claim's collective movers and leaves the net queue; a reserved operation raises COLL_DESC, reason 1. A chunk that is
due is counted on its stream; one whose sender's parameters differ raises COLL_MISMATCH with the reason, one with a bad
checksum TILE_CRC, reason 4, one with a bad residue COLL_RESIDUE, and the mover's combine unit is fenced. A call whose
outputs are all performed completes: its record is written and its claim's count of calls grows. An error of the combine unit
that is no multiple of 3 is what the residue finds. -/
def Obligations.CollectiveCalls : Prop :=
  (∀ (v : CollCall) (o n : Nat) (data vec : List Byte), data.length = n →
    (∃ x, applyChunk v .copy [(o, n)] data none vec = some x ∧ vecSlice x o n = data) ∧
    (n % redBytes (callType v) = 0 → ∃ x, applyChunk v .ownFirst [(o, n)] data none vec = some x ∧ vecSlice x o n =
      combineBytes (callType v) (callRed v) (n / redBytes (callType v)) (vecSlice vec o n) data) ∧
    (∀ e, callType v = .int32 → callRed v = .add → e.elem < n / 4 → e.err % 3 ≠ 0 →
      applyChunk v .ownFirst [(o, n)] data (some e) vec = none)) ∧
  ∀ (s : State) (c : CoreId) (k : Nat),
    coreOwner s c = some k →
    (∀ (w : W64) (m : Nat),
      let h := fieldOf w 57 41
      let v0 := callOf s c m h
      let v := { v0 with algo := chooseAlgo v0 }
      runs s c .cstep w = true → (coreAt s c).net.queue = [] → (coreAt s c).net.due = [] → (coreAt s c).seq.run ≠ .waiting →
      nextCollMover s k = some m → m < 16 → callsOfClaim s k < 8 → callStuck s k c h = false →
      gates (fun o n => benchGate s c o n true) (callReads s c h) = .go →
      (10 < fieldOf (wordAt (benchWords s c (64 * h) 8) 0) 63 60 → engineClaim s (.collMover (Fin.ofNat 16 m)) = some k →
        ∃ t, exec (.cstep c) s = .next t ∧ taskFaulted k .collDesc 1 t ∧ callsAt t c = callsAt s c ∧
          (collMoverAt t m).state = 5 ∧
          (s.coll.fault.fault = false → t.coll.fault.code = 1 ∧ t.coll.fault.reason = 1 ∧ t.coll.fault.claim = k)) ∧
      (callReason s k c v (streamCount (callOp v) v.algo false (collDims s v.group v.ranks)) = none →
        (callOp v = 0 ∨ v.algo ≠ 1) → (isRows (callOp v) = false ∨ collGate s k (wordAt v.words 6) (4 * callSize v) true = .go) →
        talliesOwned s k (plannedCall s v) = true →
        ∃ t, exec (.cstep c) s = .next t ∧ (coreAt t c).net.queue = [] ∧ (callsAt t c).length = (callsAt s c).length + 1 ∧
          regsBut c [] s t ∧ wentOn (coreAt s c).seq (coreAt t c).seq ∧ (collMoverAt t m).claim = k)) ∧
    (∀ (n q peer : Nat) (ps : List W64) (data : List Byte) (crc : W32) (v : CollCall) (r : CollRecv) (rest : List CollRecv),
      taskLive s k = true → (callsAt s c)[n]? = some v → v.recvs.getD q [] = r :: rest → r.peer = peer →
      data.length = regionsLen r.regions → (r.mode = .copy ∨ inputReady v r.regions = true) → q < v.got.length →
      v.mover < 16 → engineClaim s (.collMover (Fin.ofNat 16 v.mover)) = some k →
      ((peer ∈ v.heard ∨ paramsDiffer v peer ps = none) → r.final = false →
          (r.stock = true → stockGate s v q data.length = .go ∧ crc = crc32c data) →
        (applyChunk v r.mode r.regions data none v.vec ≠ none →
          ∃ t y, exec (.collectiveChunk c n q peer ps data crc none) s = .next t ∧ (callsAt t c)[n]? = some y ∧
          y.got.getD q 0 = v.got.getD q 0 + 1 ∧ y.recvs.getD q [] = rest) ∧
        (∀ e, applyChunk v r.mode r.regions data (some e) v.vec = none →
          ∃ t y, exec (.collectiveChunk c n q peer ps data crc (some e)) s = .next t ∧
          taskFaulted k .collResidue 0 t ∧ (callsAt t c)[n]? = some y ∧ y.vec = v.vec ∧ y.got = v.got ∧
          inSet t.ras.collFenced v.mover = true)) ∧
      ((peer ∈ v.heard ∨ paramsDiffer v peer ps = none) → r.stock = true → stockGate s v q data.length = .go →
        crc ≠ crc32c data → ∀ u, ∃ t, exec (.collectiveChunk c n q peer ps data crc u) s = .next t ∧ taskFaulted k .tileCrc 4 t) ∧
      (∀ reason, peer ∉ v.heard → paramsDiffer v peer ps = some reason →
        ∀ u, ∃ t, exec (.collectiveChunk c n q peer ps data crc u) s = .next t ∧ taskFaulted k .collMismatch reason t ∧
          callsAt t c = callsAt s c ∧ t.gallery = s.gallery)) ∧
    ∀ (n : Nat) (v : CollCall),
      let a := wordAt v.words 5
      taskLive s k = true → (callsAt s c)[n]? = some v → callFinished v = true → callBehind s k v = false →
      collGate s k a (recordBytes v) false = .go → v.drops.table = [] → (∀ j, (coreAt s j).net.queue = [] ∧ (coreAt s j).net.due = []) → v.slots = [] →
      ∃ t, exec (.collectiveComplete c n) s = .next t ∧ callsAt t c = (callsAt s c).take n ++ (callsAt s c).drop (n + 1) ∧
        (claimAt t k).collCalls = wrapAdd 32 (claimAt s k).collCalls 1 ∧ (claimAt t k).collLost = (claimAt s k).collLost ∧
        (collMoverAt t v.mover).state = 0 ∧ placeBytes t (placeOf a) 64 = (collRecord v none).take 64 ∧
        (∀ x, tallyAt t x = if x = callField v 4 45 29 then tallyAt s x + BitVec.ofNat 32 (doneAdds v) else tallyAt s x)

/-- R499, R500, R502, R503, R515: a queue pair in state 1 resends from its oldest unacknowledged packet on a sequence NAK, on an
acknowledgement timeout and after an RNR wait, while its retries last, and once its port can send; another NAK, a retry too
many or a port that is down past the timeout puts it in state 2. A CNP past the cut gap cuts the rate by half of alpha and keeps the old rate as
target; each increase period halves the distance to the target. Word 0 with state 1 starts a queue pair in state 0 whose
fields are in range; state 0 resets one in state 2; a write in another state is recorded only, HAUL_DESC 7. -/
def Obligations.QueuePairs : Prop :=
  ∀ (s : State) (q : HaulId),
    let v := qpAt s q
    let others (t : State) : Prop := (∀ j, j ≠ q.val → qpAt t j = qpAt s j) ∧ t.gallery = s.gallery ∧ t.cores = s.cores
    let resent (t : State) (n w : Nat) (r : Bool) : Prop := others t ∧ t.haul.wire = (v.sent.reverse.map fun p => (q.val, p.pkt)) ++ s.haul.wire ∧
      qpAt t q = { v with retransmits := wrapAdd 32 v.retransmits v.sent.length, tries := n, rnrTries := w, rnrWait := r
                          resendDue := false }
    let due (t : State) (n : Nat) (r : Bool) : Prop := others t ∧ t.haul.wire = s.haul.wire ∧
      qpAt t q = { v with tries := n, rnrWait := r, resendDue := true }
    let again (t : State) (n : Nat) : Prop := if qpSends s q then resent t n v.rnrTries v.rnrWait else due t n v.rnrWait
    let failed (i : Instr) : Prop := ∃ t, exec i s = .next t ∧ (qpAt t q).state = 2 ∧ (∀ k n r, recvOfQp s q = some (k, n, r) →
      (policyOf (streamAt s n) = 0 → taskLive s k = true → handsNow s k n = true → taskFaulted k .haulQpErr 0 t) ∧
      (policyOf (streamAt s n) ≠ 0 → r < (streamAt s n).recvs.length → (recvAt (streamAt s n) r).shed = false →
          (recvAt (streamAt s n) r).finished = false →
        (recvAt (streamAt t n) r).shed = true ∧ (recvAt (streamAt t n) r).shedCause = 3 ∧ t.claims = s.claims))
    (v.state = 1 →
      (v.tries < qpRetry v → ∃ t, exec (.nak q .sequence) s = .next t ∧ again t (v.tries + 1) ∧
        (portAt t (qpPort v)).naks = wrapAdd 32 (portAt s (qpPort v)).naks 1) ∧
      (qpRetry v ≤ v.tries → failed (.nak q .sequence)) ∧
      failed (.nak q .remoteAccess) ∧ failed (.nak q .remoteOperation) ∧
      ((qpRnrRetry v = 7 ∨ v.rnrTries < qpRnrRetry v) → ∃ t, exec (.rnrNak q) s = .next t ∧ others t ∧
        qpAt t q = { v with rnrTries := v.rnrTries + 1, rnrWait := true } ∧ t.haul.wire = s.haul.wire) ∧
      (qpRnrRetry v ≠ 7 → qpRnrRetry v ≤ v.rnrTries → failed (.rnrNak q)) ∧
      (v.rnrWait = true → v.waiting = [] → ∃ t, exec (.rnrWaitExpiry q) s = .next t ∧
        if qpSends (setQp s q { v with rnrWait := false }) q then resent t v.tries v.rnrTries false else due t v.tries false) ∧
      ((portAt s (qpPort v)).up = false → failed (.ackTimeout q)) ∧
      ((portAt s (qpPort v)).up = true → v.sent ≠ [] → v.tries < qpRetry v →
        ∃ t, exec (.ackTimeout q) s = .next t ∧ again t (v.tries + 1)) ∧
      ((portAt s (qpPort v)).up = true → v.sent ≠ [] → qpRetry v ≤ v.tries → failed (.ackTimeout q)) ∧
      (∀ since, s.haul.cutGap ≤ since → ∃ t, exec (.cnp q since) s = .next t ∧ others t ∧ qpAt t q = { v with
        cnps := wrapAdd 32 v.cnps 1, target := v.rate, n := 0
        rate := mulDyadic v.rate (subDyadic ⟨1, 0⟩ ⟨v.alpha.m, v.alpha.e - 1⟩)
        alpha := addDyadic (mulDyadic (subDyadic ⟨1, 0⟩ ⟨Int.ofNat s.haul.gain, -8⟩) v.alpha) ⟨Int.ofNat s.haul.gain, -8⟩ }) ∧
      (∀ since, since < s.haul.cutGap → ∃ t, exec (.cnp q since) s = .next t ∧ others t ∧
        qpAt t q = { v with cnps := wrapAdd 32 v.cnps 1 }) ∧
      (∃ t, exec (.rateIncrease q) s = .next t ∧ others t ∧ (qpAt t q).n = v.n + 1 ∧
        (v.n < 5 → (qpAt t q).target = v.target) ∧
        (qpAt t q).rate = ⟨(addDyadic v.rate (qpAt t q).target).m, (addDyadic v.rate (qpAt t q).target).e - 1⟩)) ∧
    (∀ (pre post : List SentPkt) (p : SentPkt), v.sent = pre ++ p :: post → (∀ x ∈ pre, x.pkt.psn ≠ p.pkt.psn) →
      p.pkt.psn < 2 ^ 24 → recvOfQp s q = none → ∃ t, exec (.acknowledge q (BitVec.ofNat 24 p.pkt.psn)) s = .next t ∧
        others t ∧ qpAt t q = { v with sent := post, tries := 0, rnrTries := 0 }) ∧
    (∀ (f : FnId) (w : W64) (k : Nat), qpOwner s q = some k →
      let u := { v with w0 := w &&& 0x07FFFFFFFF000000, psn := fieldOf w 23 0 }
      let noted (i : Instr) (reason : Nat) (x : QueuePair) : Prop := ∃ t, exec i s = .next t ∧ others t ∧ qpAt t q = x ∧
        (s.haul.fault.fault = false → t.haul.fault = ⟨true, 1, reason, k, 0, q.val - (claimAt s k).qpBase⟩)
      (actsFor s f k = true → v.state = 0 → qpFits u = true → ∃ t, exec (.qpReady f q w) s = .next t ∧ others t ∧
        (qpAt t q).state = 1 ∧ (qpAt t q).psn = fieldOf w 23 0 ∧ (qpAt t q).sent = [] ∧ (qpAt t q).w4 = v.w4) ∧
      (actsFor s f k = true → v.state = 0 → qpFits u = false → noted (.qpReady f q w) 1 u) ∧
      (actsFor s f k = true → v.state ≠ 0 → noted (.qpReady f q w) 7 v) ∧
      (actsFor s f k = true → v.state = 2 → ∃ t, exec (.qpReset f q) s = .next t ∧ others t ∧ (qpAt t q).state = 0 ∧
        (qpAt t q).sent = []) ∧
      (actsFor s f k = true → v.state = 1 → noted (.qpReset f q) 7 v) ∧
      (actsFor s f k = false → ∃ t, exec (.qpReset f q) s = .next t ∧ t.haul = s.haul ∧
        t.ras.bar.count = wrapAdd 32 s.ras.bar.count 1)) ∧
    ∀ (e : Fin 2) (prio : Fin 8) (pause : Bool),
      let x := portAt s e
      let port (i : Instr) (y : EthPort) : Prop := ∃ t, exec i s = .next t ∧ portAt t e = y ∧
        t = { s with haul := { s.haul with ports := t.haul.ports } } ∧ ∀ j, j ≠ e.val → portAt t j = portAt s j
      let flushed (i : Instr) (y : EthPort) : Prop := exec i s = .next (flushPort e (modPort s e fun _ => y)) ∧
        ((∀ z ∈ s.haul.qps, qpPort z.2 ≠ e.val) → port i y)
      port (.inboundPacketDrop e) { x with dropped := wrapAdd 32 x.dropped 1 } ∧
      flushed (.pfcPause e prio pause) (if x.pfc = prio.val then { x with paused := pause } else x) ∧
      port (.ethernetPortDown e) { x with up := false, paused := false } ∧ flushed (.ethernetPortUp e) { x with up := true }

/-- R486, R488 to R493: a piece that a core hands to a stream that may take it goes into its frame's buffer, and the hand
completes: every element and scale lies at its place, nothing else of the gallery changes, and the piece counts; where the
frame has no buffer, the lowest free one is bound to it and zeroed first, and with every buffer bound the piece waits. The
piece that makes a frame complete queues it for every receiver. A piece past the stream's tokens is dropped. A piece that its
CRC-32C does not fit raises TILE_CRC 5, and one that the stream may not take HAUL_DESC with the reason. -/
def Obligations.HaulHands : Prop :=
  ∀ (s : State) (c : CoreId) (k : Nat) (p : HandPiece) (rest : List HandPiece) (flips : List (Nat × Byte)),
    coreOwner s c = some k → (coreAt s c).drs.hands = p :: rest → taskLive s k = true →
    (∀ r, handReason s k p = some r → ∃ t, exec (.haulHand c flips) s = .next t ∧ taskFaulted k .haulDesc r t ∧
      (coreAt t c).drs.hands = rest ∧ t.gallery = s.gallery ∧
      (s.haul.fault.fault = false → t.haul.fault = ⟨true, 1, r, k, p.stream, 0⟩)) ∧
    (∀ n, handReason s k p = none → streamNo s k p.stream = some n →
      let v := streamAt s n
      let ws := pieceWrites v (arrivedPiece flips p)
      let page := p.token / pageTokens v
      let good := crc32c (flipped flips (p.data ++ p.scales)) = crc32c (p.data ++ p.scales)
      let handed (t : State) : Prop := exec (.haulHand c flips) s = .next t ∧ (coreAt t c).drs.hands = rest ∧
        t.claims = s.claims ∧ (streamAt t n).task = some (taskNo s k)
      let outside (o a : Nat) : Prop := ∀ w ∈ ws, a < o + w.1 ∨ o + w.1 + w.2.length ≤ a
      (flips = [] → good ∧ ws = pieceWrites v p) ∧
      (tokensOf v ≤ p.token → ∃ t, handed t ∧ t.gallery = s.gallery ∧ (streamAt t n).buffers = v.buffers) ∧
      (p.token < tokensOf v → ∀ f b, bufferOf v p.layer page = some f → tget none v.buffers f = some b →
        let o := bufferAt v f
        pieceGate s k o ws = .go →
        (good → b.pieces + 1 ≠ framePieces v b.page → ∃ t, handed t ∧
          tget none (streamAt t n).buffers f = some { b with pieces := b.pieces + 1 } ∧
          (∀ a, outside o a → galByte t a = galByte s a) ∧ (∀ w, ws = [w] → galBytes t (o + w.1) w.2.length = w.2)) ∧
        (good → b.pieces + 1 = framePieces v b.page → pageCovered v b.page = true → v.recvs ≠ [] →
          (∀ x ∈ v.recvs, x.shed = false ∧ x.toSpill = [] ∧ x.spill = []) →
          ∃ t, handed t ∧ (streamAt t n).completed = v.completed + 1 ∧
            tget none (streamAt t n).buffers f = some { b with pieces := b.pieces + 1, complete := true, released := 0 } ∧
            (streamAt t n).recvs = v.recvs.map fun x => { x with queue := x.queue ++ [f] }) ∧
        (¬ good → ∃ t, exec (.haulHand c flips) s = .next t ∧ t.gallery = s.gallery ∧
          (engineClaim s (.netPort c) = some k → taskFaulted k .tileCrc 5 t))) ∧
      (p.token < tokensOf v → bufferOf v p.layer page = none →
        (freeBuffer v = none → exec (.haulHand c flips) s = .next s) ∧
        ∀ f, freeBuffer v = some f → good →
          let o := bufferAt v f
          galGate s (some k) o (frameBytes v) false = .go → pieceGate s k o ws = .go → 1 ≠ framePieces v page →
          ∃ t, handed t ∧ tget none (streamAt t n).buffers f = some { layer := p.layer, page := page, pieces := 1 } ∧
            ∀ a, outside o a →
              galByte t a = if o ≤ a ∧ a < o + frameBytes v then 0 else galByte s a))

/-- R489, R498, R501, R505, R506, R508, R512: the oldest frame for a receiver goes out as packets while the queue pair's window has
room; an acknowledged frame is released by its receiver, and a stream whose every frame a receiver has acknowledged is done
for it. A slow receiver is shed, or its frames go to its spill region, in order, as far as its quota reaches. -/
def Obligations.HaulFrames : Prop :=
  ∀ (s : State) (n : HaulId) (r : Fin 8) (k : Nat),
    let v := streamAt s n
    let x := recvAt v r
    let q := recvQp s k x
    let u := qpAt s q
    streamOwner s n = some k → v.state = 1 → r.val < v.recvs.length → x.shed = false → x.finished = false →
    (∀ f fs b, x.queue = f :: fs → tget none v.buffers f = some b → x.progress = 0 → qpSends s q = true → u.psn < 2 ^ 24 →
      u.waiting = [] → tableGate s k x b.page = .go → galGate s (some k) (bufferAt v f) (frameBytes v) true = .go →
      let ps := framePackets s v x b.layer b.page (qpMtu u) (galBytes s (bufferAt v f) (frameBytes v))
      qpOut u + (ps.map fun p => p.data.length).foldl (· + ·) 0 ≤ qpWindow u →
      ∃ t, exec (.frameSend n r) s = .next t ∧ (recvAt (streamAt t n) r).queue = fs ∧
        (recvAt (streamAt t n) r).progress = 0 ∧ (qpAt t q).sent.length = u.sent.length + ps.length ∧
        (qpAt t q).psn = (u.psn + ps.length) % 2 ^ 24 ∧ t.haul.wire.length = s.haul.wire.length + ps.length ∧
        t.gallery = s.gallery ∧ t.cores = s.cores ∧ t.claims = s.claims) ∧
    (∀ y, x.queue = [] → x.spill[x.spillSent]? = some y → x.progress = 0 → qpSends s q = true → u.psn < 2 ^ 24 →
      u.waiting = [] → tableGate s k x y.page = .go → dramGate s (some k) (spillAt v r y.slot) (frameBytes v) true = .go →
      let ps := framePackets s v x y.layer y.page (qpMtu u) (dramBytes s (spillAt v r y.slot) (frameBytes v))
      qpOut u + (ps.map fun p => p.data.length).foldl (· + ·) 0 ≤ qpWindow u →
      ∃ t, exec (.frameSend n r) s = .next t ∧ (recvAt (streamAt t n) r).spillSent = x.spillSent + 1 ∧
        (recvAt (streamAt t n) r).spill = x.spill ∧ (qpAt t q).sent.length = u.sent.length + ps.length ∧ t.dram = s.dram) ∧
    (x.queue = [] → x.spill[x.spillSent]? = none → exec (.frameSend n r) s = .next s) ∧
    (∀ p rest, u.sent = p :: rest → q < 2 ^ 12 → p.pkt.psn < 2 ^ 24 → p.lastOfFrame = true → p.fromSpill = false →
      recvOfQp s q = some (k, n.val, r.val) → x.acked.length + 1 ≠ layersOf v * pagesOf v →
      ∃ t, exec (.acknowledge (Fin.ofNat 4096 q) (BitVec.ofNat 24 p.pkt.psn)) s = .next t ∧ (qpAt t q).sent = rest ∧
        (recvAt (streamAt t n) r).acked = x.acked ++ [(p.layer, p.page)] ∧
        (∀ f b, bufferOf v p.layer p.page = some f → tget none v.buffers f = some b → b.complete = true →
          recvCount v = 1 → r.val = 0 → tget none (streamAt t n).buffers f = none)) ∧
    (∀ p rest, u.sent = p :: rest → q < 2 ^ 12 → p.pkt.psn < 2 ^ 24 → p.lastOfFrame = true → p.fromSpill = false →
      recvOfQp s q = some (k, n.val, r.val) → x.acked.length + 1 = layersOf v * pagesOf v →
      ∃ t, exec (.acknowledge (Fin.ofNat 4096 q) (BitVec.ofNat 24 p.pkt.psn)) s = .next t ∧
        (recvAt (streamAt t n) r).finished = true) ∧
    (x.queue ≠ [] →
      (policyOf v = 0 → exec (.slowReceiverDeadline n r) s = .next s) ∧
      (policyOf v = 1 → ∃ t, exec (.slowReceiverDeadline n r) s = .next t ∧ (recvAt (streamAt t n) r).shed = true ∧
        (recvAt (streamAt t n) r).shedCause = 1 ∧ (recvAt (streamAt t n) r).queue = [] ∧
        (recvAt (streamAt t n) r).finished = true) ∧
      (policyOf v = 2 → x.progress = 0 → ∃ t, exec (.slowReceiverDeadline n r) s = .next t ∧
        (recvAt (streamAt t n) r) = { x with queue := [], toSpill := x.toSpill ++ x.queue })) ∧
    (∀ f fs b i, x.toSpill = f :: fs → (s.haul.movers.any fun m => m.2.any fun y => y = ⟨n.val, r.val, f⟩) = true →
      tget none v.buffers f = some b → freeSlot v x = some i →
      galGate s (some k) (bufferAt v f) (frameBytes v) true = .go →
      dramGate s (some k) (spillAt v r i) (frameBytes v) false = .go →
      ∃ t, exec (.spillCopyDone n r) s = .next t ∧ t.gallery = s.gallery ∧
        dramBytes t (spillAt v r i) (frameBytes v) = galBytes s (bufferAt v f) (frameBytes v) ∧
        (recvAt (streamAt t n) r).toSpill = fs ∧ (recvAt (streamAt t n) r).spill = x.spill ++ [⟨b.layer, b.page, i⟩] ∧
        (∀ a, a < spillAt v r i ∨ spillAt v r i + frameBytes v ≤ a → dramByte t a = dramByte s a)) ∧
    (∀ f fs, x.toSpill = f :: fs → (s.haul.movers.any fun m => m.2.any fun y => y = ⟨n.val, r.val, f⟩) = true →
      freeSlot v x = none → ∃ t, exec (.spillCopyDone n r) s = .next t ∧
      (recvAt (streamAt t n) r).shed = true ∧ (recvAt (streamAt t n) r).shedCause = 2 ∧ t.dram = s.dram)

/-- R487, R495, R504, R514: word 0 with state 1 opens a closed stream whose descriptor keeps the rules, with its receivers read
from the gallery; one that breaks a rule is recorded as HAUL_DESC with the reason and the stream stays closed; state 0
closes a done stream; a write in another state is recorded only, reason 7. -/
def Obligations.HaulStreams : Prop :=
  ∀ (s : State) (f : FnId) (n : HaulId) (w : W64) (k : Nat),
    let v := { streamAt s n with w0 := w &&& 0x07FFFDFFFFC00000 }
    let others (t : State) : Prop := (∀ j, j ≠ n.val → streamAt t j = streamAt s j) ∧ t.gallery = s.gallery ∧ t.claims = s.claims ∧
      t.cores = s.cores
    let noted (i : Instr) (reason : Nat) : Prop := ∃ t, exec i s = .next t ∧ others t ∧
      (streamAt t n).state = (streamAt s n).state ∧
      (s.haul.fault.fault = false → t.haul.fault = ⟨true, 1, reason, k, n.val - (claimAt s k).streamBase, 0⟩)
    streamOwner s n = some k →
    (actsFor s f k = true → (streamAt s n).state = 0 →
      (openReason s k v = none → ∃ t, exec (.streamOpen f n w) s = .next t ∧ others t ∧ (streamAt t n).state = 1 ∧
        (streamAt t n).w0 = v.w0 ∧ (streamAt t n).buffers = [] ∧ (streamAt t n).task = none ∧
        (streamAt t n).recvs.length = recvCount v ∧
        ∀ r, r < recvCount v → recvAt (streamAt t n) r = recvOf (recvWords s v r)) ∧
      (∀ r, openReason s k v = some r → noted (.streamOpen f n w) r)) ∧
    (actsFor s f k = true → (streamAt s n).state ≠ 0 → noted (.streamOpen f n w) 7) ∧
    (actsFor s f k = true → (streamAt s n).state = 2 → ∃ t, exec (.streamClose f n) s = .next t ∧ others t ∧
      (streamAt t n).state = 0 ∧ (streamAt t n).recvs = []) ∧
    (actsFor s f k = true → (streamAt s n).state = 1 → noted (.streamClose f n) 7) ∧
    (actsFor s f k = false → ∃ t, exec (.streamOpen f n w) s = .next t ∧ t.haul = s.haul ∧
      t.ras.bar.count = wrapAdd 32 s.ras.bar.count 1)

/-- R534 to R538, R540, R652, R369: a doorbell sets a ring's tail. TASK_START serves the oldest record of the ready ring of highest
priority, next in rotation: a bad record ends with detail 7, a marker completes at once, an impaired claim's task is aborted,
and a record is refused with detail 2 without quads, 8 without a readable image, 6 and 9 for an argument or range that does
not fit. A task whose image is resident starts every core at its entry with the argument, its virtual number, the rank and
the size in s0 to s3; a core whose flag is clear counts as ended; the claim's exports take writes again. -/
def Obligations.TaskStarts : Prop :=
  (∀ (c : Claim) (i : Nat), nextRing c = some i →
    i < 16 ∧ ringReady (tget {} c.rings i) = true ∧
      ∀ j < 16, ringReady (tget {} c.rings j) = true → (tget {} c.rings j).prio ≤ (tget {} c.rings i).prio) ∧
  (∀ (y : Task) (r : RecordInfo), r.fault = none → y.ring < 16 → r.status < 256 → r.detail < 256 →
    fieldOf (wordAt (completionWords y r) 0) 63 56 = r.status ∧ fieldOf (wordAt (completionWords y r) 4) 63 56 = r.detail ∧
      wordAt (completionWords y r) 3 = y.imageId) ∧
  ∀ (s : State) (k : ClaimId),
    let c := claimAt s k
    (∀ (f : FnId) (i : Fin 16) (tail : Nat), actsFor s f k = true → ∃ t, exec (.doorbell f k i tail []) s = .next t ∧
      t = { s with claims := t.claims } ∧ (∀ j, j ≠ k.val → claimAt t j = claimAt s j) ∧
      tget {} (claimAt t k).rings i = { tget {} c.rings i with tail := tail % 2 ^ min 16 (tget {} c.rings i).sizeLog } ∧
      ∀ j, j ≠ i.val → tget {} (claimAt t k).rings j = tget {} c.rings j) ∧
    ((canStart s k = false ∨ nextRing c = none) → exec (.taskStart k) s = .next s) ∧
    ∀ (i : Nat) (bs : List Byte) (f : Nat), canStart s k = true → nextRing c = some i → c.group = false → hostFn s k = some f →
      hostRead s k ((tget {} c.rings i).base + BitVec.ofNat 64 (64 * (tget {} c.rings i).head)) 64 = some bs →
      let r := tget {} c.rings i
      let w := wordsOf 8 bs
      let y := taskOf i w false false []
      let kind := fieldOf (wordAt w 0) 63 60
      let resident := c.image.any fun x => x.imageId = wordAt w 2
      let ended (status detail : Nat) (fault : Option TaskFault) (aborted : Nat) : Prop :=
        ∃ t e, exec (.taskStart k) s = .next t ∧ (claimAt t k).task = none ∧ (claimAt t k).lastRing = i ∧
          tget {} (claimAt t k).rings i = { r with head := (r.head + 1) % 2 ^ min 16 r.sizeLog, done := wrapAdd 32 r.done 1 } ∧
          (claimAt t k).aborted = aborted ∧ t.cores = s.cores ∧ ((placeOf (wordAt w 5)).space = 3 →
            hostBytes t f (placeOf (wordAt w 5)).off 64 =
              bytesOf (completionWords y { status := status, detail := detail, elapsed := e, fault := fault }))
      (recordBad w = true → ended 2 7 none c.aborted) ∧
      (recordBad w = false → kind = 0 → ended 0 0 none c.aborted) ∧
      (recordBad w = false → kind ≠ 0 →
        (∀ x, c.impaired = some x → ended 1 0 (some { info := { name := x }, engine := 10 }) (satAdd 0xFFFF c.aborted 1)) ∧
        (c.impaired = none → c.quads = 0 → ended 2 2 none c.aborted) ∧
        (c.impaired = none → c.quads ≠ 0 → resident = false → hostRead s k (wordAt w 1) (wordAt w 3).toNat = none →
          ended 2 8 none c.aborted) ∧
        (c.impaired = none → c.quads ≠ 0 → ∀ x, c.image = some x → x.imageId = wordAt w 2 →
          (argBad x.argSize w = true → ended 2 6 none c.aborted) ∧
          (argBad x.argSize w = false → rangeBad s k w = true → ended 2 9 none c.aborted) ∧
          (argBad x.argSize w = false → rangeBad s k w = false → ∃ t, exec (.taskStart k) s = .next t ∧
            (claimAt t k).task = some y ∧ (claimAt t k).fenced = false ∧ (claimAt t k).held = false ∧
            (claimAt t k).wdLimit = c.watchdog ∧ tget {} (claimAt t k).rings i = { r with head := (r.head + 1) % 2 ^ min 16 r.sizeLog } ∧
            (∀ n, c.winBase ≤ n → n < c.winBase + c.winCount → (windowAt t n).cut = false) ∧ ∀ v j, (coresMap s k)[v]? = some j → (coreAt t j).mat.arith = {} ∧
              ((x.cores.getD v (0, false)).2 = false → (coreAt t j).seq.run = .ended) ∧
              ((x.cores.getD v (0, false)).2 = true → (coreAt t j).seq.run = .running ∧
                (coreAt t j).seq.pc = (x.cores.getD v (0, false)).1 ∧ regAt t j 0 = wordAt w 4 ∧
                regAt t j 1 = BitVec.ofNat 64 v ∧ regAt t j 2 = BitVec.ofNat 64 (programRank s) ∧
                regAt t j 3 = BitVec.ofNat 64 (programGroup s) ∧
                ∀ n, 4 ≤ n → regAt t j n = 0))))

/-- R316, R362, R397 to R399, R540, R541, R544: a task whose every core has ended and whose every access is performed ends with a
record of status 0, its arithmetic flags and the ring's completed count. A task with a fault aborts: its cores stop and drop
their items, its exports are fenced until the next task, the record names the fault, with status 3 for a cancel, and vector
16 is signalled. A cancel and an abort of a group's peer are such faults. -/
def Obligations.TaskEnds : Prop :=
  ∀ (s : State) (k : ClaimId) (y : Task) (elapsed f : Nat),
    let c := claimAt s k
    let a := (placeOf (if y.overtaken then c.takeover else y.record)).off
    let through (t : State) : Prop := (claimAt t k).task = none ∧ (claimAt t k).held = false ∧
      (tget {} (claimAt t k).rings y.ring).done = wrapAdd 32 (tget {} c.rings y.ring).done 1
    c.task = some y → y.group = false → c.group = false → hostFn s k = some f →
    (placeOf (if y.overtaken then c.takeover else y.record)).space = 3 →
    (y.fault = none → taskQuiet s k = true → ∃ t, exec (.taskEnd k elapsed) s = .next t ∧ through t ∧
      (claimAt t k).completed = wrapAdd 32 c.completed 1 ∧ (claimAt t k).aborted = c.aborted ∧
      hostBytes t f a 64 = bytesOf (completionWords y { status := 0, elapsed := elapsed, arith := arithWord s k }) ∧
      (y.msix = true → t.host.msix = (k.val, y.ring) :: s.host.msix) ∧
      ∀ j ∈ coresOf c.quads, (coreAt t j).seq.run = .idle) ∧
    (y.fault = none → taskQuiet s k = false → exec (.taskEnd k elapsed) s = .next s) ∧
    (y.fault = none → exec (.taskAbort k elapsed) s = .next s) ∧
    (∀ x, y.fault = some x → ∃ t e, exec (.taskAbort k elapsed) s = .next t ∧ through t ∧ (claimAt t k).fenced = true ∧
      (claimAt t k).aborted = satAdd 0xFFFF c.aborted 1 ∧ (claimAt t k).completed = c.completed ∧
      t.host.msix.head? = some (k.val, 16) ∧
      hostBytes t f a 64 = bytesOf (completionWords y { status := if x.info.name = .hostCancel then 3 else 1
                                                        elapsed := elapsed, fault := some x, others := y.others, arith := e }) ∧
      (∀ j ∈ coresOf c.quads, (coreAt t j).seq.run = (if (coreAt s j).seq.run = .faulted then .faulted else .idle) ∧
        (coreAt t j).mat.queue = [] ∧ (coreAt t j).drs.queue = [] ∧ (coreAt t j).net.queue = []) ∧
      ∀ w ∈ t.waits, waiterOf s k w.who = false) ∧
    (∀ g : FnId, actsFor s g k = true → y.fault = none → ∃ t, exec (.cancel g k) s = .next t ∧ taskFaulted k .hostCancel 0 t ∧
      t.cores = s.cores ∧ t.gallery = s.gallery) ∧
    (∀ rank, exec (.peerAbort k rank) s = .next s) ∧
    ∀ rank, y.fault = none → ∀ t0 : State, t0 = { s with claims := tput {} s.claims k { c with task := some { y with group := true } } } →
      ∃ t x, exec (.peerAbort k rank) t0 = .next t ∧ taskFaulted k .peerAbort 0 t ∧ (claimAt t k).task = some x ∧
        (x.fault.map fun z => z.rank) = some rank.val

/-- R326 to R331, R363, R542, R543, R572: the claim's function asks for a hold; it takes effect once every core stands at a break
or has ended, with vector 17, and under a governor hold the cores then sleep; a lift lets the held cores run on. The watchdog
of a live task that is neither held nor exempt raises WATCHDOG_STALL and records the operation on which each core was blocked;
in real-time mode an operation of class 1 to 15 that still waits on its object when it passes its limit raises DEADLINE_MISS. -/
def Obligations.HoldsAndDeadlines : Prop :=
  ∀ (s : State) (f : FnId) (k : ClaimId),
    let c := claimAt s k
    let cs := coresOf c.quads
    let stands (j : Nat) : Prop := (coreAt s j).seq.run = .held ∨ (coreAt s j).seq.run = .ended
    (actsFor s f k = true → c.group = false →
      (∃ t, exec (.holdRequest f k) s = .next t ∧ t = { s with claims := t.claims, host := t.host } ∧
        claimAt t k = { c with holdReq := true, held := c.held || c.heldHere } ∧
        t.host = (if c.heldHere && !c.held then { s.host with msix := (k.val, 17) :: s.host.msix } else s.host) ∧
        ∀ j, j ≠ k.val → claimAt t j = claimAt s j) ∧
      (c.shed = false → c.parked = false → ∃ t, exec (.holdLift f k) s = .next t ∧
        claimAt t k = { c with holdReq := false, held := false, heldHere := false } ∧ t.gallery = s.gallery ∧
        ∀ j ∈ cs, (coreAt t j).pwr.state = 0 ∧
          (coreAt t j).seq = (if (coreAt s j).seq.run = .held then { (coreAt s j).seq with run := .running }
            else (coreAt s j).seq)) ∧
      ((c.shed = true ∨ c.parked = true) → ∃ t, exec (.holdLift f k) s = .next t ∧
        claimAt t k = { c with holdReq := false, held := false } ∧ t.cores = s.cores)) ∧
    (actsFor s f k = false → ∃ t, exec (.holdRequest f k) s = .next t ∧ t.claims = s.claims ∧
      t.ras.bar.count = wrapAdd 32 s.ras.bar.count 1) ∧
    (taskLive s k = true → c.group = false → c.held = false → c.heldHere = false → (c.holdReq = true ∨ c.shed = true ∨ c.parked = true) →
      ((∀ j ∈ cs, stands j) →
        ∃ t, exec (.holdTakesEffect k) s = .next t ∧ claimAt t k = { c with heldHere := true, held := c.holdReq } ∧
          t.host.msix = (k.val, 17) :: s.host.msix ∧ (c.shed = false → c.parked = false → t.cores = s.cores) ∧
          ((c.shed = true ∨ c.parked = true) → ∀ j ∈ cs, (coreAt t j).pwr.state ≠ 0 ∧ (coreAt t j).pwr.govHeld = true)) ∧
      ((∃ j ∈ cs, ¬ stands j) → exec (.holdTakesEffect k) s = .next s)) ∧
    (taskLive s k = true → c.wdSkip = false → c.held = false → shedNow c = false → twf ({} : CoreState) s.cores = true →
      ∃ t, exec (.watchdogStall k) s = .next t ∧ taskFaulted k .watchdogStall 0 t ∧ t.gallery = s.gallery ∧
      ∀ j ∈ cs, (blockedOn s (Fin.ofNat 128 j) = none → (coreAt t j).sync.recorded = none) ∧
        ∀ n kind object, blockedOn s (Fin.ofNat 128 j) = some (n, kind, object) →
          (coreAt t j).sync.recorded = some ⟨kind, object⟩ ∧
          ((coreAt s j).sync.fault.fault = false → (coreAt t j).sync.fault = ⟨true, 3, n, kind, object, 0⟩)) ∧
    ((taskLive s k = false ∨ c.wdSkip = true ∨ c.held = true ∨ shedNow c = true) → exec (.watchdogStall k) s = .next s) ∧
    ∀ (x : CoreId) (n : Fin 6) (kind : SyncKind) (object : Nat) (cls : Fin 16), coreOwner s x = some k.val →
      let w : EngineWait := ⟨syncKindNo kind, object, cls⟩
      let call := if n.val = 5 then callWith s x w else none
      let recorded (t : State) : Prop := (coreAt s x).sync.fault.fault = false →
        (coreAt t x).sync.fault = ⟨true, 1, n.val, syncKindNo kind, object, cls.val⟩
      (unitLive s x = true → c.rtMode = true → cls.val ≠ 0 →
        ((waitsOf s (syncEngine x n)).contains w = true → call = none → ∃ t, exec (.deadlineMiss x n kind object cls) s = .next t ∧
          taskFaulted k .deadlineMiss 0 t ∧ recorded t) ∧
        (∀ v, call = some v → ∃ t, exec (.deadlineMiss x n kind object cls) s = .next t ∧ recorded t ∧
          (engineClaim s (.collMover (Fin.ofNat 16 v.mover)) = some k.val → taskFaulted k .deadlineMiss 0 t)) ∧
        ((waitsOf s (syncEngine x n)).contains w = false → call = none → exec (.deadlineMiss x n kind object cls) s = .next s)) ∧
      ((c.rtMode = false ∨ cls.val = 0) → exec (.deadlineMiss x n kind object cls) s = .next s)

/-- R284 to R286, R330, R402, R522, R525 to R529, R532, R544, R551: a control function's creation request is granted whole, out of units
that were free, with result 1, or refused with the number of the first resource that is short and no claim changed;
one for a group waits for every member. A destroyed claim's windows are closed and, once they are no longer busy, its memory,
tallies and conveyors are cleared and its units returned. A function-level
reset cancels the claim's task and disables its rings; an invalidation takes pages out of its translation cache.
The lanes of a mesh link share it evenly between the claims whose traffic can cross it, in whole 64 B; a row link carries only
the claims that own its quad. -/
def Obligations.ClaimLifetimes : Prop :=
  ∀ (s : State) (f : FnId) (ctrl : W64),
    let q := storeCtrl ctrl s.claimReq
    let r := requestOf q
    let k := fieldOf ctrl 63 61
    (isControl s f = false → ∀ i, (i = .claimCreate f ctrl ∨ i = .claimDestroy f ctrl) →
      ∃ t, exec i s = .next t ∧ t.claims = s.claims ∧ t.ras.bar.count = wrapAdd 32 s.ras.bar.count 1) ∧
    (isControl s f = true → s.claimReq.busy = true →
      exec (.claimCreate f ctrl) s = .next s ∧ exec (.claimDestroy f ctrl) s = .next s) ∧
    (isControl s f = true → s.claimReq.busy = false → coreStopped s 0 = false →
      (∀ x, claimRefusal s r = some x → ∃ t, exec (.claimCreate f ctrl) s = .next t ∧
        t = { s with claimReq := { q with result := x.1, lastClaim := k, free := min 0xFFFF x.2, busy := false } }) ∧
      (claimRefusal s r = none → r.group = false → ∃ t, exec (.claimCreate f ctrl) s = .next t ∧
        t.claimReq.result = 1 ∧ t.claimReq.lastClaim = k ∧ (claimAt t k).created = true ∧ (claimAt t k).fn = fieldOf ctrl 60 58 ∧
        (claimAt t k).task = none ∧ (claimAt t k).quads = q.quads ∧ (∀ j, j ≠ k → claimAt t j = claimAt s j) ∧
        (∀ b, inSet (claimAt t k).galBanks b = true → bankFree s b = true) ∧
        setCount 512 (claimAt t k).galBanks = fieldOf q.mem 63 54 ∧
        (∀ b, inSet (claimAt t k).dram b = true → regionFree s b = true) ∧
        setCount 225 (claimAt t k).dram = fieldOf q.mem 45 38 ∧
        (∀ u, (claimAt t k).tallyBase ≤ u → u < (claimAt t k).tallyBase + (claimAt t k).tallyUnits → tallyFree s u = true) ∧
        (claimAt t k).tallyUnits = fieldOf q.sync 63 56 ∧ t.cores = s.cores ∧
        t.gallery = { s.gallery with turns := t.gallery.turns } ∧
        ∀ n, tget {} t.gallery.turns n = (if (claimAt t k).turnBase ≤ n ∧ n < (claimAt t k).turnBase + (claimAt t k).turnCount
          then {} else tget {} s.gallery.turns n)) ∧
      (claimRefusal s r = none → r.group = true → otherMembers s ≠ [] → ∃ t, exec (.claimCreate f ctrl) s = .next t ∧
        t.claims = s.claims ∧ t.claimReq = { q with busy := true, waiting := 4, awaiting := otherMembers s }) ∧
      ((claimAt s k).created = false → ∃ t, exec (.claimDestroy f ctrl) s = .next t ∧ t.claimReq.result = 2 ∧
        t.claims = s.claims) ∧
      ((claimAt s k).created = true → windowsBusy (closeWindows k (cancelNow k s)) k = true →
        ∃ t, exec (.claimDestroy f ctrl) s = .next t ∧ (claimAt t k).destroying = true ∧ t.claimReq.busy = true ∧
          ∀ w, (claimAt s k).winBase ≤ w → w < (claimAt s k).winBase + (claimAt s k).winCount → (windowAt t w).kind = 0) ∧
      ((claimAt s k).created = true → windowsBusy (closeWindows k (cancelNow k s)) k = false →
        ∃ t, exec (.claimDestroy f ctrl) s = .next t ∧ t.claimReq.result = 1 ∧ claimAt t k = {} ∧ (hasTask s k = false →
          (∀ j ∈ coresOf (claimAt s k).quads, (∀ a, benchByte t j a = 0) ∧ (coreAt t j).mat.acc = [] ∧
            (coreAt t j).drs.wide = []) ∧
          (∀ a, inSet (claimAt s k).galBanks (galBank a) = true → galBank a < 512 → galByte t a = 0) ∧
          (∀ a, inSet (claimAt s k).galBanks (galBank a) = false → galByte t a = galByte s a) ∧
          (∀ n, 1024 * (claimAt s k).tallyBase ≤ n → n < 1024 * ((claimAt s k).tallyBase + (claimAt s k).tallyUnits) →
            tallyAt t n = 0) ∧
          (∀ w, (claimAt s k).winBase ≤ w → w < (claimAt s k).winBase + (claimAt s k).winCount → (windowAt t w).kind = 0) ∧
          ∀ b, inSet (claimAt s k).dram b = true → inSet t.dram.zeroing b = true))) ∧
    (isControl s f = true → s.claimReq.busy = false → coreStopped s 0 = true →
      exec (.claimCreate f ctrl) s = .next { s with claimReq := { q with busy := true, waiting := 1 } }) ∧
    (∀ n, boundClaim s f = some n → ∃ t, exec (.functionLevelReset f) s = .next t ∧
      (∀ i, (tget {} (claimAt t n).rings i).enable = false) ∧ (taskLive s n = true → taskFaulted n .hostCancel 0 t)) ∧
    (∀ (page pages : Nat), 0 < pages →
      (∃ t, exec (.atsInvalidation f page pages false) s = .next t ∧ t.host.bytes = s.host.bytes ∧
        hostMapped t f.val (4096 * page) 1 = false ∧
        ∀ n, boundClaim s f = some n → ∀ p, p ∈ (claimAt t n).atc ↔ p ∈ (claimAt s n).atc ∧ (p < page ∨ page + pages ≤ p)) ∧
      ∃ t, exec (.atsInvalidation f page pages true) s = .next t ∧ t.host.bytes = s.host.bytes ∧
        ∀ x ∈ t.host.unmapped, x ∈ s.host.unmapped ∧ ¬ (x.1 = f.val ∧ page ≤ x.2.1 ∧ x.2.1 + x.2.2 ≤ page + pages)) ∧
    ∀ (d : DieId) (link : MeshLink) (j width : Nat), (j, width) ∈ meshLanes s d link →
      (claimAt s j).created = true ∧ canCross s j d link = true ∧
      width = 512 / (meshLanes s d link).length / 64 * 64 ∧ 64 ≤ width ∧ (meshLanes s d link).length * width ≤ 512 ∧
      ∀ r col, link = .row r col → inSet (claimAt s j).quads (4 * d.val + r.val) = true

/-- R64, R71 to R74, R566: a droop clamps the die's pace to half of what is applied and counts; a second one only ends the hold.
Voltage steps are held off: the rail stays where it is until the clamp releases after its hold, and the request held then is
applied. One settled step moves the rail by at most 12.5 mV toward the voltage asked for.
R593 to R596, R601: a core of a held claim goes to L0, L1 or L2 as its register asks, and to L2 with its die's rail at 0.45 V once
no core of the die is in L0; without a hold the request is refused. A die goes to L3 and the module to L4 unless a task
needs them: the die's tallies and conveyors are then 0 and empty and its images gone, the DRAM stays; the requests for L0 undo it. -/
def Obligations.PowerStates : Prop :=
  (∀ (s : State) (d : DieId),
    let x := dieAt s d
    (dieRuns x = true → ∃ t, exec (.droopDetect d) s = .next t ∧ onlyDie d s t ∧
      (dieAt t d).droopCount = wrapAdd 32 x.droopCount 1 ∧ (dieAt t d).droopSeen = true ∧ (dieAt t d).droopHold = false ∧
      (dieAt t d).vSet = x.vSet ∧ (x.droopClamp ≠ 0 → (dieAt t d).droopClamp = x.droopClamp) ∧
      (x.droopClamp = 0 → (dieAt t d).droopClamp = max 10 (appliedPace s x / 2) ∧ (dieAt t d).vGoal = x.vSet ∧
        (x.vGoal ≠ x.vSet → (dieAt t d).deferred = some x.vGoal))) ∧
    (x.droopClamp ≠ 0 → exec (.voltageStepSettle d) s = .next s ∧ (∃ t, exec (.droopHoldStart d) s = .next t ∧ onlyDie d s t ∧
        dieAt t d = { x with droopHold := true }) ∧
      (x.droopHold = false → exec (.droopClampRelease d) s = .next s) ∧
      (x.droopHold = true → ∃ t, exec (.droopClampRelease d) s = .next t ∧ onlyDie d s t ∧ (dieAt t d).droopClamp = 0 ∧
        (dieAt t d).droopHold = false ∧ (dieAt t d).deferred = none ∧ (dieAt t d).vSet = x.vSet ∧
        (dieAt t d).vGoal = x.deferred.getD x.vGoal)) ∧
    (dieRuns x = true → x.droopClamp = 0 → x.vSet ≠ x.vGoal → ∃ t, exec (.voltageStepSettle d) s = .next t ∧ onlyDie d s t ∧
      (dieAt t d).vGoal = x.vGoal ∧ (dieAt t d).natural = x.natural ∧
      (dieAt t d).vSet = (if x.vSet < x.vGoal then min x.vGoal (x.vSet + 25) else max x.vGoal (x.vSet - 25)))) ∧
  (∀ (s : State) (f : FnId) (c : CoreId) (k : Nat),
    let p := (coreAt s c).pwr
    let x := dieAt s (dieOf c)
    let paced (t : State) : Prop := t = { s with cores := t.cores, dies := t.dies } ∧
      ∀ j, coreAt t j = { coreAt s j with pwr := (coreAt t j).pwr }
    coreOwner s c = some k → actsFor s f k = true → dieInReach s (dieOf c) = true →
    ((claimAt s k).held = false → shedNow (claimAt s k) = false →
      ∀ i ∈ [(Instr.coreL0Request f c, 0), (.coreL1Request f c, 1), (.coreL2Request f c, 2)], ∃ t, exec i.1 s = .next t ∧
        onlyCore c s t ∧ coreAt t c = { coreAt s c with pwr := { p with request := i.2, refused := true } }) ∧
    (((claimAt s k).held = true ∨ shedNow (claimAt s k) = true) →
      (p.govHeld = false → ∃ t, exec (.coreL0Request f c) s = .next t ∧ paced t ∧ (coreAt t c).pwr.state = 0 ∧
        (coreAt t c).pwr.request = 0 ∧ (x.mode = .retain → (dieAt t (dieOf c)).mode = .run ∧ (dieAt t (dieOf c)).vSet = x.vKept)) ∧
      (p.state ≤ 2 → ∃ t, exec (.coreL1Request f c) s = .next t ∧ paced t ∧ (coreAt t c).pwr.state = 1 ∧
        (coreAt t c).pwr.request = 1) ∧
      ∃ t, exec (.coreL2Request f c) s = .next t ∧ paced t ∧ (coreAt t c).pwr.request = 2 ∧
        (dieRuns x = true → (∀ j ∈ coresOfDie (dieOf c), j ≠ c.val → (coreAt s j).pwr.state ≠ 0) → (coreAt t c).pwr.state = 2 ∧
          (dieAt t (dieOf c)).mode = .retain ∧ (dieAt t (dieOf c)).vSet = 900 ∧ (dieAt t (dieOf c)).vKept = x.vSet) ∧
        ((∃ j ∈ coresOfDie (dieOf c), j ≠ c.val ∧ (coreAt s j).pwr.state = 0) → (coreAt t c).pwr.state = max 1 p.state ∧
          t.dies = s.dies))) ∧
  (∀ (s : State) (f : FnId) (d : DieId),
    let x := dieAt s d
    isControl s f = true → x.present = true →
    ((x.mode = .run ∨ x.mode = .retain) → (∀ k ∈ claimNos, usesDie s k d = false ∨ hasTask s k = false) →
      ∃ t, exec (.dieL3Request f d) s = .next t ∧ (dieAt t d).mode = .keep ∧ (dieAt t d).present = true ∧
        (∀ e, e ≠ d.val → dieAt t e = dieAt s e) ∧ t.gallery = s.gallery ∧ t.dram = s.dram ∧ t.host = s.host ∧
        (∀ i, tget 0 t.tallies i = if 16384 * d.val ≤ i ∧ i < 16384 * d.val + 16384 then 0 else tget 0 s.tallies i) ∧
        (∀ i, tget {} t.conveyors i = if 64 * d.val ≤ i ∧ i < 64 * d.val + 64 then {} else tget {} s.conveyors i) ∧
        ∀ k ∈ claimNos, (∃ q ∈ upFrom (4 * d.val) 4, inSet (claimAt s k).quads q = true) → (claimAt t k).image = none) ∧
    ((x.mode = .run ∨ x.mode = .retain) → (∃ k ∈ claimNos, usesDie s k d = true ∧ hasTask s k = true) →
      ∃ t, exec (.dieL3Request f d) s = .next t ∧ onlyDie d s t ∧ dieAt t d = { x with request := 3, refused := true }) ∧
    (x.mode = .keep → ∃ t, exec (.dieL0Request f d) s = .next t ∧ onlyDie d s t ∧
      dieAt t d = { x with mode := .run, request := 0 })) ∧
  ∀ (s : State) (f : FnId), isControl s f = true →
    (s.power.state ≠ 4 → anyTask s = false → ∃ t, exec (.moduleL4Request f) s = .next t ∧ t.power.state = 4 ∧ t.dram = s.dram ∧
      t.host = s.host ∧ (∀ d < 8, (dieAt t d).present = false ∧ (dieAt t d).mode = .off) ∧ ∀ i < 131072, tget 0 t.tallies i = 0) ∧
    (s.power.state ≠ 4 → anyTask s = true → ∃ t, exec (.moduleL4Request f) s = .next t ∧
      t = { s with power := { s.power with request := 4, refused := true } }) ∧
    (s.power.state = 4 → ∃ t, exec (.moduleL0Request f) s = .next t ∧ t = { s with power := t.power, dies := t.dies } ∧
      t.power = { s.power with state := 0, request := 0 } ∧ ∀ d < 8, (dieAt s d).control = true → (dieAt s d).tripped = false →
        inSet s.ras.diesFailed d = false → (dieAt t d).present = true ∧ (dieAt t d).mode = .run ∧ (dieAt t d).vSet = (dieAt s d).vKept)

/-- R61, R552 to R555, R566, R567, R571, R588, R589: each interval of 2 µs takes each die's lowest monitor as its natural rate,
forms its estimate from its activity, the square of its voltage and its leakage, sums the estimates, and adds 2 µs to each
active throttle reason; the fast limiter cuts one code of each die with a live claim while the module is over its cap with no
voltage on its way down, and one code of each die over its rail's current limit; calibration moves a coefficient by at most
1 %; a rate correction takes what the monitors read then, scales every step by it and sets the floor code. R586, R587, R669: an alert, a brake or too much input power
forces every die to its floor code and 0.55 V while main is there; the release comes once no cause is left.
The rounding of an estimate (entry 140) and the excursion, which counts whole milliseconds from the mean of the model's own
estimates (entry 101), are the model's choices. -/
def Obligations.PowerTicks : Prop :=
  (∀ (s : State), moduleReady s = true →
    (∀ e : Estimates, ∃ t, exec (.powerEstimateTick e) s = .next t ∧ t = { s with power := t.power, dies := t.dies } ∧
      t.power.estimate = t.power.estCompute + t.power.estMemory + t.power.estLinks + t.power.estFixed ∧
      t.power.estCompute = (upFrom 0 8).foldl (fun n d => n + (dieAt t d).estimate) 0 ∧
      t.power.estMemory = e.memory * s.power.calibClass.getD 0 4096 / 4096 ∧
      t.power.estLinks = e.links * s.power.calibClass.getD 1 4096 / 4096 ∧
      t.power.estFixed = e.fixed * s.power.calibClass.getD 2 4096 / 4096 ∧
      t.power.seq = wrapAdd 16 s.power.seq 1 ∧ t.power.effCap = s.power.effCap ∧
      (∀ d < 8,
        let x := dieAt s d
        let counts := e.activity.getD d []
        let ms := e.monitors.getD d []
        let y := dieAt t d
        y = { x with activity := counts, monitors := y.monitors, natural := y.natural, estimate := y.estimate
                     current := dieCurrent y.estimate x.vSet, estSum := x.estSum + y.estimate } ∧
        (x.vSet = 0 → y.estimate = 0) ∧
        (x.vSet ≠ 0 → y.estimate = ((upFrom 0 counts.length).zip counts).foldl (fun n c =>
          n + Config.activityEnergy d c.1 * c.2) 0 * x.calib * x.vSet ^ 2 / (4096 * 1400 ^ 2 * 250000) +
            Config.leakPower d x.vSet x.tMax) ∧
        (ms ≠ [] → dieRuns x = true → x.control = true → y.natural ∈ ms ∧ ∀ m ∈ ms, y.natural ≤ m) ∧
        (ms = [] ∨ dieRuns x = false ∨ x.control = false → y.natural = x.natural)) ∧
      ∀ i < 8, tget 0 t.power.reasons i =
        if reasonActive s i = true then wrapAdd 63 (tget 0 s.power.reasons i) 2 else tget 0 s.power.reasons i) ∧
    (∃ t, exec .fastLimiterTick s = .next t ∧ t = { s with power := t.power, dies := t.dies } ∧
      t.power = { s.power with iccDies := t.power.iccDies } ∧ ∀ d < 8,
        let x := dieAt s d
        let tooMuch := decide (8 * s.power.effCap < s.power.estimate) && !(anyDie s fun y => y.vGoal < y.vSet)
        (inSet t.power.iccDies d = true ↔ dieRuns x = true ∧ railLimit s * 8 * x.vSet < x.estimate * 2000) ∧
        let cut := (if tooMuch && liveOn s d && decide (10 < govTarget x) then 1 else 0) + (if inSet t.power.iccDies d then 1 else 0)
        dieAt t d = { x with assistCut := satAdd 255 x.assistCut cut }) ∧
    (coreStopped s 1 = false → ∀ rails : List Nat, ∃ t, exec (.calibrationTick rails) s = .next t ∧
      let within (c mean g : Nat) : Nat := if mean = 0 then c else min (c * 101 / 100) (max (c * 99 / 100) (c * g / mean))
      t = { s with power := t.power, dies := t.dies } ∧
      t.power = { s.power with
        calibClass := t.power.calibClass, sumClass := [0, 0, 0], estTicks := 0
        excursion := if 8 * s.power.effCap < meanEstimate s then satAdd 0xFFFF s.power.excursion 1 else 0 } ∧
      (∀ i < 3, t.power.calibClass.getD i 4096 =
        within (s.power.calibClass.getD i 4096) (meanOf s (s.power.sumClass.getD i 0)) (rails.getD (8 + i) 0)) ∧
      ∀ d < 8, dieAt t d = { dieAt s d with
        estSum := 0, calib := within (dieAt s d).calib (meanOf s (dieAt s d).estSum) (rails.getD d 0) }) ∧
    ∀ monitors : List (List Nat), ∃ t, exec (.rateCorrectionTick monitors) s = .next t ∧ t = { s with dies := t.dies } ∧ ∀ d < 8,
      let x := dieAt s d
      let ms := monitors.getD d []
      let r := x.rates.getD (stepOf x.vSet) 0
      let y := dieAt t d
      y = { x with monitors := y.monitors, natural := y.natural, scaleNum := y.scaleNum, scaleDen := y.scaleDen
                   floorCode := y.floorCode } ∧
      (ms ≠ [] → dieRuns x = true → x.control = true → y.natural ∈ ms ∧ ∀ m ∈ ms, y.natural ≤ m) ∧
      (ms = [] ∨ dieRuns x = false ∨ x.control = false → y.natural = x.natural) ∧
      (coreStopped s 1 = true ∨ dieRuns x = false ∨ r = 0 ∨ y.natural = 0 ∨ x.vSet < 1100 →
        y.scaleNum = x.scaleNum ∧ y.scaleDen = x.scaleDen ∧ y.floorCode = x.floorCode) ∧
      (coreStopped s 1 = false → dieRuns x = true → r ≠ 0 → y.natural ≠ 0 → 1100 ≤ x.vSet →
        y.scaleNum = y.natural ∧ y.scaleDen = r ∧
        y.floorCode = max 10 (min (topCode s) (x.rates.getD 0 0 * y.natural / r)))) ∧
  ∀ s : State,
    let down (t : State) : Prop := ∀ d < 8, (dieAt t d).forced = true ∧ govTarget (dieAt t d) = (dieAt s d).floorCode ∧
      (dieAt t d).vSet = (dieAt s d).vSet ∧ (dieRuns (dieAt s d) = true →
        (if (dieAt s d).droopClamp = 0 then (dieAt t d).vGoal = 1100 else (dieAt t d).deferred = some 1100))
    let only (t : State) : Prop := t = { s with power := t.power, dies := t.dies }
    (s.sys.boot.main = true →
      (∃ t, exec .vrAlertAssert s = .next t ∧ only t ∧ t.power = { s.power with vrPin := true, vrAlert := true } ∧ down t) ∧
      (∃ t, exec .pwrBrakeAssert s = .next t ∧ only t ∧ t.power = { s.power with brakePin := true, pwrBrake := true } ∧ down t) ∧
      ∀ volt amp watts mean : Nat, ∃ t, exec (.inputPowerSample volt amp watts mean) s = .next t ∧ only t ∧
        t.power.inVoltage = volt % 65536 ∧ t.power.inCurrent = amp % 65536 ∧ t.power.inPower = mean % 65536 ∧
        t.power.inPeak = max s.power.inPeak (mean % 65536) ∧
        (t.power.inputLow = true ↔ watts < 850 ∧ amp < 2250) ∧
        (900 < watts ∨ 2400 < amp → t.power.inputLimit = true ∧ down t) ∧
        (watts ≤ 900 → amp ≤ 2400 → t.power.inputLimit = s.power.inputLimit ∧ t.dies = s.dies)) ∧
    (∃ t, exec .vrAlertDeassert s = .next t ∧ t = { s with power := { s.power with vrPin := false } }) ∧
    (∃ t, exec .pwrBrakeDeassert s = .next t ∧ t = { s with power := { s.power with brakePin := false } }) ∧
    ∃ t, exec .forceRelease s = .next t ∧ only t ∧
      (s.power.vrPin = true ∨ s.power.brakePin = true →
        t.power.vrAlert = s.power.vrAlert ∧ t.power.pwrBrake = s.power.pwrBrake) ∧
      (s.power.vrPin = false → s.power.brakePin = false → t.power.vrAlert = false ∧ t.power.pwrBrake = false) ∧
      (t.power.inputLimit = true ↔ s.power.inputLimit = true ∧ s.power.inputLow = false) ∧
      (t.power.vrAlert = false → t.power.pwrBrake = false → t.power.inputLimit = false → ∀ d < 8,
        dieAt t d = { dieAt s d with forced := false }) ∧
      (t.power.vrAlert = true ∨ t.power.pwrBrake = true ∨ t.power.inputLimit = true → t.dies = s.dies)

/-- R560, R562 to R564, R566, R569, R572, R574: the loop runs with λ of 95 % of the cap. Below the module's floor it parks every live
claim and reports it; else it writes the class budgets, each claim's share, preferred point and pace, and each die's target with its
assist cuts at 0, the voltage first where the rail is too low. With too much predicted, or 10 ms of excursion, the live claim
of lowest shed priority is held. An excursion of 10 ms is reported. R576 to R580, R681, R682: firmware tells the lowest target and clamp of the
matched dies; a pulse of 0.5 µs to 2 µs, or 200 µs without one, ends a period: the matched dies take the lowest code reported. -/
def Obligations.GovernorAndMatching : Prop :=
  (∀ (s : State) (p : Forecast),
    let lam := 95 * s.power.effCap / 100
    let b := classBudgets s p lam
    let u := writeClaims p (split s p (b.getD 2 0)) s
    let tooMuch := lam < p.predicted ∨ 10 ≤ s.power.excursion
    let free := (liveClaims s).filter fun k => !(claimAt s k).shed && !(claimAt s k).parked
    moduleReady s = true → coreStopped s 1 = false → s.power.state ≠ 4 →
    (lam < moduleFloor s p → ∃ t, exec (.governorLoop p) s = .next t ∧ t.power = { s.power with belowFloor := true, unmetReason := 4 } ∧
      alertPin t.power = true ∧ ∀ k ∈ liveClaims s, (claimAt t k).parked = true ∧ ((claimAt s k).heldHere = true →
        ∀ c ∈ coresOf (claimAt s k).quads, (coreAt t c).pwr.govHeld = true ∧ (coreAt t c).pwr.state ≠ 0)) ∧
    (moduleFloor s p ≤ lam → s.power.belowFloor = false → ∃ t, exec (.governorLoop p) s = .next t ∧
      t = { s with power := t.power, claims := t.claims, dies := t.dies, cores := t.cores } ∧ t.power.belowFloor = false ∧
      t.power.budgetLinks = b.getD 0 0 ∧ t.power.budgetMemory = b.getD 1 0 ∧ t.power.budgetCompute = b.getD 2 0 ∧
      (8 ≤ t.power.dramM ∧ t.power.dramM ≤ 64 ∧ 1 ≤ t.power.haulGbs ∧ t.power.haulGbs ≤ 100) ∧
      (∀ x ∈ split s p (b.getD 2 0), (claimAt t x.claim).budget = x.give ∧ (claimAt t x.claim).pref = preferred s x.claim ∧
        ((claimAt s x.claim).shed = false → (claimAt t x.claim).pace = paceOf s p x)) ∧
      (∀ d < 8, dieRuns (dieAt s d) = true → (dieAt s d).forced = false → (dieAt s d).droopClamp = 0 →
        inSet s.power.iccDies d = false →
        let n := targetOf u d
        let v := voltFor s (dieAt s d) (limited (limited n (dieAt s d).thermalClamp) (dieAt s d).matchTarget)
        (dieAt t d).assistCut = 0 ∧ (dieAt t d).vGoal = v ∧
          (if v ≤ (dieAt s d).vSet ∨ n ≤ (dieAt s d).fwTarget then (dieAt t d).fwTarget = n
           else (dieAt t d).fwTarget = (dieAt s d).fwTarget ∧ (dieAt t d).raiseTo = some n)) ∧
      (tooMuch → shedPending s = false → t.power.capUnmet = true ∧ ∀ k ∈ free,
        (∀ j ∈ free, j ≠ k → (claimAt s k).prio < (claimAt s j).prio ∨ ((claimAt s k).prio = (claimAt s j).prio ∧ j < k)) →
          (claimAt t k).shed = true))) ∧
  ∀ s : State,
    (s.power.excursion < 10 → exec .excursionReport s = .next s) ∧
    (10 ≤ s.power.excursion → ∃ t, exec .excursionReport s = .next t ∧ t.power.excursionRpt = true ∧ alertPin t.power = true) ∧
    (coreStopped s 1 = false → ∀ n, achievable s = some n → ∃ t, exec .achievableCodeReport s = .next t ∧
      t = { s with power := { s.power with own := n }, group := t.group } ∧ ∀ r ∈ otherMembers s, (r, GroupMsg.code n) ∈ t.group.sent) ∧
    (∀ (r : Rank) (n : Nat), r.val ∈ otherMembers s → 0 < n → n < 256 → ∃ t, exec (.matchReportReceive r n) s = .next t ∧
      t = { s with power := t.power } ∧ tget 0 t.power.reports r = n ∧ ∀ j, j ≠ r.val → tget 0 t.power.reports j = tget 0 s.power.reports j) ∧
    (grouped s = true → lowestLive s = some s.group.rank → s.sys.boot.main = true → ∃ t, exec .grpSyncDrive s = .next t ∧
      t = { s with group := { s.group with pulses := s.group.pulses + 1 } }) ∧
    (∀ low : Nat, grouped s = true → (low < 5 ∨ 20 < low) → exec (.grpSyncPulse low) s = .next s) ∧
    ∀ (i : Instr) (low : Nat) (own : Bool), grouped s = true → 5 ≤ low → low ≤ 20 →
      ((i = .grpSyncPulse low ∧ own = false) ∨ (i = .grpSyncTimeout ∧ own = true)) →
      let codes := s.power.reports.map fun e => e.2
      let m := if codes.isEmpty || (matchedDies s).isEmpty then 0 else codes.foldl min (if s.power.own = 0 then 255 else s.power.own)
      ∃ t, exec i s = .next t ∧ t = { s with power := t.power, dies := t.dies } ∧ t.power.ownPulse = own ∧
        t.power.groupMin = m ∧ t.power.reports = [] ∧ t.power.periods = wrapAdd 16 s.power.periods 1 ∧
        ∀ d < 8, dieAt t d = { dieAt s d with matchTarget := if d ∈ matchedDies s then m else 0 }

/-- R581, R583, R584, R701: a sample records the hottest sensor and moves the die's clamp; at 105 °C it clamps at code 10 and asks for
0.55 V. A stack at 95 °C halves its ceiling, a hub at 105 °C both; above 85 °C a stack refreshes twice as often. R585, R652, R655: a trip or a failure turns
the die off, fails it, and aborts the tasks of claims with resources on it; a claim that keeps a quad there is impaired. A trip of the hub turns the module off.
R604, R656: a stopped control core is one of the stopped set until it restarts; a second expiry resets the module. R634: a scrub
corrects or poisons, and aborts no task. R654: a failed stack loses every region; 16 distinct
units of a stack that are met uncorrectable within 1 s fail it. R655: a fault of the module is logged, copied to flash, and ends
every claim. R660: entries not copied yet go to flash. -/
def Obligations.TemperaturesAndFailures : Prop :=
  (∀ s : State, s.sys.boot.main = true → 3 ≤ s.sys.boot.stage →
    (∀ (d : DieId) (xs : List Int), xs.length = 24 → ∃ t, exec (.thermalSample d xs) s = .next t ∧
      t = { s with dies := t.dies, therm := { s.therm with tripPin := t.therm.tripPin } } ∧
      (∀ e, e ≠ d.val → dieAt t e = dieAt s e) ∧
      let x := dieAt s d
      let y := dieAt t d
      let on : Int := s.therm.onset
      y.tMax ∈ xs ∧ (∀ v ∈ xs, v ≤ y.tMax) ∧ xs[y.hotSensor]? = some y.tMax ∧ y.tMean = xs.foldl (· + ·) 0 / 24 ∧
        (x.present = false → y.thermalClamp = x.thermalClamp) ∧ (x.present = true →
          (840 ≤ y.tMax → y.thermalClamp = 10 ∧ (x.droopClamp = 0 → y.vGoal = 1100)) ∧
          (y.tMax < 840 → y.vGoal = x.vGoal ∧
            (on + 8 ≤ y.tMax → y.thermalClamp = max 10 ((if x.thermalClamp = 0 then appliedPace s x else x.thermalClamp) - 1)) ∧
            (y.tMax < on + 8 → on - 8 < y.tMax → y.thermalClamp = x.thermalClamp) ∧
            (y.tMax < on + 8 → y.tMax ≤ on - 8 → x.thermalClamp = 0 → y.thermalClamp = 0) ∧
            (y.tMax < on + 8 → y.tMax ≤ on - 8 → x.thermalClamp ≠ 0 →
              y.thermalClamp = if topCode s ≤ x.thermalClamp + 1 then 0 else x.thermalClamp + 1)))) ∧
    (∀ a b : Int, ∃ t, exec (.dramThermalTick a b) s = .next t ∧ t = { s with therm := { s.therm with stackSet := t.therm.stackSet } } ∧
      ∀ (n : Nat) (v : Int), (n = 0 ∧ v = a) ∨ (n = 1 ∧ v = b) →
        (stackTherm t n).tMax = v ∧ ((stackTherm t n).refresh2x = true ↔ 680 < v) ∧
        (coreStopped s 1 = false → (760 ≤ v → (stackTherm t n).ceiling = max 8 (min (stackTherm s n).ceiling s.power.dramM / 2)) ∧
          (720 ≤ v → v < 760 → (stackTherm t n).ceiling = (stackTherm s n).ceiling))) ∧
    ∀ v : Int, ∃ t, exec (.hubThermalTick v) s = .next t ∧ t = { s with therm := t.therm } ∧ t.therm.hubMax = v ∧
      (coreStopped s 1 = false → (840 ≤ v → t.therm.hubThrottle = true ∧ t.therm.hubDram = max 8 (min s.therm.hubDram s.power.dramM / 2) ∧
          t.therm.hubHaul = max 1 (min s.therm.hubHaul s.power.haulGbs / 2)) ∧
        (800 ≤ v → v < 840 → t.therm = { s.therm with hubMax := v }) ∧
        (v < 800 → t.therm.hubThrottle = false ∧ dramCeiling t = min s.power.dramM (min 64 (min (stackTherm s 0).ceiling (stackTherm s 1).ceiling))))) ∧
  (∀ (s : State) (d : DieId) (i : Instr), (dieAt s d).present = true → (dieAt s d).vSet ≠ 0 →
    i = .dieFail d ∨ i = .dieThermalTrip d ∨ (∃ n : Fin 12, ∃ ms : Nat, n.val = d.val + 4 ∧ i = .controlCoreWatchdog n ms) →
    ∃ t, exec i s = .next t ∧ (dieAt t d).present = false ∧ (dieAt t d).mode = .off ∧ (dieAt t d).vSet = 0 ∧
      inSet t.ras.diesFailed d = true ∧ (i = .dieThermalTrip d → (dieAt t d).tripped = true ∧ t.therm.tripPin = true ∧
        inSet t.therm.tripSeen d = true ∧ t.therm.trips = satAdd 0xFFFF s.therm.trips 1) ∧
      ∀ k ∈ claimNos, usesDie s k d = true → hasTask t k = false ∧ (claimAt t k).image = none ∧
        (hasTask s k = true → (claimAt t k).fenced = true) ∧
        ((claimAt t k).impaired = none → ∀ q ∈ upFrom (4 * d.val) 4, inSet (claimAt t k).quads q = false)) ∧
  ∀ s : State,
    (∀ n : Fin 2, s.dram.ready ≠ 0 → inSet s.ras.stacksFailed n = false → ∃ t, exec (.stackFail n) s = .next t ∧
      inSet t.ras.stacksFailed n = true ∧ t.ras.dramLost = 2 ^ 225 - 1 ∧ ∀ k ∈ claimNos, ∀ y, (claimAt s k).task = some y →
        y.fault = none → (claimAt s k).dram ≠ 0 → taskFaulted k .memUe 8 t) ∧
    (s.sys.boot.main = true → s.sys.boot.hubOff = false → ∃ t, exec .hubThermalTrip s = .next t ∧ t.sys.boot.hubOff = true ∧
      t.sys.boot.stage = 0 ∧ t.therm.hubTrip = true ∧ t.claims = [] ∧ t.dies = []) ∧
    (s.sys.boot.main = true → s.sys.boot.recovery = false → ∃ t, exec .moduleFault s = .next t ∧ t.claims = [] ∧ t.cores = [] ∧
      t.sys.boot.faulted = true ∧ ∃ e ∈ t.ras.plog, e.kind = 15) ∧
    (coreStopped s 3 = false → ∃ t, exec .logPersist s = .next t ∧ t = { s with ras := t.ras } ∧ t.ras.unsaved = [] ∧
      t.ras.log = s.ras.log ∧ t.ras.plogTotal = wrapAdd 32 s.ras.plogTotal s.ras.unsaved.length ∧
      (s.ras.plog.length + s.ras.unsaved.length ≤ 262144 → t.ras.plog = s.ras.plog ++ s.ras.unsaved)) ∧
    (∀ (n : Fin 4) (m : Fin 12) (ms : Nat), m.val = n.val → s.sys.boot.main = true → 3 ≤ s.sys.boot.stage →
      (ms < 1000 → exec (.controlCoreWatchdog m ms) s = .next (moduleReset s)) ∧
      (1000 ≤ ms → ∃ t, exec (.controlCoreWatchdog m ms) s = .next t ∧ coreStopped t n = true ∧ t.cores = s.cores ∧
        t.claims = s.claims ∧ ((n = 0 ∨ n = 2) → s.group.forming = true → t.group.forming = false ∧ t.group.stage = .none))) ∧
    (∀ n : Fin 4, (n ≠ 0 ∨ s.claimReq.waiting = 0) → ∃ t, exec (.controlCoreRestarted n) s = .next t ∧ coreStopped t n = false ∧
      (∀ j, j ≠ n.val → coreStopped t j = coreStopped s j) ∧ t.claims = s.claims ∧ t.cores = s.cores) ∧
    (∀ (u n : Nat), mayScrub s (.dram u) = true → n < 2 →
      let met := (u, s.now) :: s.dram.ueUnits.filter fun x => x.1 ≠ u && s.now ≤ x.2 + 1000000000
      16 ≤ (met.filter fun x => dramStack (64 * x.1) = n).length →
      ∃ t, exec (.scrubAccess (.dram u) .uncorrectable) s = .next t ∧ inSet t.ras.stacksFailed n = true) ∧
    ∀ (w : MemWord), mayScrub s w = true → s.dram.ueUnits.length < 15 →
      exec (.scrubAccess w .clean) s = .next s ∧
      (∃ t, exec (.scrubAccess w .corrected) s = .next t ∧ t.ras.ce = true ∧ t.claims = s.claims ∧
        t.gallery.bytes = s.gallery.bytes ∧ t.gallery.poison = s.gallery.poison ∧ t.dram.bytes = s.dram.bytes ∧ t.dram.poison = s.dram.poison) ∧
      ∃ t, exec (.scrubAccess w .uncorrectable) s = .next t ∧ t.ras.ue = true ∧ t.claims = s.claims ∧
        (t.ras.log.head?.map fun e => (e.kind, e.cls)) = some (match w with
          | .bench _ _ => (3, 1) | .gallery _ => (3, 3) | .dram _ => (3, 6)) ∧
        match w with
        | .bench c i => tget false (coreAt t c).bench.poison i = true ∧ t.gallery = s.gallery ∧ t.dram = s.dram
        | .gallery i => tget false t.gallery.poison i = true ∧ t.cores = s.cores ∧ t.dram = s.dram
        | .dram u => tget false t.dram.poison u = true ∧ t.cores = s.cores ∧ t.gallery = s.gallery

/-- R17, R18, R46 to R52, R166, R518, R519: an access of a wrong size or alignment, at no register, or by a function that may not make it has no
effect but its count, and the first since the flag was cleared is recorded; a read of that kind answers 0. A write that R518
allows stores the fields of its register: a 32-bit write reaches its half; read-only registers keep; a field written with 1
to clear is cleared where a 1 is written, and a 32-bit read answers its half. R50: an access to a register of a die that is off or in L3 sets that die's bit. R289, R534,
R542, R569, R582, R598 to R602: the registers named here take what is written in their ranges. -/
def Obligations.RegisterAccesses : Prop :=
  ∀ (s : State) (f : FnId), (functionAt s f).present = true →
    let counted (o : Nat) (w : Bool) (t : State) : Prop := t = { s with ras := t.ras, answer := t.answer } ∧
      t.ras.bar.count = wrapAdd 32 s.ras.bar.count 1 ∧ t.ras.bar.seen = true ∧
      (s.ras.bar.seen = false → t.ras.bar.fn = f.val ∧ t.ras.bar.write = w ∧ t.ras.bar.offset = o % 2 ^ 26)
    (∀ (o : Nat) (w : Bool), ∃ t, exec (.bar0InvalidAccess f o w) s = .next t ∧ counted o w t ∧
      t.answer = if w then s.answer else .words [0]) ∧
    (∀ (o size : Nat) (v : W64), accessFits o size = false ∨ barRegAt (o / 8 * 8) = none →
      ∃ t, exec (.registerWrite f o size v) s = .next t ∧ counted o true t ∧ t.answer = s.answer) ∧
    (∀ (o : Nat) (v : W64) (r : Reg), accessFits o 8 = true → barRegAt (o / 8 * 8) = some r →
      (isControl s f = false → r ∈ [Reg.poweredOff, .thmCtrl, .thmTrip, .errSummary, .errPersist, .gov .classCtrl, .gov .cap] →
        ∃ t, exec (.registerWrite f o 8 v) s = .next t ∧ counted o true t) ∧
      (∀ (c : CoreId) (x : CoreReg) (k : Nat), r = .core c x → coreOwner s c = some k → actsFor s f k = false →
        ∃ t, exec (.registerWrite f o 8 v) s = .next t ∧ counted (coreBase c + (o - coreBase c)) true t) ∧
      (∀ (c : CoreId) (x : CoreReg) (k : Nat), r = .core c x → coreOwner s c = some k → actsFor s f k = true →
        (dieInReach s (dieOf c) = false → ∃ t, exec (.registerWrite f o 8 v) s = .next t ∧ onlyDie (dieOf c) s t ∧
          dieAt t (dieOf c) = { dieAt s (dieOf c) with offAccess := true }) ∧
        (dieInReach s (dieOf c) = true →
          (x ∈ [CoreReg.seqStatus, .seqFaultWord, .seqRetired, .seqImage, .syncWait, .arrStatus, .drsStatus, .attStatus] →
            exec (.registerWrite f o 8 v) s = .next s) ∧
          (∀ n, x = .rtDeadline n → n ≠ 0 → ∃ t, exec (.registerWrite f o 8 v) s = .next t ∧ onlyCore c s t ∧
            (coreAt t c).sync = { (coreAt s c).sync with
              deadlines := tput 0 (coreAt s c).sync.deadlines n (fieldOf v 31 0) }) ∧
          (x = .arrCtrl → ∃ t, exec (.registerWrite f o 8 v) s = .next t ∧ onlyCore c s t ∧ (coreAt t c).mat =
            { (coreAt s c).mat with idleAfter := fieldOf v 15 8, ramp := if fieldOf v 1 0 = 3 then 1 else fieldOf v 1 0 }) ∧
          (x = .arithFlags → ∃ t, exec (.registerWrite f o 8 v) s = .next t ∧ onlyCore c s t ∧
            (taskOn s c = true → t = s) ∧
            let a := (coreAt s c).mat.arith
            let b := (coreAt t c).mat.arith
            (taskOn s c = false → b.galEvent = (a.galEvent && !(bitOf v 5)) ∧ b.scaleNan = (a.scaleNan && !(bitOf v 4)) ∧
              b.convSat = (a.convSat && !(bitOf v 3)) ∧ b.convOvf = (a.convOvf && !(bitOf v 2)) ∧
              b.accInf = (a.accInf && !(bitOf v 1)) ∧ b.accNan = (a.accNan && !(bitOf v 0)))))) ∧
      (∀ (k : ClaimId) (n : Nat), actsFor s f k = true →
        (r = .claim k (.phase n) → ∃ t, exec (.registerWrite f o 8 v) s = .next t ∧ t = { s with claims := t.claims } ∧
          claimAt t k = { claimAt s k with phases := tput 0 (claimAt s k).phases n (fieldOf v 63 56) }) ∧
        (r = .claim k (.ringBase n) → ∃ t, exec (.registerWrite f o 8 v) s = .next t ∧ t = { s with claims := t.claims } ∧
          (tget {} (claimAt t k).rings n).base =
            if (tget {} (claimAt s k).rings n).enable then (tget {} (claimAt s k).rings n).base else v)) ∧
      (isControl s f = true →
        (r = .thmCtrl → ∃ t, exec (.registerWrite f o 8 v) s = .next t ∧ t = { s with therm := t.therm } ∧
          t.therm.onset = if 600 ≤ fieldOf v 63 52 ∧ fieldOf v 63 52 ≤ 760 then fieldOf v 63 52 else s.therm.onset) ∧
        (r = .gov .classCtrl → ∃ t, exec (.registerWrite f o 8 v) s = .next t ∧ t = { s with power := t.power } ∧
          let x := fieldOf v 63 62
          let y := fieldOf v 61 60
          let z := fieldOf v 59 58
          ((x ≠ y ∧ x ≠ z ∧ y ≠ z ∧ x ≠ 3 ∧ y ≠ 3 ∧ z ≠ 3) → t.power = { s.power with
            first := x, second := y, third := z, linksFloor := fieldOf v 57 48, memFloor := fieldOf v 47 38
            compFloor := fieldOf v 37 28 }) ∧
          ((x = y ∨ x = z ∨ y = z ∨ x = 3 ∨ y = 3 ∨ z = 3) → t.power = s.power)) ∧
        (∀ k : ClaimId, r = .gov (.claim k) → ∃ t, exec (.registerWrite f o 8 v) s = .next t ∧ t = { s with claims := t.claims } ∧
          claimAt t k = { claimAt s k with prio := fieldOf v 63 61, matchOn := bitOf v 60 }) ∧
        (r = .errSummary → ∃ t, exec (.registerWrite f o 8 v) s = .next t ∧ t = { s with ras := t.ras } ∧
          t.ras.ue = (s.ras.ue && !(bitOf v 1)) ∧ t.ras.ce = (s.ras.ce && !(bitOf v 0))))) ∧
    (∀ o : Nat, o % 8 = 0 → readBar s f o 4 = readBar s f o 8 &&& 0xFFFFFFFF ∧ readBar s f (o + 4) 4 = readBar s f o 8 >>> 32) ∧
    (∀ (o : Nat) (v : W64) (i : Nat), o % 8 = 4 → barRegAt (o / 8 * 8) = some (.mbxData f i) →
      ∃ t, exec (.registerWrite f o 4 v) s = .next t ∧
        fieldOf (tget 0 (pageAt t f).data i) 31 0 = fieldOf (tget 0 (pageAt s f).data i) 31 0 ∧
        fieldOf (tget 0 (pageAt t f).data i) 63 32 = fieldOf v 31 0 ∧ t.cores = s.cores ∧ t.claims = s.claims) ∧
    ∀ (o : Nat) (w : Bool) (c : CoreId) (x : CoreReg), barRegAt (o / 8 * 8) = some (.core c x) → coreAllowed s f c w = true →
      dieInReach s (dieOf c) = false → ∃ t, exec (.poweredOffAccess f o w) s = .next t ∧
        t = { s with dies := t.dies, answer := if w then s.answer else .words [0] } ∧
        (∀ d, d ≠ dieOf c → dieAt t d = dieAt s d) ∧ dieAt t (dieOf c) = { dieAt s (dieOf c) with offAccess := true }

/-- R557 to R559, R562, R590 to R592, R596, R610, R670: while aux is good every message of the rack manager's endpoint ends a fail-safe cap and is
answered, completion code first. A cap is taken from 300 W to the envelope, and the effective cap is the lower of the rack cap
and the host limit; authority, fail-safe and states as the commands give; a task keeps the module from L4 and L5; in
recovery only the caps and the power are told. R557, R598: the host limit needs authority. The fail-safe cap
replaces the rack cap after its timeout. -/
def Obligations.SidebandAndCaps : Prop :=
  ∀ s : State,
    let p := s.power
    let eff := min p.rackCap p.hostLimit
    let base : PowerState := { p with failsafe := false, effCap := eff }
    let said (i : Instr) (bytes : List Byte) (q : PowerState) : Prop :=
      ∃ t, exec i s = .next t ∧ t = { s with power := q, answer := .data bytes }
    (s.sys.boot.aux = false → ∀ i ∈ [Instr.setCap 500 false, .getCap, .getPower, .getReasons, .setHostAuth true, .setState 4,
      .clearExcursion, .oemUnknownCommand 9, .pldmGetSensor 0, .pldmSetRackCap 500], exec i s = .next s) ∧
    (s.sys.boot.aux = true →
      said .getCap (0x00 :: leBytes 2 p.rackCap ++ leBytes 2 p.hostLimit ++ leBytes 2 eff ++ leBytes 2 s.sys.flash.bootCap ++
        leBytes 2 p.failsafeCap ++ leBytes 1 (b2n p.hostAuth)) base ∧
      (∃ head, said .getPower (0x00 :: leBytes 2 (p.estimate / 8) ++ leBytes 2 p.demand ++ leBytes 2 p.inPower ++
        leBytes 2 p.inPeak ++ leBytes 2 head) base) ∧
      (∀ code : Byte, code.toNat = 0 ∨ 8 < code.toNat → said (.oemUnknownCommand code) [0x82] base) ∧
      (s.sys.boot.recovery = true → ∀ (i : Instr) (cap : Nat) (b : Bool), i ∈ [Instr.setCap cap b, .getReasons, .setHostAuth b,
        .setFailsafe cap 10, .setState cap, .clearExcursion, .pldmGetSensor cap, .pldmSetRackCap cap] → said i [0x81] base) ∧
      (s.sys.boot.recovery = false →
        (∀ (cap : Nat) (store : Bool),
          (300 ≤ cap → cap ≤ envelope s → ∃ t, exec (.setCap cap store) s = .next t ∧
            t = { s with power := t.power, sys := t.sys, answer := .data (0x00 :: leBytes 2 t.power.effCap) } ∧
            t.power = { base with rackCap := cap, effCap := min cap p.hostLimit } ∧
            t.sys = { s.sys with flash := { s.sys.flash with bootCap := if store then cap else s.sys.flash.bootCap } } ∧
            said (.pldmSetRackCap cap) [0x00] { base with rackCap := cap, effCap := min cap p.hostLimit }) ∧
          (cap < 300 ∨ envelope s < cap → said (.setCap cap store) [0x80] base ∧ said (.pldmSetRackCap cap) [0x80] base)) ∧
        (∃ more, said .getReasons (0x00 :: leBytes 1 (reasonBits { s with power := base }) ++ ((upFrom 0 8).flatMap fun i =>
          leBytes 8 (tget 0 p.reasons i)) ++ more) base) ∧
        said (.setHostAuth true) [0x00] { base with hostAuth := true } ∧
        said (.setHostAuth false) [0x00] { base with hostAuth := false, hostLimit := envelope s, effCap := min p.rackCap (envelope s) } ∧
        (∀ cap time, 300 ≤ cap → cap ≤ envelope s → 0 < time → time ≤ 65535 →
          said (.setFailsafe cap time) [0x00] { base with failsafeCap := cap, failsafeTimeout := time }) ∧
        (∀ cap time, cap < 300 ∨ envelope s < cap → 0 < time → said (.setFailsafe cap time) [0x80] base) ∧
        (∀ cap, cap < 65536 → said (.setFailsafe cap 0) [0x00] { base with failsafeCap := cap, failsafeTimeout := 0 }) ∧
        said .clearExcursion [0x00] { base with excursionRpt := false } ∧
        (∀ n v : Nat, s.sys.sensors[n]? = some (v : Int) → v < 2 ^ 32 → said (.pldmGetSensor n) (0x00 :: leBytes 4 v) base) ∧
        (∀ n : Nat, s.sys.sensors[n]? = none → said (.pldmGetSensor n) [0x80] base) ∧
        (∀ n, n ≠ 0 → n ≠ 4 → n ≠ 5 → said (.setState n) [0x80] base) ∧
        (s.sys.boot.standby = false → moduleReady s = true →
          (anyTask s = true → p.state ≠ 4 → said (.setState 4) [0x81] base ∧ said (.setState 5) [0x81] base) ∧
          (anyTask s = false → p.state ≠ 4 → ∃ t, exec (.setState 4) s = .next t ∧ t.power.state = 4 ∧ t.answer = .data [0x00] ∧
            t.dram = s.dram ∧ ∀ d < 8, (dieAt t d).mode = .off) ∧
          (p.state = 4 → ∃ t, exec (.setState 0) s = .next t ∧ t.power.state = 0 ∧ t.answer = .data [0x00] ∧ t.cores = s.cores) ∧
          (anyTask s = false → ∃ t, exec (.setState 5) s = .next t ∧ t.power.state = 5 ∧ t.sys.boot.standby = true ∧
            t.sys.boot.stage = 0 ∧ t.claims = [] ∧ t.answer = .data [0x00])))) ∧
    (∀ (f : FnId) (w : Nat), isControl s f = true →
      (p.hostAuth = true → 300 ≤ w → w ≤ envelope s → ∃ t, exec (.hostLimitWrite f w) s = .next t ∧
        t = { s with power := { p with hostLimit := w, effCap := min (rackNow p) w } }) ∧
      (p.hostAuth = false ∨ w < 300 ∨ envelope s < w → exec (.hostLimitWrite f w) s = .next s)) ∧
    (p.failsafeTimeout ≠ 0 → ∃ t, exec .failsafeTimeout s = .next t ∧
      t = { s with power := { p with failsafe := true, effCap := min p.failsafeCap p.hostLimit } }) ∧
    (p.failsafeTimeout = 0 → exec .failsafeTimeout s = .next s)

/-- R605, R606, R622 to R624, R610: one update at a time over PLDM goes through learning, ready, download, verify and apply, writes the
inactive image alone, and is taken only when genuine and not below the security floor; a command out of its state is turned
away; activation names the staged image as active and on trial. FW_STAGE refuses below the floor before any flash is
written. The PLDM completion codes are those of DSP0267 (the model's choice, entry 93). -/
def Obligations.FirmwareUpdates : Prop :=
  ∀ s : State,
    let p := s.sys.pldm
    let said (i : Instr) (n : Nat) (q : PldmUpdate) : Prop :=
      ∃ t, exec i s = .next t ∧ t = { s with sys := { s.sys with pldm := q }, answer := .number n }
    let active (t : State) : Prop := imageOf t.sys.flash s.sys.firm.imageB = imageOf s.sys.flash s.sys.firm.imageB ∧
      bootRecord t.sys.flash = bootRecord s.sys.flash ∧ t.cores = s.cores ∧ t.claims = s.claims
    let other := !s.sys.firm.imageB
    (s.sys.boot.aux = true →
      (∃ t, exec .queryDeviceIdentifiers s = .next t ∧
        t = { s with answer := .words [Config.pciIdentifiers, placed 0x4B59 48 ||| placed s.sys.ident.part 32 ||| placed s.sys.ident.step 16] }) ∧
      (∃ t pending, exec .getFirmwareParameters s = .next t ∧
        t = { s with answer := .words [1, BitVec.ofNat 64 s.sys.firm.version, pending, if s.sys.boot.recovery then 1 else 0] } ∧
        (s.sys.firm.staged = false → pending = 0) ∧
        (s.sys.firm.staged = true → pending = BitVec.ofNat 64 (versionOf (imageOf s.sys.flash other)))) ∧
      said .getStatus (match p.state with
        | .idle => 0 | .learn => 1 | .ready => 2 | .download => 3 | .verify => 4 | .apply => 5) p ∧
      (p.state = .idle → said .requestUpdate 0 { state := .learn } ∧ said .cancelUpdate 0x80 p) ∧
      (p.state ≠ .idle → said .requestUpdate 0x81 p ∧ said .cancelUpdate 0 {}) ∧
      (p.state = .learn → said (.passComponentTable 1 1) 0 { p with state := .ready } ∧
        ∀ n c, n ≠ 1 ∨ c ≠ 1 → said (.passComponentTable n c) 0x82 p) ∧
      (p.state = .ready → ∀ c sec, (c = 1 → s.sys.ident.secFloor ≤ sec →
          said (.updateComponent c sec) 0 { state := .download, security := sec }) ∧
        (c ≠ 1 ∨ sec < s.sys.ident.secFloor → said (.updateComponent c sec) 0x82 p)) ∧
      (p.state = .download →
        (∀ (vdm : Bool) (data : List Byte), data ≠ [] → data.length ≤ (if vdm then 4096 else 256) →
          p.received + data.length ≤ 24 * 2 ^ 20 → ∃ t, exec (.requestFirmwareData vdm data) s = .next t ∧ active t ∧
            t.answer = .number 0 ∧ t.sys.pldm = { p with received := p.received + data.length } ∧
            imageOf t.sys.flash other = none ∧ t.sys.firm.staged = false) ∧
        (∀ (vdm : Bool) (data : List Byte), (if vdm then 4096 else 256) < data.length → said (.requestFirmwareData vdm data) 0x83 p) ∧
        (p.received ≠ 0 → said .transferComplete 0 { p with state := .verify })) ∧
      (p.state = .verify → ∀ img : FwImage, ∃ t, exec (.verifyComplete img) s = .next t ∧ active t ∧ imageOf t.sys.flash other = some img ∧
        (img.genuine = true → s.sys.ident.secFloor ≤ img.security → t.answer = .number 0 ∧ t.sys.pldm.state = .apply ∧
          t.sys.pldm.verified = true) ∧
        (img.genuine = false ∨ img.security < s.sys.ident.secFloor → t.answer ≠ .number 0 ∧ t.sys.pldm.state = .ready ∧
          t.sys.pldm.verified = false)) ∧
      (p.state = .apply → ∃ t, exec .applyComplete s = .next t ∧ active t ∧ t.sys.flash = s.sys.flash ∧ t.answer = .number 0 ∧
        t.sys.pldm = { p with state := .ready } ∧ t.sys.firm.staged = true) ∧
      (p.state = .ready → p.verified = true → s.sys.boot.recovery = false → said (.activateFirmware true) 0x8C p ∧
        ∃ t, exec (.activateFirmware false) s = .next t ∧ t.answer = .number 0 ∧ t.sys.pldm = {} ∧
          bootRecord t.sys.flash = { seq := (bootRecord s.sys.flash).seq + 1, activeB := other, trial := true } ∧
          t.sys.flash.imageA = s.sys.flash.imageA ∧ t.sys.flash.imageB = s.sys.flash.imageB ∧ t.claims = s.claims) ∧
      (p.state = .download ∨ p.state = .verify ∨ p.state = .apply → said .cancelUpdateComponent 0 { state := .ready }) ∧
      (p.state = .learn ∨ p.state = .ready → said .cancelUpdateComponent 0x84 p) ∧
      (p.state = .idle → ∀ img : FwImage, ∀ i ∈ [Instr.passComponentTable 1 1, .updateComponent 1 0, .requestFirmwareData false [0],
        .transferComplete, .verifyComplete img, .applyComplete, .activateFirmware false, .cancelUpdateComponent], said i 0x80 p)) ∧
    (∀ (f : FnId) (seq : BitVec 16) (img : FwImage) (size : Nat) (ok : Bool), (functionAt s f).present = true →
      isControl s f = true → (pageAt s f).busy = false → coreStopped s 0 = false →
      ∃ t, exec (.fwStage f seq img size ok) s = .next t ∧ active t ∧ (pageAt t f).done = true ∧ (pageAt t f).seq = seq.toNat ∧
        (pageAt t f).result = (if size ≤ 512 ∨ 24 * 2 ^ 20 < size then 3 else if p.state ≠ .idle then 4
          else if img.security < s.sys.ident.secFloor then 6 else if ok = false then 7 else if img.genuine = false then 5 else 0) ∧
        ((pageAt t f).result = 0 → imageOf t.sys.flash other = some img ∧ t.sys.firm.staged = true) ∧
        ((pageAt t f).result = 3 ∨ (pageAt t f).result = 4 ∨ (pageAt t f).result = 6 → t.sys.flash = s.sys.flash))

/-- R618, R619: a mailbox command of a control function completes on its page with its result and sequence number; for another
function the result is 2 and nothing else happens; while one is in progress another is ignored, and while HC0 is stopped a
command waits. R517, R326, R411, R585, R623, R625, R626: the commands store the port configuration, the port's addresses and priority,
retrain links that are down, restart a tripped die that has cooled, set a claim's watchdog, and reset the module, with every
claim gone, only without a live task or with force. R590, R620, R621: telemetry rings take one record a period. A result of the
reset itself is cleared with the mailbox (the model's reading of R625, entry 100). -/
def Obligations.MailboxCommands : Prop :=
  (∀ (s : State) (f : FnId) (seq : BitVec 16) (force : Bool) (mac : BitVec 48) (ip : BitVec 128) (mask : BitVec 12) (e : Fin 2)
      (pfc : Fin 8) (cc : W64) (d : DieId) (k : ClaimId) (pfs vfs : List Nat),
    let page := pageAt s f
    let cmds : List (Nat × Instr) := [(2, .fwActivate f seq force), (3, .moduleReset f seq force), (4, .portConfig f seq pfs vfs),
      (5, .haulConfig f seq e mac ip pfc cc), (9, .linkRetrain f seq mask), (10, .dieRestart f seq d), (11, .watchdog f seq k force)]
    let done (code result : Nat) (t : State) : Prop := pageAt t f = { page with
      cmd := code, reqSeq := seq.toNat, result := result, seq := seq.toNat, busy := false, done := true }
    let pageOnly (t : State) : Prop := t = { s with sys := { s.sys with pages := t.sys.pages } }
    (functionAt s f).present = true → page.busy = false →
    (coreStopped s 0 = true → ∀ c ∈ cmds, ∃ t, exec c.2 s = .next t ∧ pageOnly t ∧
      pageAt t f = { page with cmd := c.1, reqSeq := seq.toNat, busy := true }) ∧
    (coreStopped s 0 = false → isControl s f = false → ∀ c ∈ cmds, ∃ t, exec c.2 s = .next t ∧ pageOnly t ∧ done c.1 2 t) ∧
    (coreStopped s 0 = false → isControl s f = true →
      (s.sys.firm.staged = false → ∃ t, exec (.fwActivate f seq force) s = .next t ∧ pageOnly t ∧ done 2 4 t) ∧
      (s.sys.firm.staged = true → ∃ t, exec (.fwActivate f seq false) s = .next t ∧ done 2 0 t ∧ t.claims = s.claims ∧
        bootRecord t.sys.flash = { seq := (bootRecord s.sys.flash).seq + 1, activeB := !s.sys.firm.imageB, trial := true }) ∧
      (s.sys.firm.staged = true → anyTask s = false → ∃ t, exec (.fwActivate f seq true) s = .next t ∧ t.claims = [] ∧ t.cores = [] ∧
        t.power.rackCap = s.power.rackCap) ∧
      (anyTask s = true → ∃ t, exec (.moduleReset f seq false) s = .next t ∧ pageOnly t ∧ done 3 4 t) ∧
      ((anyTask s = false ∨ force = true) → ∃ t, exec (.moduleReset f seq force) s = .next t ∧ t.claims = [] ∧ t.cores = [] ∧
        t.dies = [] ∧ t.dram.bytes = [] ∧ t.gallery.bytes = [] ∧ t.group = {} ∧ t.functions = [] ∧ t.power.rackCap = s.power.rackCap ∧
        t.power.hostAuth = s.power.hostAuth ∧ t.power.failsafeCap = s.power.failsafeCap ∧ t.sys.ident = s.sys.ident ∧
        (∀ l, (pcieAt t l).up = false) ∧ t.pending = s.pending) ∧
      (pfs.length = 4 → vfs.length = 4 → (∀ n ∈ pfs, 1 ≤ n ∧ n ≤ 4) → (∀ n ∈ vfs, n ≤ 15) → functionCount s pfs vfs ≤ 8 →
        ∃ t, exec (.portConfig f seq pfs vfs) s = .next t ∧ done 4 0 t ∧ t.functions = s.functions ∧
          t.sys.flash = { s.sys.flash with pfs := pfs, vfs := vfs }) ∧
      (8 < functionCount s pfs vfs → ∃ t, exec (.portConfig f seq pfs vfs) s = .next t ∧ pageOnly t ∧ done 4 3 t) ∧
      ((∃ q ∈ s.haul.qps, q.2.state = 1 ∧ qpPort q.2 = e.val) → ∃ t, exec (.haulConfig f seq e mac ip pfc cc) s = .next t ∧
        pageOnly t ∧ done 5 4 t) ∧
      ((∀ q ∈ s.haul.qps, q.2.state ≠ 1 ∨ qpPort q.2 ≠ e.val) → ∃ t, exec (.haulConfig f seq e mac ip pfc cc) s = .next t ∧ done 5 0 t ∧
        portAt t e = { portAt s e with mac := mac, ip := ip, pfc := pfc.val } ∧ t.haul.gain = fieldOf cc 63 56 ∧
        t.haul.aiStep = fieldOf cc 55 40 ∧ t.haul.cutGap = fieldOf cc 39 32 ∧ t.haul.incPeriod = fieldOf cc 31 24 ∧
        t.haul.qps = s.haul.qps ∧ t.haul.streams = s.haul.streams) ∧
      (∃ t, exec (.linkRetrain f seq mask) s = .next t ∧ done 9 0 t ∧ t.cores = s.cores ∧ ∀ l < 12,
        (if inSet mask.toNat l = true ∧ (linkAt s l).mode = .down then (linkAt t l).mode = .retraining else linkAt t l = linkAt s l)) ∧
      ((dieAt s d).tripped = true → (dieAt s d).tMax < 680 → ∃ t, exec (.dieRestart f seq d) s = .next t ∧ done 10 0 t ∧
        (dieAt t d).present = true ∧ (dieAt t d).tripped = false ∧ (dieAt t d).mode = .run ∧ (dieAt t d).vSet = 1400 ∧
        inSet t.ras.diesFailed d = false ∧ ∀ x, x ≠ d.val → dieAt t x = dieAt s x) ∧
      ((dieAt s d).tripped = false ∨ 680 ≤ (dieAt s d).tMax → ∃ t, exec (.dieRestart f seq d) s = .next t ∧ pageOnly t ∧ done 10 4 t) ∧
      ((claimAt s k).created = true → ∃ t, exec (.watchdog f seq k force) s = .next t ∧ done 11 0 t ∧
        claimAt t k = { claimAt s k with wdOff := force } ∧ ∀ j, j ≠ k.val → claimAt t j = claimAt s j))) ∧
  (∀ (s : State) (f : FnId) (seq : BitVec 16) (ring : W64) (n period : Nat), (functionAt s f).present = true →
    (pageAt s f).busy = false → coreStopped s 0 = false →
    let scope := if isControl s f then some 8 else boundClaim s f
    (scope = none → ∃ t, exec (.telemetry f seq ring n period) s = .next t ∧ (pageAt t f).result = 2 ∧ t.sys.rings = s.sys.rings) ∧
    ∀ r, scope = some r →
      (∃ t, exec (.telemetry f seq ring 0 period) s = .next t ∧ (pageAt t f).result = 0 ∧ tget none t.sys.rings r = none) ∧
      (entriesFit n = true → 1 ≤ period → period ≤ 600 → (placeOf ring).space = 3 → (placeOf ring).sel = 0 → n ≠ 0 →
        ∃ t x, exec (.telemetry f seq ring n period) s = .next t ∧ (pageAt t f).result = 0 ∧ tget none t.sys.rings r = some x ∧
          x.fn = f.val ∧ x.base = (placeOf ring).off ∧ x.entries = n ∧ x.period = period ∧ x.index = 0)) ∧
  ∀ (s : State) (now : Nat), moduleReady s = true → coreStopped s 3 = false →
    ∃ t, exec (.telemetryRefresh now) s = .next t ∧ t.now = now ∧ t.sys.sensors = sensorValues s ∧ t.cores = s.cores ∧
      t.claims = s.claims ∧ ∀ (n : Nat) (r : TeleRing), n < 9 → tget none s.sys.rings n = some r →
        (∀ m < 9, m ≠ n → tget none s.sys.rings m = none) →
        (r.ticks + 1 < r.period → tget none t.sys.rings n = some { r with ticks := r.ticks + 1 } ∧ t.host = s.host) ∧
        (r.period ≤ r.ticks + 1 → hostMapped s r.fn (r.base + 128 * (r.index % r.entries)) 128 = true →
          hostBytes t r.fn (r.base + 128 * (r.index % r.entries)) 128 = bytesOf (teleRecord s now n r) ∧
          (tget none t.sys.rings n).map (fun x => (x.index, x.ticks)) = some (r.index + 1, 0))

/-- R611 to R613, R619, R549, R627: a formation sends the plan over every trained link; each module answers with its rank, version and
whether it fits, and forwards the plan; when every position has answered and fits, the coordinator commits it to all and is a
member, and a module that holds the plan joins on the commit; a member not ready refuses it with result 4, a missing or
unfit one with result 8 naming the lowest. R527, R545, R547 to R549: a member acts on what the host port module forwards;
a claim of the group is created once every member has granted it, and is held once every member says so. The group is left by
dissolving it, without group claims; control passes to the function that takes it. -/
def Obligations.GroupFormation : Prop :=
  (∀ (s : State) (f : FnId) (seq : BitVec 16) (w : W64), (functionAt s f).present = true → isControl s f = true →
    (pageAt s f).busy = false → coreStopped s 0 = false → coreStopped s 2 = false →
    let refused (n : Nat) : Prop := ∃ t, exec (.groupForm f seq w) s = .next t ∧ (pageAt t f).result = n ∧ (pageAt t f).done = true ∧
      t.group = s.group
    (mayJoin s = false → refused 4) ∧ (mayJoin s = true → planFits s w = false → refused 3) ∧
    (mayJoin s = true → planFits s w = true → strapsFit s w = true → ∃ t, exec (.groupForm f seq w) s = .next t ∧
      (pageAt t f).busy = true ∧ t.group.stage = .forming ∧ t.group.forming = true ∧ t.group.planWord = w ∧
      t.group.answered = [s.sys.boot.modId] ∧ t.group.bad = [] ∧ t.group.notReady = false ∧ t.group.formPage = f.val ∧
      t.cores = s.cores ∧ t.claims = s.claims ∧
      ∀ l < 12, linkUp (linkAt s l) = true → (64 + l, GroupMsg.plan w) ∈ t.group.sent)) ∧
  (∀ (s : State) (w : W64) (sender : Rank) (ok : Bool), sender.val ≠ s.sys.boot.modId → s.sys.boot.stage = 6 →
    coreStopped s 2 = false → s.group.plan ≠ some w → s.group.forming = false →
    ∃ t, exec (.groupPlanReceive w sender ok) s = .next t ∧ t = { s with group := t.group } ∧
      (planHost w, GroupMsg.answer { rank := Fin.ofNat 64 s.sys.boot.modId, major := majorOf s, ready := mayJoin s
                                     compatible := ok && strapsFit s w }) ∈ t.group.sent ∧
      (∀ l < 12, linkUp (linkAt s l) = true → (64 + l, GroupMsg.plan w) ∈ t.group.sent) ∧
      (mayJoin s = true → t.group.stage = .forming ∧ t.group.plan = some w)) ∧
  (∀ (s : State) (a : GroupAnswer),
    let g := s.group
    let n := planMembers g.planWord
    let ends (i : Instr) (result : Nat) (named : Option Nat) : Prop := ∃ t, exec i s = .next t ∧ (pageAt t g.formPage).result = result ∧
      (pageAt t g.formPage).done = true ∧ (pageAt t g.formPage).seq = g.formSeq ∧ t.group.stage = .none ∧ t.group.forming = false ∧
      ∀ r, named = some r → tget 0 (pageAt t g.formPage).data 1 = BitVec.ofNat 64 r
    g.forming = true → g.notReady = false → g.bad = [] →
    (a.rank.val < n → a.rank.val ∉ g.answered →
      (g.answered.length + 1 ≠ n → ∃ t, exec (.groupAnswerReceive a) s = .next t ∧ t = { s with group := t.group } ∧
        t.group.answered = g.answered ++ [a.rank.val] ∧ t.group.stage = g.stage) ∧
      (g.answered.length + 1 = n → (∀ r < n, r = a.rank.val ∨ r ∈ g.answered) →
        (a.ready = false → ends (.groupAnswerReceive a) 4 none) ∧
        (a.ready = true → a.compatible = false ∨ a.major ≠ majorOf s → ends (.groupAnswerReceive a) 8 (some a.rank.val)) ∧
        (a.ready = true → a.compatible = true → a.major = majorOf s → ∃ t, exec (.groupAnswerReceive a) s = .next t ∧
          (pageAt t g.formPage).result = 0 ∧ (pageAt t g.formPage).done = true ∧ t.group.stage = .formed ∧ t.group.members = n ∧
          t.group.rank = s.sys.boot.modId ∧ t.group.hostRank = planHost g.planWord ∧ t.group.hostFn = planHostFn g.planWord ∧
          ∀ r < n, r ≠ s.sys.boot.modId → (r, GroupMsg.commit) ∈ t.group.sent))) ∧
    (∀ r < n, r ∉ g.answered → (∀ j < r, j ∈ g.answered) → ends .groupFormationTimeout 8 (some r))) ∧
  (∀ (s : State) (w : W64), s.group.stage = .forming → s.group.forming = false →
    (∃ t, exec .groupFormationTimeout s = .next t ∧ t = { s with group := { s.group with stage := .none, plan := none } }) ∧
    (s.group.plan = some w → ∃ t, exec .groupCommitReceive s = .next t ∧ t.group.stage = .formed ∧ t.group.members = planMembers w ∧
      t.group.rank = s.sys.boot.modId ∧ t.group.hostRank = planHost w ∧ t.group.liveness = planLiveness w ∧ t.cores = s.cores ∧
      t.claims = s.claims)) ∧
  (∀ (s : State) (f : FnId) (seq : BitVec 16) (lower : Bool), (functionAt s f).present = true → (pageAt s f).busy = false →
    coreStopped s 0 = false →
    (isHostPort s f = false → ∃ t, exec (.groupDissolve f seq) s = .next t ∧ (pageAt t f).result = 2 ∧ t.group = s.group) ∧
    (isHostPort s f = true → groupClaims s ≠ [] → ∃ t, exec (.groupDissolve f seq) s = .next t ∧ (pageAt t f).result = 4 ∧
      t.group = s.group) ∧
    (isHostPort s f = true → groupClaims s = [] → ∃ t, exec (.groupDissolve f seq) s = .next t ∧ (pageAt t f).result = 0 ∧
      t.group.stage = .none ∧ t.group.rank = 0x3F ∧ ∀ r ∈ otherMembers s, (r, Forwarded.dissolve) ∈ t.group.forwards) ∧
    (isControl s f = false → boundToGroup s f = false → ∃ t, exec (.groupTakeControl f seq lower) s = .next t ∧
      (pageAt t f).result = 2 ∧ t.group = s.group) ∧
    (isControl s f = true → grouped s = true →
      (∃ t, exec (.groupTakeControl f seq true) s = .next t ∧ (pageAt t f).result = 4 ∧ t.group = s.group) ∧
      ∃ t, exec (.groupTakeControl f seq false) s = .next t ∧ (pageAt t f).result = 0 ∧ t.group.hostRank = s.group.rank ∧
        t.group.hostFn = f.val ∧ t.group.hostLost = false ∧
        (∀ k ∈ groupClaims s, (claimAt t k).fn = f.val ∧ (claimAt t k).unbound = false) ∧
        ∀ r ∈ otherMembers s, (r, Forwarded.control (Fin.ofNat 64 s.group.rank) f) ∈ t.group.forwards)) ∧
  (∀ (s : State) (k : ClaimId) (rank : Rank), grouped s = true → isGroupClaim s k = true →
    let c := claimAt s k
    let on (x : Forwarded) (post : State → Prop) : Prop := ∃ t, exec (.groupForwardReceive x) s = .next t ∧ post t
    on (.hold k) (fun t => (claimAt t k).holdReq = true ∧
      (c.heldHere = false → t = { s with claims := t.claims } ∧ claimAt t k = { c with holdReq := true })) ∧
    on (.claimHeld k rank true) (fun t => rank.val ∈ (claimAt t k).heldBy ∧ (c.holdReq = true → c.heldHere = true →
      (∀ r ∈ otherMembers s, r = rank.val ∨ r ∈ c.heldBy) → (claimAt t k).held = true)) ∧
    on (.claimHeld k rank false) (fun t => rank.val ∉ (claimAt t k).heldBy ∧
      (rank.val ∈ otherMembers s → (claimAt t k).held = false)) ∧
    on (.holdLift k) (fun t => (claimAt t k).holdReq = false) ∧
    (∀ y, c.task = some y → y.fault = none → on (.cancel k) (taskFaulted k .hostCancel 0) ∧
      (y.group = true → on (.abort k rank) (taskFaulted k .peerAbort 0))) ∧
    (windowsBusy (closeWindows k (cancelNow k s)) k = false →
      on (.claimDestroy k) (fun t => (claimAt t k).created = false ∧ (claimAt t k).task = none)) ∧
    on .dissolve (fun t => t.group.stage = .none ∧ t.group.rank = 0x3F) ∧
    (∀ fn : FnId, on (.control rank fn) (fun t => t.group.hostRank = rank.val ∧ t.group.hostFn = fn.val ∧ t.group.hostLost = false)) ∧
    (∀ (f iova : Nat) (data : List Byte), hostFn s k = some f → hostMapped s f iova data.length = true →
      on (.hostWrite k iova data) (fun t => t = { s with host := t.host } ∧ hostBytes t f iova data.length = data) ∧
      on (.hostRead k iova data.length) (fun t => t = { s with answer := .data (hostBytes s f iova data.length) })) ∧
    (∀ (f : Nat) (y : Task) (words : List W64), hostFn s k = some f → s.group.hostLost = false → c.closing = none → c.task = some y →
      on (.record k rank words) (fun t => hostBytes t f (memberPlace s k rank y) (8 * words.length) = bytesOf words ∧
        ∃ z, (claimAt t k).task = some z ∧ rank.val ∉ z.awaiting ∧ z.fault = y.fault)) ∧
    (∀ (i : Fin 16) (w : List W64) (x : Resident), c.task = none → recordBad w = false → fieldOf (wordAt w 0) 63 60 ≠ 0 →
      c.impaired = none → c.quads ≠ 0 → c.image = some x → x.imageId = wordAt w 2 → argBad x.argSize w = false → rangeBad s k w = false →
      on (.task k i w []) (fun t => (claimAt t k).task = some (taskOf i w true true []) ∧ (claimAt t k).fenced = false ∧
        ∀ v j, (coresMap s k)[v]? = some j → (x.cores.getD v (0, false)).2 = true → (coreAt t j).seq.run = .running ∧
          (coreAt t j).seq.pc = (x.cores.getD v (0, false)).1 ∧ regAt t j 2 = BitVec.ofNat 64 (programRank s))) ∧
    ∀ (ctrl quads mem sync power : W64) (bases : List Nat),
      let r : Request := { claim := fieldOf ctrl 63 61, fn := 0, standby := none, group := true, remote := true
                           quads := fieldOf quads 31 0, mem := mem, sync := sync, share := fieldOf power 63 54, bases := bases }
      let sent (t : State) (granted : Bool) : Prop :=
        (s.group.hostRank, Forwarded.claimAnswer (Fin.ofNat 8 r.claim) (Fin.ofNat 64 (programRank s)) granted) ∈ t.group.forwards
      (claimRefusal s r = none → on (.claimCreate ctrl quads mem sync power bases) (fun t =>
        (claimAt t r.claim).created = true ∧ (claimAt t r.claim).group = true ∧
          (claimAt t r.claim).quads = (grantedClaim s r).quads ∧ sent t true)) ∧
      (claimRefusal s r ≠ none → on (.claimCreate ctrl quads mem sync power bases) (fun t => t.claims = s.claims ∧ sent t false))) ∧
  ∀ (s : State) (k : ClaimId) (rank : Rank), grouped s = true → s.claimReq.waiting = 4 → s.claimReq.claim = k.val →
    rank.val ∈ s.claimReq.awaiting →
    (∃ t, exec (.groupForwardReceive (.claimAnswer k rank false)) s = .next t ∧ t.claims = s.claims ∧ t.claimReq.result = 16 ∧
      t.claimReq.busy = false ∧ ∀ r ∈ otherMembers s, (r, Forwarded.claimDestroy k) ∈ t.group.forwards) ∧
    ((∀ r ∈ s.claimReq.awaiting, r = rank.val) → claimRefusal s (requestOf s.claimReq) = none →
      ∃ t, exec (.groupForwardReceive (.claimAnswer k rank true)) s = .next t ∧ (claimAt t k).created = true ∧
        (claimAt t k).group = s.claimReq.group ∧ t.claimReq.result = 1 ∧ t.claimReq.busy = false)

/-- R614: a member probes the members one step away and answers their probes; one it does not hear from is declared failed to every
member. R615, R627: the live member of lowest rank coordinates, the others acknowledge to it, and it commits once every
survivor has. R239, R429, R480, R549, R616: on the commit ranks close up, the generation counts, imports of lost members close, vector 19 is
signalled for every group claim, and a task without a call aborts with RING_MEMBER_LOST; so it does after the loss of a link pair,
with no rank removed; a member that is itself removed leaves the group. R656: nothing of this happens while HC2 is stopped. -/
def Obligations.GroupFailures : Prop :=
  ∀ s : State, grouped s = true → coreStopped s 2 = false →
    let g := s.group
    let reformed (f : List Nat) (t : State) : Prop :=
      t.group.stage = .formed ∧ t.group.rank = newRank f g.rank ∧ t.group.members = (survivorsOf g.members f).length ∧
        t.group.generation = wrapAdd 16 g.generation 1 ∧ t.group.failed = [] ∧
        (∀ r, inSet t.group.lost r = (inSet g.lost r || f.any fun x => (tget {} g.rankMap x).oldRank = r)) ∧
        (g.hostRank < g.members → g.hostRank ∉ f → t.group.hostRank = newRank f g.hostRank) ∧
        (∀ w, (windowAt s w).kind = 2 → fieldOf (windowAt s w).w5 55 50 ∈ f → (windowAt t w).kind = 0) ∧
        ∀ k ∈ groupClaims s, (k, 19) ∈ t.host.msix ∧
          ∀ y, (claimAt s k).task = some y → y.fault = none → callsOfClaim s k = 0 → (∀ j ∈ groupClaims s, callsOfClaim s j = 0) →
            taskFaulted k .ringMemberLost 0 t
    let low (xs : List Nat) (r : Nat) : Prop := r ∈ xs ∧ ∀ x ∈ xs, r ≤ x
    (∃ t, exec .livenessProbeSend s = .next t ∧ t = { s with group := t.group } ∧ t.group.probed = [] ∧
      ∀ r ∈ neighbours s, (r, GroupMsg.probe) ∈ t.group.sent) ∧
    (∀ rank : Rank, rank.val ∈ neighbours s →
      (∃ t, exec (.livenessProbeReceive rank false) s = .next t ∧ t = { s with group := t.group } ∧ rank.val ∈ t.group.probed ∧
        (rank.val, GroupMsg.probeAnswer) ∈ t.group.sent) ∧
      ∃ t, exec (.livenessProbeReceive rank true) s = .next t ∧ t = { s with group := t.group } ∧ rank.val ∈ t.group.probed ∧
        t.group.sent = g.sent) ∧
    (∀ (rank : Rank) (i : Instr), g.failed = [] → g.coordinating = false → g.forming = false → rank.val < g.members → rank.val ≠ g.rank → g.rank < g.members →
      (i = .declarationReceive rank ∨ (i = .memberDeclaredFailed rank ∧ rank.val ∈ neighbours s)) →
      (∃ r ∈ survivorsOf g.members [rank.val], r ≠ g.rank) → ∃ t, exec i s = .next t ∧ t = { s with group := t.group } ∧
        t.group.stage = .reforming ∧ t.group.failed = [rank.val] ∧ low (survivorsOf g.members [rank.val]) t.group.coordinator ∧
        (t.group.coordinating = true ↔ t.group.coordinator = g.rank) ∧
        (t.group.coordinator ≠ g.rank → (t.group.coordinator, GroupMsg.ack) ∈ t.group.sent) ∧
        (t.group.coordinator = g.rank → t.group.acked = [g.rank]) ∧
        (i = .memberDeclaredFailed rank → ∀ r ∈ otherMembers s, (r, GroupMsg.declare rank.val) ∈ t.group.sent)) ∧
    (∀ rank : Rank, g.coordinating = true → rank.val ∈ survivorsOf g.members g.failed → rank.val ∉ g.acked →
      let rest := (survivorsOf g.members g.failed).filter fun r => r ≠ rank.val
      ((∃ r ∈ rest, r ∉ g.acked) → ∃ t, exec (.reformAcknowledge rank) s = .next t ∧
        t = { s with group := { g with acked := g.acked ++ [rank.val] } }) ∧
      ((∀ r ∈ rest, r ∈ g.acked) → ∃ t, exec (.reformAcknowledge rank) s = .next t ∧ reformed g.failed t ∧
        ∀ r ∈ survivorsOf g.members g.failed, r ≠ g.rank → (r, GroupMsg.reform g.failed) ∈ t.group.sent)) ∧
    ∀ failed : List Rank,
      let f := (failed.map fun r => r.val).eraseDups.filter fun r => r < g.members
      (f ≠ [] ∨ failed = []) →
      (g.rank ∉ f → ∃ t, exec (.reformCommit failed) s = .next t ∧ reformed f t) ∧
      (g.rank ∈ f → ∃ t, exec (.reformCommit failed) s = .next t ∧ t.group.stage = .none ∧ t.group.rank = 0x3F ∧
        ∀ k ∈ groupClaims s, ∀ y, (claimAt s k).task = some y → y.fault = none → taskFaulted k .ringMemberLost 0 t)

/-- R516, R605 to R610, R625, R627, R650, R659, R671 to R676, R679: aux good selects and verifies an image, the active one, else the other,
else recovery, and an image on trial that has failed twice is abandoned; the straps are sampled once; main needs aux and its connection; the boot goes through its six steps in turn:
rails at 0.70 V, control cores, zeroed and characterised memories and dies, trained stacks and links, and the links of hosts, when
a trial image is committed. A die whose control core or step failed, or that has tripped, stays off and is failed. R517, R518, R544, R546,
R625, R662, R663: a link down or its port in reset takes its functions away and cancels the tasks of their claims without a
standby, or lets the standby take over. R609: configuration requests are to be retried until the module is ready. R675, R676: main or aux lost
ends every claim. -/
def Obligations.PowerUpAndLinks : Prop :=
  (∀ (s : State) (a b c : Bool) (m : BitVec 6),
    let y := s.sys
    let r := bootRecord y.flash
    let valid (x : Bool) : Bool := imageValid y.ident.secFloor (imageOf y.flash x)
    (y.boot.aux = false → ∃ t, exec .auxGood s = .next t ∧ t.claims = [] ∧ t.cores = [] ∧ t.dies = [] ∧ t.dram.bytes = [] ∧
      t.power.rackCap = y.flash.bootCap ∧ t.power.hostAuth = false ∧ t.power.failsafe = false ∧ t.sys.boot.aux = true ∧
      t.sys.boot.sampled = false ∧ t.sys.boot.main = false ∧
      (r.trial = false →
        (valid r.activeB = true → t.sys.boot.stage = 1 ∧ t.sys.boot.recovery = false ∧ t.sys.firm.fallback = 0 ∧
          t.sys.firm.imageB = r.activeB ∧ t.sys.firm.version = versionOf (imageOf y.flash r.activeB)) ∧
        (valid r.activeB = false → valid (!r.activeB) = true → t.sys.boot.stage = 1 ∧ t.sys.boot.recovery = false ∧
          t.sys.firm.fallback = 1 ∧ t.sys.firm.imageB = !r.activeB) ∧
        (valid r.activeB = false → valid (!r.activeB) = false → t.sys.boot.stage = 0 ∧ t.sys.boot.recovery = true)) ∧
      (r.trial = true → r.trialCount < 2 → valid r.activeB = true → t.sys.firm.imageB = r.activeB ∧ t.sys.firm.trial = true ∧
        bootRecord t.sys.flash = { r with good := true, seq := r.seq + 1, trialCount := r.trialCount + 1 }) ∧
      (r.trial = true → 2 ≤ r.trialCount → (bootRecord t.sys.flash).activeB = (!r.activeB) ∧ (bootRecord t.sys.flash).trial = false ∧
        (valid (!r.activeB) = true → t.sys.firm.fallback = 2 ∧ t.sys.firm.imageB = (!r.activeB)))) ∧
    (y.boot.aux = true → exec .auxGood s = .next s ∧
      (y.boot.sampled = false → ∃ t, exec (.strapSample a b c m) s = .next t ∧ t = { s with sys := { y with
        boot := { y.boot with sampled := true, sbSel := a, h0Bif := b, h1Bif := c, modId := m.toNat } } }) ∧
      (y.boot.sampled = true → exec (.strapSample a b c m) s = .next s) ∧
      (∃ t, exec .inputConnect s = .next t ∧ t = { s with sys := { y with boot := { y.boot with connected := true } } }) ∧
      (y.boot.connected = true → y.boot.main = false → ∃ t, exec .mainGood s = .next t ∧ t.sys.boot.main = true ∧
        (y.boot.stage = 1 → t = { s with sys := { y with boot := { y.boot with main := true } } })) ∧
      (y.boot.connected = true → ∃ t, exec .mainLost s = .next t ∧ t.sys.boot.main = false ∧ t.sys.boot.connected = false ∧
        t.sys.boot.stage = 0 ∧ t.claims = [] ∧ t.dies = [] ∧ t.cores = [] ∧ t.power.rackCap = s.power.rackCap ∧
        t.power.hostAuth = s.power.hostAuth) ∧
      (∃ t, exec .auxLost s = .next t ∧ t.sys.boot = {} ∧ t.claims = [] ∧ t.dies = [] ∧ t.cores = [])) ∧
    (y.boot.aux = false → exec .inputConnect s = .next s ∧ exec .mainGood s = .next s ∧ exec .mainLost s = .next s)) ∧
  (∀ s : State,
    let b := s.sys.boot
    b.aux = true → b.main = true → b.recovery = false → b.standby = false → b.hubOff = false →
    (b.stage = 1 → (∃ t, exec .bootRails s = .next t ∧ t.sys.boot.stage = 2 ∧
        ∀ d < 8, dieAt t d = { dieAt s d with vSet := 1400, vGoal := 1400 }) ∧
      exec (.bootFirmwareLoad 0xFF) s = .next s ∧ exec (.bootTraining 3 0) s = .next s ∧ exec (.bootPcieRelease true true) s = .next s) ∧
    (b.stage = 2 → ∀ ok : BitVec 8, ∃ t, exec (.bootFirmwareLoad ok) s = .next t ∧ t.sys.boot.stage = 3 ∧ t.sys.boot.stopped = 0 ∧
      t.ras.boots = wrapAdd 32 s.ras.boots 1 ∧ ∀ d < 8, (dieAt t d).control = inSet ok.toNat d) ∧
    (b.stage = 3 → ∀ (rates : List (List Nat)) (arrays : List (Fin 512)) (bad : BitVec 8),
      ∃ t, exec (.bootZeroAndCharacterise rates arrays bad) s = .next t ∧ t.sys.boot.stage = 4 ∧ t.gallery.ready = 2 ^ 512 - 1 ∧
        ∀ d < 8, let x := dieAt s d
          if x.control && !x.tripped && decide (x.vSet ≠ 0) && !(inSet bad.toNat d) then
            (dieAt t d).present = true ∧ (dieAt t d).mode = .run ∧ (dieAt t d).rates = rates.getD d [] ∧
              (dieAt t d).floorCode = max 10 (min (topCode s) ((rates.getD d []).getD 0 0)) ∧
              ∀ n : Fin 512, n ∈ arrays → n.val / 64 = d → inSet (coreAt t (n.val / 4)).mat.fenced (n.val % 4) = true
          else (dieAt t d).present = false ∧ (dieAt t d).mode = .off ∧ (dieAt t d).vSet = 0 ∧ inSet t.ras.diesFailed d = true) ∧
    (b.stage = 4 → ∀ (stacked : BitVec 2) (links : BitVec 12), ∃ t, exec (.bootTraining stacked links) s = .next t ∧
      t.sys.boot.stage = 5 ∧ t.dram.ready = (if stacked = 3 then 2 ^ 225 - 1 else 0) ∧
      (∀ n < 2, inSet stacked.toNat n = false → inSet t.ras.stacksFailed n = true) ∧
      ∀ l < 12, (linkAt t l).mode = if inSet links.toNat l then .up8 else (linkAt s l).mode) ∧
    (b.stage = 5 → ∀ (h0 h1 : Bool), ∃ t, exec (.bootPcieRelease h0 h1) s = .next t ∧ t.sys.boot.stage = 6 ∧ moduleReady t = true ∧
      t.sys.boot.faulted = false ∧ (∀ l < 4, (pcieAt t l).up =
        (linkExists s l && !(pcieAt s l).reset && (if l < 2 then h0 else h1))) ∧
      (s.sys.firm.trial = true → (bootRecord t.sys.flash).trial = false ∧
        (bootRecord t.sys.flash).activeB = s.sys.firm.imageB ∧ t.sys.firm.trial = false ∧
        s.sys.ident.secFloor ≤ t.sys.ident.secFloor))) ∧
  ∀ s : State,
    (∀ addr : BitVec 7, ∀ i ∈ [Instr.setdasa addr, .entdaa addr],
      (s.sys.boot.aux = true → s.sys.boot.sampled = true → s.sys.boot.sbSel = false → s.sys.boot.dynamic = none →
        ∃ t, exec i s = .next t ∧ t = { s with sys := { s.sys with boot := { s.sys.boot with dynamic := some addr.toNat } } }) ∧
      (s.sys.boot.sbSel = true → exec i s = .next s)) ∧
    (∀ h1 : Bool, ∃ t, exec (.perstDeassert h1) s = .next t ∧ t = { s with sys := { s.sys with links := t.sys.links } } ∧
      (∀ l ∈ portLinks h1, pcieAt t l = { pcieAt s l with reset := false }) ∧ ∀ l, l ∉ portLinks h1 → pcieAt t l = pcieAt s l) ∧
    (∀ h1 : Bool, ∃ t, exec (.perstAssert h1) s = .next t ∧ (∀ l ∈ portLinks h1, (pcieAt t l).reset = true ∧ (pcieAt t l).up = false) ∧
      ∀ f < 8, (tget {} s.functions f).link ∈ portLinks h1 → (tget {} t.functions f).present = false) ∧
    ∀ l : Fin 4,
      ((pcieAt s l).up = true → ∃ t, exec (.configurationRequest l) s = .next t ∧
        t = { s with answer := if moduleReady s then .number 0 else .waits }) ∧
      ((pcieAt s l).up = false → exec (.configurationRequest l) s = .next s ∧ exec (.pcieLinkDown l) s = .next s) ∧
      ((pcieAt s l).up = true → ∃ t, exec (.pcieLinkDown l) s = .next t ∧ (pcieAt t l).up = false ∧
        (∀ f < 8, (tget {} s.functions f).link = l.val → (tget {} t.functions f).present = false) ∧
        ∀ (k f : Nat) (y : Task), k ∈ claimNos → f < 8 → (tget {} s.functions f).present = true → (tget {} s.functions f).link = l.val →
          actsFor s f k = true → (claimAt s k).task = some y → y.fault = none → (claimAt s k).takenOver = false → s.group.stage = .none →
          ((claimAt s k).standby = none → taskFaulted k .hostCancel 0 t ∧ (claimAt t k).unbound = true) ∧
          (∀ b, (claimAt s k).standby = some b → (tget {} s.functions b).present = true → (tget {} s.functions b).link ≠ l.val →
            (claimAt t k).takenOver = true ∧ (k, 18) ∈ t.host.msix ∧ ∃ z, (claimAt t k).task = some z ∧ z.fault = none ∧ z.overtaken = true)) ∧
      (s.sys.boot.stage = 6 → (pcieAt s l).reset = false → (pcieAt s l).up = false → linkExists s l = true →
        ∃ t, exec (.pcieLinkUp l) s = .next t ∧ (pcieAt t l).up = true ∧
          ∀ f : FnId, (functionAt s f).real = true → (functionAt s f).link = l.val → (functionAt t f).present = true)

/-- The command at the front of the queue runs on the state with the queue's rest; on an empty queue the block idles (the model's
choice, entry 1); and every command answers a next state. -/
def Obligations.StepRunsFrontCommand : Prop :=
  (∀ (i : Instr) (rest : List Instr) (s : State), step { s with pending := i :: rest } = exec i { s with pending := rest }) ∧
  (∀ s : State, s.pending = [] → step s = .next s) ∧
  ∀ (i : Instr) (s : State), ∃ t, exec i s = .next t

/-- The state after reset, before aux is good: no command waits, no claim exists, no function answers, no die is powered, the
module is in no group, and the registers named here hold the reset values of their maps: R110's idle threshold of 16 and ramp 1,
the class order and the ceilings of R565 and R599, the onset of 95 °C of R600, the liveness limit
of 30 µs of R629, the rank 0x3F of R51. Its memories are in canonical form. -/
def Obligations.ResetState : Prop :=
  let s := State.reset
  s.pending = [] ∧ (∀ k, (claimAt s k).created = false) ∧ (∀ f : FnId, (functionAt s f).present = false) ∧
    (∀ d, (dieAt s d).present = false) ∧ s.group.stage = .none ∧ s.group.rank = 0x3F ∧ s.group.liveness = 30 ∧
    (∀ c, (coreAt s c).mat.idleAfter = 16 ∧ (coreAt s c).mat.ramp = 1 ∧ (coreAt s c).mat.queue = [] ∧
      (coreAt s c).seq.retired = 0 ∧ (coreAt s c).mat.arith = {} ∧ (coreAt s c).pwr.state = 0) ∧
    s.power.first = 0 ∧ s.power.second = 1 ∧ s.power.third = 2 ∧ s.power.dramM = 64 ∧ s.power.haulGbs = 100 ∧
    s.therm.onset = 760 ∧ s.sys.boot.stage = 0 ∧ (∀ n, tallyAt s n = 0) ∧ (∀ n, tget {} s.conveyors n = {}) ∧
    s.ras.log = [] ∧ (∀ l, (pcieAt s l).up = false) ∧ stateWf s = true

/-- R112, R113, R244, R249: every command keeps the canonical form of every memory (keys rising, no listed byte 0) and the rows of
every core inside its accumulator of 256 rows and 64 columns. -/
def Obligations.StateWfKept : Prop :=
  ∀ s t : State, stateWf s = true → step s = .next t → stateWf t = true

end
end

