-- ==== Sys2Proof/Laws/Store.lean ====
section
/-! SUPPORT. Laws of the sparse tables: what a read gives after a write, and that every operation keeps the canonical
form. The read laws need no canonical form. -/

namespace Sys2Proof.Machine

variable {α : Type}

@[simp] theorem tget_nil (d : α) (k : Nat) : tget d [] k = d := rfl

theorem tget_tdrop (d : α) (m : Table α) (k j : Nat) :
    tget d (tdrop m k) j = if j = k then d else tget d m j := by
  induction m with
  | nil => simp [tdrop]
  | cons e m ih =>
    obtain ⟨a, x⟩ := e
    by_cases h : a = k
    · simp only [tdrop, h, if_true, ih, tget]
      by_cases hj : j = k
      · simp [hj]
      · simp [hj, Ne.symm hj]
    · simp only [tdrop, h, if_false, tget, ih]
      by_cases ha : a = j
      · subst ha; simp [h]
      · simp [ha]

theorem tdrop_tdrop (m : Table α) (k : Nat) : tdrop (tdrop m k) k = tdrop m k := by
  induction m with
  | nil => rfl
  | cons e m ih =>
    obtain ⟨a, x⟩ := e
    by_cases h : a = k <;> simp [tdrop, h, ih]

theorem tdrop_tinsert (m : Table α) (k : Nat) (y : α) : tdrop (tinsert k y m) k = tdrop m k := by
  induction m with
  | nil => simp [tinsert, tdrop]
  | cons e m ih =>
    obtain ⟨a, x⟩ := e
    by_cases h : k < a
    · simp [tinsert, h, tdrop]
    · by_cases ha : a = k <;> simp [tinsert, h, tdrop, ha, ih]

theorem tget_tinsert_same (d : α) (m : Table α) (k : Nat) (y : α) :
    tget d (tinsert k y (tdrop m k)) k = y := by
  induction m with
  | nil => simp [tdrop, tinsert, tget]
  | cons e m ih =>
    obtain ⟨a, x⟩ := e
    by_cases h : a = k
    · simpa [tdrop, h] using ih
    · by_cases hk : k < a
      · simp [tdrop, h, tinsert, hk, tget]
      · simpa [tdrop, h, tinsert, hk, tget] using ih

theorem tget_tinsert_ne (d : α) (m : Table α) (k j : Nat) (y : α) (h : j ≠ k) :
    tget d (tinsert k y m) j = tget d m j := by
  induction m with
  | nil => simp [tinsert, tget, Ne.symm h]
  | cons e m ih =>
    obtain ⟨a, x⟩ := e
    by_cases hk : k < a
    · simp [tinsert, hk, tget, Ne.symm h]
    · simp only [tinsert, hk, if_false, tget, ih]

theorem tdrop_absent (m : Table α) (k : Nat) : ∀ e ∈ tdrop m k, e.1 ≠ k := by
  induction m with
  | nil => simp [tdrop]
  | cons e m ih =>
    obtain ⟨a, x⟩ := e
    by_cases h : a = k
    · simpa [tdrop, h] using ih
    · intro e he
      simp only [tdrop, h, if_false, List.mem_cons] at he
      rcases he with rfl | he
      · exact h
      · exact ih e he

theorem filled_below (y : α) (n a : Nat) : ∀ e ∈ (upFrom a n).map (fun k => (k, y)), e.1 < a + n := by
  induction n generalizing a with
  | zero => simp [upFrom]
  | succ n ih =>
    intro e he
    simp only [upFrom, List.map_cons, List.mem_cons] at he
    rcases he with rfl | he
    · simp
    · have := ih (a + 1) e he; omega

variable [DecidableEq α]

/-- A read after a write of the same key gives the value written. -/
@[simp] theorem tget_tput_same (d : α) (m : Table α) (k : Nat) (y : α) : tget d (tput d m k y) k = y := by
  unfold tput
  by_cases h : y = d
  · simp [h, tget_tdrop]
  · simp [h, tget_tinsert_same]

/-- A write leaves every other key alone. -/
theorem tget_tput_ne (d : α) (m : Table α) (k j : Nat) (y : α) (h : j ≠ k) :
    tget d (tput d m k y) j = tget d m j := by
  unfold tput
  by_cases hy : y = d
  · simp [hy, tget_tdrop, h]
  · simp [hy, tget_tinsert_ne d _ k j y h, tget_tdrop, h]

theorem tget_tput (d : α) (m : Table α) (k j : Nat) (y : α) :
    tget d (tput d m k y) j = if j = k then y else tget d m j := by
  by_cases h : j = k
  · subst h; simp
  · simp [h, tget_tput_ne d m k j y h]

/-- The later of two writes of one key stands. -/
@[simp] theorem tput_tput (d : α) (m : Table α) (k : Nat) (x y : α) : tput d (tput d m k x) k y = tput d m k y := by
  have h : tdrop (tput d m k x) k = tdrop m k := by
    unfold tput
    by_cases hx : x = d
    · simp [hx, tdrop_tdrop]
    · simp [hx, tdrop_tinsert, tdrop_tdrop]
  show (if y = d then tdrop (tput d m k x) k else tinsert k y (tdrop (tput d m k x) k)) = _
  rw [h]
  rfl

/-- A read after a write of consecutive values. -/
theorem tget_tputN (d : α) (ys : List α) (m : Table α) (a j : Nat) :
    tget d (tputN d m a ys) j = if a ≤ j ∧ j < a + ys.length then ys.getD (j - a) d else tget d m j := by
  induction ys generalizing m a with
  | nil =>
    have : ¬ (a ≤ j ∧ j < a + ([] : List α).length) := by simp only [List.length_nil]; omega
    simp only [tputN, this, if_false]
  | cons y ys ih =>
    simp only [tputN, ih, tget_tput, List.length_cons]
    by_cases h1 : j = a
    · subst h1
      rw [if_neg (by omega), if_pos rfl, if_pos (by omega), Nat.sub_self]
      rfl
    · rw [if_neg h1]
      by_cases h2 : a + 1 ≤ j ∧ j < a + 1 + ys.length
      · have h4 : j - a = (j - (a + 1)) + 1 := by omega
        rw [if_pos h2, if_pos (by omega), h4]
        rfl
      · rw [if_neg h2, if_neg (by omega)]

/-! ### The canonical form -/

theorem twfFrom_weaken (d : α) {lo lo' : Nat} (h : lo' ≤ lo) {m : Table α} (w : twfFrom d lo m = true) :
    twfFrom d lo' m = true := by
  cases m with
  | nil => rfl
  | cons e m =>
    obtain ⟨a, x⟩ := e
    simp only [twfFrom, Bool.and_eq_true, decide_eq_true_eq] at w ⊢
    exact ⟨⟨by omega, w.1.2⟩, w.2⟩

theorem twfFrom_tdrop (d : α) (k : Nat) {m : Table α} {lo : Nat} (w : twfFrom d lo m = true) :
    twfFrom d lo (tdrop m k) = true := by
  induction m generalizing lo with
  | nil => rfl
  | cons e m ih =>
    obtain ⟨a, x⟩ := e
    simp only [twfFrom, Bool.and_eq_true, decide_eq_true_eq] at w
    by_cases h : a = k
    · simp only [tdrop, h, if_true]
      exact ih (twfFrom_weaken d (by omega) w.2)
    · simp only [tdrop, h, if_false, twfFrom, Bool.and_eq_true, decide_eq_true_eq]
      exact ⟨w.1, ih w.2⟩

/-- Key `k` is not listed. -/
theorem tinsert_wf (d : α) (k : Nat) (y : α) (hy : y ≠ d) {m : Table α} {lo : Nat} (hlo : lo ≤ k)
    (w : twfFrom d lo m = true) (hk : ∀ e ∈ m, e.1 ≠ k) : twfFrom d lo (tinsert k y m) = true := by
  induction m generalizing lo with
  | nil => simp [tinsert, twfFrom, hlo, hy]
  | cons e m ih =>
    obtain ⟨a, x⟩ := e
    have ha : a ≠ k := hk (a, x) (by simp)
    simp only [twfFrom, Bool.and_eq_true, decide_eq_true_eq] at w
    by_cases h : k < a
    · simp only [tinsert, h, if_true, twfFrom, Bool.and_eq_true, decide_eq_true_eq]
      exact ⟨⟨hlo, hy⟩, ⟨by omega, w.1.2⟩, w.2⟩
    · simp only [tinsert, h, if_false, twfFrom, Bool.and_eq_true, decide_eq_true_eq]
      exact ⟨w.1, ih (by omega) w.2 (fun e he => hk e (by simp [he]))⟩

/-- A write keeps the canonical form. -/
theorem tput_wf (d : α) (m : Table α) (k : Nat) (y : α) (w : twf d m = true) : twf d (tput d m k y) = true := by
  unfold twf tput at *
  by_cases h : y = d
  · simpa [h] using twfFrom_tdrop d k w
  · simpa [h] using tinsert_wf d k y h (Nat.zero_le k) (twfFrom_tdrop d k w) (tdrop_absent m k)

theorem tmod_wf (d : α) (m : Table α) (k : Nat) (f : α → α) (w : twf d m = true) : twf d (tmod d m k f) = true :=
  tput_wf d m k _ w

/-- Writes of consecutive values keep the canonical form. -/
theorem tputN_wf (d : α) (ys : List α) (m : Table α) (a : Nat) (w : twf d m = true) :
    twf d (tputN d m a ys) = true := by
  induction ys generalizing m a with
  | nil => exact w
  | cons y ys ih => exact ih _ _ (tput_wf d m a y w)

theorem twfFrom_filter (d : α) (p : Nat × α → Bool) {m : Table α} {lo : Nat} (w : twfFrom d lo m = true) :
    twfFrom d lo (m.filter p) = true := by
  induction m generalizing lo with
  | nil => rfl
  | cons e m ih =>
    obtain ⟨a, x⟩ := e
    simp only [twfFrom, Bool.and_eq_true, decide_eq_true_eq] at w
    by_cases h : p (a, x) = true
    · simp only [List.filter_cons, h, if_true, twfFrom, Bool.and_eq_true, decide_eq_true_eq]
      exact ⟨w.1, ih w.2⟩
    · simp only [List.filter_cons, h]
      exact twfFrom_weaken d (by omega) (ih w.2)

/-- Dropping entries keeps the canonical form. -/
theorem filter_wf (d : α) (p : Nat × α → Bool) (m : Table α) (w : twf d m = true) : twf d (m.filter p) = true :=
  twfFrom_filter d p w

theorem twfFrom_append (d : α) {m n : Table α} {lo mid : Nat} (hm : twfFrom d lo m = true)
    (hlt : ∀ e ∈ m, e.1 < mid) (hlo : lo ≤ mid) (hn : twfFrom d mid n = true) : twfFrom d lo (m ++ n) = true := by
  induction m generalizing lo with
  | nil => exact twfFrom_weaken d hlo hn
  | cons e m ih =>
    obtain ⟨a, x⟩ := e
    simp only [twfFrom, Bool.and_eq_true, decide_eq_true_eq] at hm
    have ha : a < mid := hlt (a, x) (by simp)
    simp only [List.cons_append, twfFrom, Bool.and_eq_true, decide_eq_true_eq]
    exact ⟨hm.1, ih hm.2 (fun e he => hlt e (by simp [he])) (by omega)⟩

theorem twfFrom_filled (d y : α) (hy : y ≠ d) (n a : Nat) :
    twfFrom d a ((upFrom a n).map fun k => (k, y)) = true := by
  induction n generalizing a with
  | zero => rfl
  | succ n ih => simp [upFrom, twfFrom, hy, ih]

theorem twfFrom_above (d : α) (p : Nat) {m : Table α} {lo : Nat} (w : twfFrom d lo m = true) :
    twfFrom d p (m.filter fun e => p ≤ e.1) = true := by
  induction m generalizing lo with
  | nil => rfl
  | cons e m ih =>
    obtain ⟨a, x⟩ := e
    simp only [twfFrom, Bool.and_eq_true, decide_eq_true_eq] at w
    by_cases h : p ≤ a
    · simp only [List.filter_cons, h, decide_true, if_true, twfFrom, Bool.and_eq_true, decide_eq_true_eq]
      exact ⟨⟨trivial, w.1.2⟩, twfFrom_filter d _ w.2⟩
    · simp only [List.filter_cons, h, decide_false]
      exact ih w.2

/-- A fill keeps the canonical form. -/
theorem tfill_wf (d : α) (m : Table α) (a n : Nat) (y : α) (w : twf d m = true) : twf d (tfill d m a n y) = true := by
  have wk : twf d (m.filter fun e => e.1 < a || a + n ≤ e.1) = true := filter_wf d _ m w
  unfold tfill
  by_cases h : y = d
  · simpa [h] using wk
  · simp only [h, if_false, List.append_assoc]
    refine twfFrom_append d (mid := a) (twfFrom_filter d _ wk) ?_ (Nat.zero_le a) ?_
    · intro e he; simpa using (List.mem_filter.mp he).2
    · refine twfFrom_append d (mid := a + n) (twfFrom_filled d y h n a) (filled_below y n a) (by omega) ?_
      exact twfFrom_above d (a + n) wk

end Sys2Proof.Machine
end

