-- ==== Sys2Proof/Laws/State.lean ====
section
/-! SUPPORT. Laws of the state: one lemma per field per update, and the reads of a core, a claim and a register after an
update, so that no later proof unfolds a record update. -/

namespace Sys2Proof.Machine

variable (s : State)

/-! ### Fields that an update leaves alone -/

@[simp] theorem setCore_pending (c : Nat) (k : CoreState) : (setCore s c k).pending = s.pending := rfl
@[simp] theorem setCore_draws (c : Nat) (k : CoreState) : (setCore s c k).draws = s.draws := rfl
@[simp] theorem setCore_gallery (c : Nat) (k : CoreState) : (setCore s c k).gallery = s.gallery := rfl
@[simp] theorem setCore_dram (c : Nat) (k : CoreState) : (setCore s c k).dram = s.dram := rfl
@[simp] theorem setCore_tallies (c : Nat) (k : CoreState) : (setCore s c k).tallies = s.tallies := rfl
@[simp] theorem setCore_waits (c : Nat) (k : CoreState) : (setCore s c k).waits = s.waits := rfl
@[simp] theorem setCore_conveyors (c : Nat) (k : CoreState) : (setCore s c k).conveyors = s.conveyors := rfl
@[simp] theorem setCore_backoffs (c : Nat) (k : CoreState) : (setCore s c k).backoffs = s.backoffs := rfl
@[simp] theorem setCore_claims (c : Nat) (k : CoreState) : (setCore s c k).claims = s.claims := rfl
@[simp] theorem setCore_claimReq (c : Nat) (k : CoreState) : (setCore s c k).claimReq = s.claimReq := rfl
@[simp] theorem setCore_functions (c : Nat) (k : CoreState) : (setCore s c k).functions = s.functions := rfl
@[simp] theorem setCore_host (c : Nat) (k : CoreState) : (setCore s c k).host = s.host := rfl
@[simp] theorem setCore_hubMovers (c : Nat) (k : CoreState) : (setCore s c k).hubMovers = s.hubMovers := rfl
@[simp] theorem setCore_group (c : Nat) (k : CoreState) : (setCore s c k).group = s.group := rfl
@[simp] theorem setCore_dies (c : Nat) (k : CoreState) : (setCore s c k).dies = s.dies := rfl
@[simp] theorem setCore_power (c : Nat) (k : CoreState) : (setCore s c k).power = s.power := rfl
@[simp] theorem setCore_therm (c : Nat) (k : CoreState) : (setCore s c k).therm = s.therm := rfl
@[simp] theorem setCore_ras (c : Nat) (k : CoreState) : (setCore s c k).ras = s.ras := rfl
@[simp] theorem setCore_now (c : Nat) (k : CoreState) : (setCore s c k).now = s.now := rfl
@[simp] theorem setCore_fabric (c : Nat) (k : CoreState) : (setCore s c k).fabric = s.fabric := rfl
@[simp] theorem setCore_haul (c : Nat) (k : CoreState) : (setCore s c k).haul = s.haul := rfl
@[simp] theorem setCore_coll (c : Nat) (k : CoreState) : (setCore s c k).coll = s.coll := rfl
@[simp] theorem setCore_sys (c : Nat) (k : CoreState) : (setCore s c k).sys = s.sys := rfl
@[simp] theorem setCore_answer (c : Nat) (k : CoreState) : (setCore s c k).answer = s.answer := rfl

@[simp] theorem modCore_pending (c : Nat) (f : CoreState → CoreState) : (modCore s c f).pending = s.pending := rfl
@[simp] theorem modCore_draws (c : Nat) (f : CoreState → CoreState) : (modCore s c f).draws = s.draws := rfl
@[simp] theorem modCore_gallery (c : Nat) (f : CoreState → CoreState) : (modCore s c f).gallery = s.gallery := rfl
@[simp] theorem modCore_dram (c : Nat) (f : CoreState → CoreState) : (modCore s c f).dram = s.dram := rfl
@[simp] theorem modCore_tallies (c : Nat) (f : CoreState → CoreState) : (modCore s c f).tallies = s.tallies := rfl
@[simp] theorem modCore_waits (c : Nat) (f : CoreState → CoreState) : (modCore s c f).waits = s.waits := rfl
@[simp] theorem modCore_conveyors (c : Nat) (f : CoreState → CoreState) : (modCore s c f).conveyors = s.conveyors := rfl
@[simp] theorem modCore_backoffs (c : Nat) (f : CoreState → CoreState) : (modCore s c f).backoffs = s.backoffs := rfl
@[simp] theorem modCore_claims (c : Nat) (f : CoreState → CoreState) : (modCore s c f).claims = s.claims := rfl
@[simp] theorem modCore_claimReq (c : Nat) (f : CoreState → CoreState) : (modCore s c f).claimReq = s.claimReq := rfl
@[simp] theorem modCore_functions (c : Nat) (f : CoreState → CoreState) : (modCore s c f).functions = s.functions := rfl
@[simp] theorem modCore_host (c : Nat) (f : CoreState → CoreState) : (modCore s c f).host = s.host := rfl
@[simp] theorem modCore_hubMovers (c : Nat) (f : CoreState → CoreState) : (modCore s c f).hubMovers = s.hubMovers := rfl
@[simp] theorem modCore_group (c : Nat) (f : CoreState → CoreState) : (modCore s c f).group = s.group := rfl
@[simp] theorem modCore_dies (c : Nat) (f : CoreState → CoreState) : (modCore s c f).dies = s.dies := rfl
@[simp] theorem modCore_power (c : Nat) (f : CoreState → CoreState) : (modCore s c f).power = s.power := rfl
@[simp] theorem modCore_therm (c : Nat) (f : CoreState → CoreState) : (modCore s c f).therm = s.therm := rfl
@[simp] theorem modCore_ras (c : Nat) (f : CoreState → CoreState) : (modCore s c f).ras = s.ras := rfl
@[simp] theorem modCore_now (c : Nat) (f : CoreState → CoreState) : (modCore s c f).now = s.now := rfl
@[simp] theorem modCore_fabric (c : Nat) (f : CoreState → CoreState) : (modCore s c f).fabric = s.fabric := rfl
@[simp] theorem modCore_haul (c : Nat) (f : CoreState → CoreState) : (modCore s c f).haul = s.haul := rfl
@[simp] theorem modCore_coll (c : Nat) (f : CoreState → CoreState) : (modCore s c f).coll = s.coll := rfl
@[simp] theorem modCore_sys (c : Nat) (f : CoreState → CoreState) : (modCore s c f).sys = s.sys := rfl
@[simp] theorem modCore_answer (c : Nat) (f : CoreState → CoreState) : (modCore s c f).answer = s.answer := rfl

@[simp] theorem modSeq_pending (c : Nat) (f : SeqState → SeqState) : (modSeq s c f).pending = s.pending := rfl
@[simp] theorem modSeq_draws (c : Nat) (f : SeqState → SeqState) : (modSeq s c f).draws = s.draws := rfl
@[simp] theorem modSeq_gallery (c : Nat) (f : SeqState → SeqState) : (modSeq s c f).gallery = s.gallery := rfl
@[simp] theorem modSeq_dram (c : Nat) (f : SeqState → SeqState) : (modSeq s c f).dram = s.dram := rfl
@[simp] theorem modSeq_tallies (c : Nat) (f : SeqState → SeqState) : (modSeq s c f).tallies = s.tallies := rfl
@[simp] theorem modSeq_waits (c : Nat) (f : SeqState → SeqState) : (modSeq s c f).waits = s.waits := rfl
@[simp] theorem modSeq_conveyors (c : Nat) (f : SeqState → SeqState) : (modSeq s c f).conveyors = s.conveyors := rfl
@[simp] theorem modSeq_backoffs (c : Nat) (f : SeqState → SeqState) : (modSeq s c f).backoffs = s.backoffs := rfl
@[simp] theorem modSeq_claims (c : Nat) (f : SeqState → SeqState) : (modSeq s c f).claims = s.claims := rfl
@[simp] theorem modSeq_claimReq (c : Nat) (f : SeqState → SeqState) : (modSeq s c f).claimReq = s.claimReq := rfl
@[simp] theorem modSeq_functions (c : Nat) (f : SeqState → SeqState) : (modSeq s c f).functions = s.functions := rfl
@[simp] theorem modSeq_host (c : Nat) (f : SeqState → SeqState) : (modSeq s c f).host = s.host := rfl
@[simp] theorem modSeq_hubMovers (c : Nat) (f : SeqState → SeqState) : (modSeq s c f).hubMovers = s.hubMovers := rfl
@[simp] theorem modSeq_group (c : Nat) (f : SeqState → SeqState) : (modSeq s c f).group = s.group := rfl
@[simp] theorem modSeq_dies (c : Nat) (f : SeqState → SeqState) : (modSeq s c f).dies = s.dies := rfl
@[simp] theorem modSeq_power (c : Nat) (f : SeqState → SeqState) : (modSeq s c f).power = s.power := rfl
@[simp] theorem modSeq_therm (c : Nat) (f : SeqState → SeqState) : (modSeq s c f).therm = s.therm := rfl
@[simp] theorem modSeq_ras (c : Nat) (f : SeqState → SeqState) : (modSeq s c f).ras = s.ras := rfl
@[simp] theorem modSeq_now (c : Nat) (f : SeqState → SeqState) : (modSeq s c f).now = s.now := rfl
@[simp] theorem modSeq_fabric (c : Nat) (f : SeqState → SeqState) : (modSeq s c f).fabric = s.fabric := rfl
@[simp] theorem modSeq_haul (c : Nat) (f : SeqState → SeqState) : (modSeq s c f).haul = s.haul := rfl
@[simp] theorem modSeq_coll (c : Nat) (f : SeqState → SeqState) : (modSeq s c f).coll = s.coll := rfl
@[simp] theorem modSeq_sys (c : Nat) (f : SeqState → SeqState) : (modSeq s c f).sys = s.sys := rfl
@[simp] theorem modSeq_answer (c : Nat) (f : SeqState → SeqState) : (modSeq s c f).answer = s.answer := rfl

@[simp] theorem modBench_pending (c : Nat) (f : BenchState → BenchState) : (modBench s c f).pending = s.pending := rfl
@[simp] theorem modBench_draws (c : Nat) (f : BenchState → BenchState) : (modBench s c f).draws = s.draws := rfl
@[simp] theorem modBench_gallery (c : Nat) (f : BenchState → BenchState) : (modBench s c f).gallery = s.gallery := rfl
@[simp] theorem modBench_dram (c : Nat) (f : BenchState → BenchState) : (modBench s c f).dram = s.dram := rfl
@[simp] theorem modBench_tallies (c : Nat) (f : BenchState → BenchState) : (modBench s c f).tallies = s.tallies := rfl
@[simp] theorem modBench_waits (c : Nat) (f : BenchState → BenchState) : (modBench s c f).waits = s.waits := rfl
@[simp] theorem modBench_conveyors (c : Nat) (f : BenchState → BenchState) : (modBench s c f).conveyors = s.conveyors := rfl
@[simp] theorem modBench_backoffs (c : Nat) (f : BenchState → BenchState) : (modBench s c f).backoffs = s.backoffs := rfl
@[simp] theorem modBench_claims (c : Nat) (f : BenchState → BenchState) : (modBench s c f).claims = s.claims := rfl
@[simp] theorem modBench_claimReq (c : Nat) (f : BenchState → BenchState) : (modBench s c f).claimReq = s.claimReq := rfl
@[simp] theorem modBench_functions (c : Nat) (f : BenchState → BenchState) : (modBench s c f).functions = s.functions := rfl
@[simp] theorem modBench_host (c : Nat) (f : BenchState → BenchState) : (modBench s c f).host = s.host := rfl
@[simp] theorem modBench_hubMovers (c : Nat) (f : BenchState → BenchState) : (modBench s c f).hubMovers = s.hubMovers := rfl
@[simp] theorem modBench_group (c : Nat) (f : BenchState → BenchState) : (modBench s c f).group = s.group := rfl
@[simp] theorem modBench_dies (c : Nat) (f : BenchState → BenchState) : (modBench s c f).dies = s.dies := rfl
@[simp] theorem modBench_power (c : Nat) (f : BenchState → BenchState) : (modBench s c f).power = s.power := rfl
@[simp] theorem modBench_therm (c : Nat) (f : BenchState → BenchState) : (modBench s c f).therm = s.therm := rfl
@[simp] theorem modBench_ras (c : Nat) (f : BenchState → BenchState) : (modBench s c f).ras = s.ras := rfl
@[simp] theorem modBench_now (c : Nat) (f : BenchState → BenchState) : (modBench s c f).now = s.now := rfl
@[simp] theorem modBench_fabric (c : Nat) (f : BenchState → BenchState) : (modBench s c f).fabric = s.fabric := rfl
@[simp] theorem modBench_haul (c : Nat) (f : BenchState → BenchState) : (modBench s c f).haul = s.haul := rfl
@[simp] theorem modBench_coll (c : Nat) (f : BenchState → BenchState) : (modBench s c f).coll = s.coll := rfl
@[simp] theorem modBench_sys (c : Nat) (f : BenchState → BenchState) : (modBench s c f).sys = s.sys := rfl
@[simp] theorem modBench_answer (c : Nat) (f : BenchState → BenchState) : (modBench s c f).answer = s.answer := rfl

@[simp] theorem modSync_pending (c : Nat) (f : SyncState → SyncState) : (modSync s c f).pending = s.pending := rfl
@[simp] theorem modSync_draws (c : Nat) (f : SyncState → SyncState) : (modSync s c f).draws = s.draws := rfl
@[simp] theorem modSync_gallery (c : Nat) (f : SyncState → SyncState) : (modSync s c f).gallery = s.gallery := rfl
@[simp] theorem modSync_dram (c : Nat) (f : SyncState → SyncState) : (modSync s c f).dram = s.dram := rfl
@[simp] theorem modSync_tallies (c : Nat) (f : SyncState → SyncState) : (modSync s c f).tallies = s.tallies := rfl
@[simp] theorem modSync_waits (c : Nat) (f : SyncState → SyncState) : (modSync s c f).waits = s.waits := rfl
@[simp] theorem modSync_conveyors (c : Nat) (f : SyncState → SyncState) : (modSync s c f).conveyors = s.conveyors := rfl
@[simp] theorem modSync_backoffs (c : Nat) (f : SyncState → SyncState) : (modSync s c f).backoffs = s.backoffs := rfl
@[simp] theorem modSync_claims (c : Nat) (f : SyncState → SyncState) : (modSync s c f).claims = s.claims := rfl
@[simp] theorem modSync_claimReq (c : Nat) (f : SyncState → SyncState) : (modSync s c f).claimReq = s.claimReq := rfl
@[simp] theorem modSync_functions (c : Nat) (f : SyncState → SyncState) : (modSync s c f).functions = s.functions := rfl
@[simp] theorem modSync_host (c : Nat) (f : SyncState → SyncState) : (modSync s c f).host = s.host := rfl
@[simp] theorem modSync_hubMovers (c : Nat) (f : SyncState → SyncState) : (modSync s c f).hubMovers = s.hubMovers := rfl
@[simp] theorem modSync_group (c : Nat) (f : SyncState → SyncState) : (modSync s c f).group = s.group := rfl
@[simp] theorem modSync_dies (c : Nat) (f : SyncState → SyncState) : (modSync s c f).dies = s.dies := rfl
@[simp] theorem modSync_power (c : Nat) (f : SyncState → SyncState) : (modSync s c f).power = s.power := rfl
@[simp] theorem modSync_therm (c : Nat) (f : SyncState → SyncState) : (modSync s c f).therm = s.therm := rfl
@[simp] theorem modSync_ras (c : Nat) (f : SyncState → SyncState) : (modSync s c f).ras = s.ras := rfl
@[simp] theorem modSync_now (c : Nat) (f : SyncState → SyncState) : (modSync s c f).now = s.now := rfl
@[simp] theorem modSync_fabric (c : Nat) (f : SyncState → SyncState) : (modSync s c f).fabric = s.fabric := rfl
@[simp] theorem modSync_haul (c : Nat) (f : SyncState → SyncState) : (modSync s c f).haul = s.haul := rfl
@[simp] theorem modSync_coll (c : Nat) (f : SyncState → SyncState) : (modSync s c f).coll = s.coll := rfl
@[simp] theorem modSync_sys (c : Nat) (f : SyncState → SyncState) : (modSync s c f).sys = s.sys := rfl
@[simp] theorem modSync_answer (c : Nat) (f : SyncState → SyncState) : (modSync s c f).answer = s.answer := rfl

@[simp] theorem modMat_pending (c : Nat) (f : MatState → MatState) : (modMat s c f).pending = s.pending := rfl
@[simp] theorem modMat_draws (c : Nat) (f : MatState → MatState) : (modMat s c f).draws = s.draws := rfl
@[simp] theorem modMat_gallery (c : Nat) (f : MatState → MatState) : (modMat s c f).gallery = s.gallery := rfl
@[simp] theorem modMat_dram (c : Nat) (f : MatState → MatState) : (modMat s c f).dram = s.dram := rfl
@[simp] theorem modMat_tallies (c : Nat) (f : MatState → MatState) : (modMat s c f).tallies = s.tallies := rfl
@[simp] theorem modMat_waits (c : Nat) (f : MatState → MatState) : (modMat s c f).waits = s.waits := rfl
@[simp] theorem modMat_conveyors (c : Nat) (f : MatState → MatState) : (modMat s c f).conveyors = s.conveyors := rfl
@[simp] theorem modMat_backoffs (c : Nat) (f : MatState → MatState) : (modMat s c f).backoffs = s.backoffs := rfl
@[simp] theorem modMat_claims (c : Nat) (f : MatState → MatState) : (modMat s c f).claims = s.claims := rfl
@[simp] theorem modMat_claimReq (c : Nat) (f : MatState → MatState) : (modMat s c f).claimReq = s.claimReq := rfl
@[simp] theorem modMat_functions (c : Nat) (f : MatState → MatState) : (modMat s c f).functions = s.functions := rfl
@[simp] theorem modMat_host (c : Nat) (f : MatState → MatState) : (modMat s c f).host = s.host := rfl
@[simp] theorem modMat_hubMovers (c : Nat) (f : MatState → MatState) : (modMat s c f).hubMovers = s.hubMovers := rfl
@[simp] theorem modMat_group (c : Nat) (f : MatState → MatState) : (modMat s c f).group = s.group := rfl
@[simp] theorem modMat_dies (c : Nat) (f : MatState → MatState) : (modMat s c f).dies = s.dies := rfl
@[simp] theorem modMat_power (c : Nat) (f : MatState → MatState) : (modMat s c f).power = s.power := rfl
@[simp] theorem modMat_therm (c : Nat) (f : MatState → MatState) : (modMat s c f).therm = s.therm := rfl
@[simp] theorem modMat_ras (c : Nat) (f : MatState → MatState) : (modMat s c f).ras = s.ras := rfl
@[simp] theorem modMat_now (c : Nat) (f : MatState → MatState) : (modMat s c f).now = s.now := rfl
@[simp] theorem modMat_fabric (c : Nat) (f : MatState → MatState) : (modMat s c f).fabric = s.fabric := rfl
@[simp] theorem modMat_haul (c : Nat) (f : MatState → MatState) : (modMat s c f).haul = s.haul := rfl
@[simp] theorem modMat_coll (c : Nat) (f : MatState → MatState) : (modMat s c f).coll = s.coll := rfl
@[simp] theorem modMat_sys (c : Nat) (f : MatState → MatState) : (modMat s c f).sys = s.sys := rfl
@[simp] theorem modMat_answer (c : Nat) (f : MatState → MatState) : (modMat s c f).answer = s.answer := rfl

@[simp] theorem modDrs_pending (c : Nat) (f : DrsState → DrsState) : (modDrs s c f).pending = s.pending := rfl
@[simp] theorem modDrs_draws (c : Nat) (f : DrsState → DrsState) : (modDrs s c f).draws = s.draws := rfl
@[simp] theorem modDrs_gallery (c : Nat) (f : DrsState → DrsState) : (modDrs s c f).gallery = s.gallery := rfl
@[simp] theorem modDrs_dram (c : Nat) (f : DrsState → DrsState) : (modDrs s c f).dram = s.dram := rfl
@[simp] theorem modDrs_tallies (c : Nat) (f : DrsState → DrsState) : (modDrs s c f).tallies = s.tallies := rfl
@[simp] theorem modDrs_waits (c : Nat) (f : DrsState → DrsState) : (modDrs s c f).waits = s.waits := rfl
@[simp] theorem modDrs_conveyors (c : Nat) (f : DrsState → DrsState) : (modDrs s c f).conveyors = s.conveyors := rfl
@[simp] theorem modDrs_backoffs (c : Nat) (f : DrsState → DrsState) : (modDrs s c f).backoffs = s.backoffs := rfl
@[simp] theorem modDrs_claims (c : Nat) (f : DrsState → DrsState) : (modDrs s c f).claims = s.claims := rfl
@[simp] theorem modDrs_claimReq (c : Nat) (f : DrsState → DrsState) : (modDrs s c f).claimReq = s.claimReq := rfl
@[simp] theorem modDrs_functions (c : Nat) (f : DrsState → DrsState) : (modDrs s c f).functions = s.functions := rfl
@[simp] theorem modDrs_host (c : Nat) (f : DrsState → DrsState) : (modDrs s c f).host = s.host := rfl
@[simp] theorem modDrs_hubMovers (c : Nat) (f : DrsState → DrsState) : (modDrs s c f).hubMovers = s.hubMovers := rfl
@[simp] theorem modDrs_group (c : Nat) (f : DrsState → DrsState) : (modDrs s c f).group = s.group := rfl
@[simp] theorem modDrs_dies (c : Nat) (f : DrsState → DrsState) : (modDrs s c f).dies = s.dies := rfl
@[simp] theorem modDrs_power (c : Nat) (f : DrsState → DrsState) : (modDrs s c f).power = s.power := rfl
@[simp] theorem modDrs_therm (c : Nat) (f : DrsState → DrsState) : (modDrs s c f).therm = s.therm := rfl
@[simp] theorem modDrs_ras (c : Nat) (f : DrsState → DrsState) : (modDrs s c f).ras = s.ras := rfl
@[simp] theorem modDrs_now (c : Nat) (f : DrsState → DrsState) : (modDrs s c f).now = s.now := rfl
@[simp] theorem modDrs_fabric (c : Nat) (f : DrsState → DrsState) : (modDrs s c f).fabric = s.fabric := rfl
@[simp] theorem modDrs_haul (c : Nat) (f : DrsState → DrsState) : (modDrs s c f).haul = s.haul := rfl
@[simp] theorem modDrs_coll (c : Nat) (f : DrsState → DrsState) : (modDrs s c f).coll = s.coll := rfl
@[simp] theorem modDrs_sys (c : Nat) (f : DrsState → DrsState) : (modDrs s c f).sys = s.sys := rfl
@[simp] theorem modDrs_answer (c : Nat) (f : DrsState → DrsState) : (modDrs s c f).answer = s.answer := rfl

@[simp] theorem modAtt_pending (c : Nat) (f : AttState → AttState) : (modAtt s c f).pending = s.pending := rfl
@[simp] theorem modAtt_draws (c : Nat) (f : AttState → AttState) : (modAtt s c f).draws = s.draws := rfl
@[simp] theorem modAtt_gallery (c : Nat) (f : AttState → AttState) : (modAtt s c f).gallery = s.gallery := rfl
@[simp] theorem modAtt_dram (c : Nat) (f : AttState → AttState) : (modAtt s c f).dram = s.dram := rfl
@[simp] theorem modAtt_tallies (c : Nat) (f : AttState → AttState) : (modAtt s c f).tallies = s.tallies := rfl
@[simp] theorem modAtt_waits (c : Nat) (f : AttState → AttState) : (modAtt s c f).waits = s.waits := rfl
@[simp] theorem modAtt_conveyors (c : Nat) (f : AttState → AttState) : (modAtt s c f).conveyors = s.conveyors := rfl
@[simp] theorem modAtt_backoffs (c : Nat) (f : AttState → AttState) : (modAtt s c f).backoffs = s.backoffs := rfl
@[simp] theorem modAtt_claims (c : Nat) (f : AttState → AttState) : (modAtt s c f).claims = s.claims := rfl
@[simp] theorem modAtt_claimReq (c : Nat) (f : AttState → AttState) : (modAtt s c f).claimReq = s.claimReq := rfl
@[simp] theorem modAtt_functions (c : Nat) (f : AttState → AttState) : (modAtt s c f).functions = s.functions := rfl
@[simp] theorem modAtt_host (c : Nat) (f : AttState → AttState) : (modAtt s c f).host = s.host := rfl
@[simp] theorem modAtt_hubMovers (c : Nat) (f : AttState → AttState) : (modAtt s c f).hubMovers = s.hubMovers := rfl
@[simp] theorem modAtt_group (c : Nat) (f : AttState → AttState) : (modAtt s c f).group = s.group := rfl
@[simp] theorem modAtt_dies (c : Nat) (f : AttState → AttState) : (modAtt s c f).dies = s.dies := rfl
@[simp] theorem modAtt_power (c : Nat) (f : AttState → AttState) : (modAtt s c f).power = s.power := rfl
@[simp] theorem modAtt_therm (c : Nat) (f : AttState → AttState) : (modAtt s c f).therm = s.therm := rfl
@[simp] theorem modAtt_ras (c : Nat) (f : AttState → AttState) : (modAtt s c f).ras = s.ras := rfl
@[simp] theorem modAtt_now (c : Nat) (f : AttState → AttState) : (modAtt s c f).now = s.now := rfl
@[simp] theorem modAtt_fabric (c : Nat) (f : AttState → AttState) : (modAtt s c f).fabric = s.fabric := rfl
@[simp] theorem modAtt_haul (c : Nat) (f : AttState → AttState) : (modAtt s c f).haul = s.haul := rfl
@[simp] theorem modAtt_coll (c : Nat) (f : AttState → AttState) : (modAtt s c f).coll = s.coll := rfl
@[simp] theorem modAtt_sys (c : Nat) (f : AttState → AttState) : (modAtt s c f).sys = s.sys := rfl
@[simp] theorem modAtt_answer (c : Nat) (f : AttState → AttState) : (modAtt s c f).answer = s.answer := rfl

@[simp] theorem modPwr_pending (c : Nat) (f : CorePower → CorePower) : (modPwr s c f).pending = s.pending := rfl
@[simp] theorem modPwr_draws (c : Nat) (f : CorePower → CorePower) : (modPwr s c f).draws = s.draws := rfl
@[simp] theorem modPwr_gallery (c : Nat) (f : CorePower → CorePower) : (modPwr s c f).gallery = s.gallery := rfl
@[simp] theorem modPwr_dram (c : Nat) (f : CorePower → CorePower) : (modPwr s c f).dram = s.dram := rfl
@[simp] theorem modPwr_tallies (c : Nat) (f : CorePower → CorePower) : (modPwr s c f).tallies = s.tallies := rfl
@[simp] theorem modPwr_waits (c : Nat) (f : CorePower → CorePower) : (modPwr s c f).waits = s.waits := rfl
@[simp] theorem modPwr_conveyors (c : Nat) (f : CorePower → CorePower) : (modPwr s c f).conveyors = s.conveyors := rfl
@[simp] theorem modPwr_backoffs (c : Nat) (f : CorePower → CorePower) : (modPwr s c f).backoffs = s.backoffs := rfl
@[simp] theorem modPwr_claims (c : Nat) (f : CorePower → CorePower) : (modPwr s c f).claims = s.claims := rfl
@[simp] theorem modPwr_claimReq (c : Nat) (f : CorePower → CorePower) : (modPwr s c f).claimReq = s.claimReq := rfl
@[simp] theorem modPwr_functions (c : Nat) (f : CorePower → CorePower) : (modPwr s c f).functions = s.functions := rfl
@[simp] theorem modPwr_host (c : Nat) (f : CorePower → CorePower) : (modPwr s c f).host = s.host := rfl
@[simp] theorem modPwr_hubMovers (c : Nat) (f : CorePower → CorePower) : (modPwr s c f).hubMovers = s.hubMovers := rfl
@[simp] theorem modPwr_group (c : Nat) (f : CorePower → CorePower) : (modPwr s c f).group = s.group := rfl
@[simp] theorem modPwr_dies (c : Nat) (f : CorePower → CorePower) : (modPwr s c f).dies = s.dies := rfl
@[simp] theorem modPwr_power (c : Nat) (f : CorePower → CorePower) : (modPwr s c f).power = s.power := rfl
@[simp] theorem modPwr_therm (c : Nat) (f : CorePower → CorePower) : (modPwr s c f).therm = s.therm := rfl
@[simp] theorem modPwr_ras (c : Nat) (f : CorePower → CorePower) : (modPwr s c f).ras = s.ras := rfl
@[simp] theorem modPwr_now (c : Nat) (f : CorePower → CorePower) : (modPwr s c f).now = s.now := rfl
@[simp] theorem modPwr_fabric (c : Nat) (f : CorePower → CorePower) : (modPwr s c f).fabric = s.fabric := rfl
@[simp] theorem modPwr_haul (c : Nat) (f : CorePower → CorePower) : (modPwr s c f).haul = s.haul := rfl
@[simp] theorem modPwr_coll (c : Nat) (f : CorePower → CorePower) : (modPwr s c f).coll = s.coll := rfl
@[simp] theorem modPwr_sys (c : Nat) (f : CorePower → CorePower) : (modPwr s c f).sys = s.sys := rfl
@[simp] theorem modPwr_answer (c : Nat) (f : CorePower → CorePower) : (modPwr s c f).answer = s.answer := rfl

@[simp] theorem setReg_pending (c r : Nat) (v : W64) : (setReg s c r v).pending = s.pending := rfl
@[simp] theorem setReg_draws (c r : Nat) (v : W64) : (setReg s c r v).draws = s.draws := rfl
@[simp] theorem setReg_gallery (c r : Nat) (v : W64) : (setReg s c r v).gallery = s.gallery := rfl
@[simp] theorem setReg_dram (c r : Nat) (v : W64) : (setReg s c r v).dram = s.dram := rfl
@[simp] theorem setReg_tallies (c r : Nat) (v : W64) : (setReg s c r v).tallies = s.tallies := rfl
@[simp] theorem setReg_waits (c r : Nat) (v : W64) : (setReg s c r v).waits = s.waits := rfl
@[simp] theorem setReg_conveyors (c r : Nat) (v : W64) : (setReg s c r v).conveyors = s.conveyors := rfl
@[simp] theorem setReg_backoffs (c r : Nat) (v : W64) : (setReg s c r v).backoffs = s.backoffs := rfl
@[simp] theorem setReg_claims (c r : Nat) (v : W64) : (setReg s c r v).claims = s.claims := rfl
@[simp] theorem setReg_claimReq (c r : Nat) (v : W64) : (setReg s c r v).claimReq = s.claimReq := rfl
@[simp] theorem setReg_functions (c r : Nat) (v : W64) : (setReg s c r v).functions = s.functions := rfl
@[simp] theorem setReg_host (c r : Nat) (v : W64) : (setReg s c r v).host = s.host := rfl
@[simp] theorem setReg_hubMovers (c r : Nat) (v : W64) : (setReg s c r v).hubMovers = s.hubMovers := rfl
@[simp] theorem setReg_group (c r : Nat) (v : W64) : (setReg s c r v).group = s.group := rfl
@[simp] theorem setReg_dies (c r : Nat) (v : W64) : (setReg s c r v).dies = s.dies := rfl
@[simp] theorem setReg_power (c r : Nat) (v : W64) : (setReg s c r v).power = s.power := rfl
@[simp] theorem setReg_therm (c r : Nat) (v : W64) : (setReg s c r v).therm = s.therm := rfl
@[simp] theorem setReg_ras (c r : Nat) (v : W64) : (setReg s c r v).ras = s.ras := rfl
@[simp] theorem setReg_now (c r : Nat) (v : W64) : (setReg s c r v).now = s.now := rfl
@[simp] theorem setReg_fabric (c r : Nat) (v : W64) : (setReg s c r v).fabric = s.fabric := rfl
@[simp] theorem setReg_haul (c r : Nat) (v : W64) : (setReg s c r v).haul = s.haul := rfl
@[simp] theorem setReg_coll (c r : Nat) (v : W64) : (setReg s c r v).coll = s.coll := rfl
@[simp] theorem setReg_sys (c r : Nat) (v : W64) : (setReg s c r v).sys = s.sys := rfl
@[simp] theorem setReg_answer (c r : Nat) (v : W64) : (setReg s c r v).answer = s.answer := rfl

@[simp] theorem setPred_pending (c p : Nat) (v : Pred) : (setPred s c p v).pending = s.pending := rfl
@[simp] theorem setPred_draws (c p : Nat) (v : Pred) : (setPred s c p v).draws = s.draws := rfl
@[simp] theorem setPred_gallery (c p : Nat) (v : Pred) : (setPred s c p v).gallery = s.gallery := rfl
@[simp] theorem setPred_dram (c p : Nat) (v : Pred) : (setPred s c p v).dram = s.dram := rfl
@[simp] theorem setPred_tallies (c p : Nat) (v : Pred) : (setPred s c p v).tallies = s.tallies := rfl
@[simp] theorem setPred_waits (c p : Nat) (v : Pred) : (setPred s c p v).waits = s.waits := rfl
@[simp] theorem setPred_conveyors (c p : Nat) (v : Pred) : (setPred s c p v).conveyors = s.conveyors := rfl
@[simp] theorem setPred_backoffs (c p : Nat) (v : Pred) : (setPred s c p v).backoffs = s.backoffs := rfl
@[simp] theorem setPred_claims (c p : Nat) (v : Pred) : (setPred s c p v).claims = s.claims := rfl
@[simp] theorem setPred_claimReq (c p : Nat) (v : Pred) : (setPred s c p v).claimReq = s.claimReq := rfl
@[simp] theorem setPred_functions (c p : Nat) (v : Pred) : (setPred s c p v).functions = s.functions := rfl
@[simp] theorem setPred_host (c p : Nat) (v : Pred) : (setPred s c p v).host = s.host := rfl
@[simp] theorem setPred_hubMovers (c p : Nat) (v : Pred) : (setPred s c p v).hubMovers = s.hubMovers := rfl
@[simp] theorem setPred_group (c p : Nat) (v : Pred) : (setPred s c p v).group = s.group := rfl
@[simp] theorem setPred_dies (c p : Nat) (v : Pred) : (setPred s c p v).dies = s.dies := rfl
@[simp] theorem setPred_power (c p : Nat) (v : Pred) : (setPred s c p v).power = s.power := rfl
@[simp] theorem setPred_therm (c p : Nat) (v : Pred) : (setPred s c p v).therm = s.therm := rfl
@[simp] theorem setPred_ras (c p : Nat) (v : Pred) : (setPred s c p v).ras = s.ras := rfl
@[simp] theorem setPred_now (c p : Nat) (v : Pred) : (setPred s c p v).now = s.now := rfl
@[simp] theorem setPred_fabric (c p : Nat) (v : Pred) : (setPred s c p v).fabric = s.fabric := rfl
@[simp] theorem setPred_haul (c p : Nat) (v : Pred) : (setPred s c p v).haul = s.haul := rfl
@[simp] theorem setPred_coll (c p : Nat) (v : Pred) : (setPred s c p v).coll = s.coll := rfl
@[simp] theorem setPred_sys (c p : Nat) (v : Pred) : (setPred s c p v).sys = s.sys := rfl
@[simp] theorem setPred_answer (c p : Nat) (v : Pred) : (setPred s c p v).answer = s.answer := rfl

@[simp] theorem writeBench_pending (c o : Nat) (b : List Byte) : (writeBench s c o b).pending = s.pending := rfl
@[simp] theorem writeBench_draws (c o : Nat) (b : List Byte) : (writeBench s c o b).draws = s.draws := rfl
@[simp] theorem writeBench_gallery (c o : Nat) (b : List Byte) : (writeBench s c o b).gallery = s.gallery := rfl
@[simp] theorem writeBench_dram (c o : Nat) (b : List Byte) : (writeBench s c o b).dram = s.dram := rfl
@[simp] theorem writeBench_tallies (c o : Nat) (b : List Byte) : (writeBench s c o b).tallies = s.tallies := rfl
@[simp] theorem writeBench_waits (c o : Nat) (b : List Byte) : (writeBench s c o b).waits = s.waits := rfl
@[simp] theorem writeBench_conveyors (c o : Nat) (b : List Byte) : (writeBench s c o b).conveyors = s.conveyors := rfl
@[simp] theorem writeBench_backoffs (c o : Nat) (b : List Byte) : (writeBench s c o b).backoffs = s.backoffs := rfl
@[simp] theorem writeBench_claims (c o : Nat) (b : List Byte) : (writeBench s c o b).claims = s.claims := rfl
@[simp] theorem writeBench_claimReq (c o : Nat) (b : List Byte) : (writeBench s c o b).claimReq = s.claimReq := rfl
@[simp] theorem writeBench_functions (c o : Nat) (b : List Byte) : (writeBench s c o b).functions = s.functions := rfl
@[simp] theorem writeBench_host (c o : Nat) (b : List Byte) : (writeBench s c o b).host = s.host := rfl
@[simp] theorem writeBench_hubMovers (c o : Nat) (b : List Byte) : (writeBench s c o b).hubMovers = s.hubMovers := rfl
@[simp] theorem writeBench_group (c o : Nat) (b : List Byte) : (writeBench s c o b).group = s.group := rfl
@[simp] theorem writeBench_dies (c o : Nat) (b : List Byte) : (writeBench s c o b).dies = s.dies := rfl
@[simp] theorem writeBench_power (c o : Nat) (b : List Byte) : (writeBench s c o b).power = s.power := rfl
@[simp] theorem writeBench_therm (c o : Nat) (b : List Byte) : (writeBench s c o b).therm = s.therm := rfl
@[simp] theorem writeBench_ras (c o : Nat) (b : List Byte) : (writeBench s c o b).ras = s.ras := rfl
@[simp] theorem writeBench_now (c o : Nat) (b : List Byte) : (writeBench s c o b).now = s.now := rfl
@[simp] theorem writeBench_fabric (c o : Nat) (b : List Byte) : (writeBench s c o b).fabric = s.fabric := rfl
@[simp] theorem writeBench_haul (c o : Nat) (b : List Byte) : (writeBench s c o b).haul = s.haul := rfl
@[simp] theorem writeBench_coll (c o : Nat) (b : List Byte) : (writeBench s c o b).coll = s.coll := rfl
@[simp] theorem writeBench_sys (c o : Nat) (b : List Byte) : (writeBench s c o b).sys = s.sys := rfl
@[simp] theorem writeBench_answer (c o : Nat) (b : List Byte) : (writeBench s c o b).answer = s.answer := rfl

@[simp] theorem setTag_pending (c x : Nat) (b : Bool) : (setTag s c x b).pending = s.pending := rfl
@[simp] theorem setTag_draws (c x : Nat) (b : Bool) : (setTag s c x b).draws = s.draws := rfl
@[simp] theorem setTag_gallery (c x : Nat) (b : Bool) : (setTag s c x b).gallery = s.gallery := rfl
@[simp] theorem setTag_dram (c x : Nat) (b : Bool) : (setTag s c x b).dram = s.dram := rfl
@[simp] theorem setTag_tallies (c x : Nat) (b : Bool) : (setTag s c x b).tallies = s.tallies := rfl
@[simp] theorem setTag_waits (c x : Nat) (b : Bool) : (setTag s c x b).waits = s.waits := rfl
@[simp] theorem setTag_conveyors (c x : Nat) (b : Bool) : (setTag s c x b).conveyors = s.conveyors := rfl
@[simp] theorem setTag_backoffs (c x : Nat) (b : Bool) : (setTag s c x b).backoffs = s.backoffs := rfl
@[simp] theorem setTag_claims (c x : Nat) (b : Bool) : (setTag s c x b).claims = s.claims := rfl
@[simp] theorem setTag_claimReq (c x : Nat) (b : Bool) : (setTag s c x b).claimReq = s.claimReq := rfl
@[simp] theorem setTag_functions (c x : Nat) (b : Bool) : (setTag s c x b).functions = s.functions := rfl
@[simp] theorem setTag_host (c x : Nat) (b : Bool) : (setTag s c x b).host = s.host := rfl
@[simp] theorem setTag_hubMovers (c x : Nat) (b : Bool) : (setTag s c x b).hubMovers = s.hubMovers := rfl
@[simp] theorem setTag_group (c x : Nat) (b : Bool) : (setTag s c x b).group = s.group := rfl
@[simp] theorem setTag_dies (c x : Nat) (b : Bool) : (setTag s c x b).dies = s.dies := rfl
@[simp] theorem setTag_power (c x : Nat) (b : Bool) : (setTag s c x b).power = s.power := rfl
@[simp] theorem setTag_therm (c x : Nat) (b : Bool) : (setTag s c x b).therm = s.therm := rfl
@[simp] theorem setTag_ras (c x : Nat) (b : Bool) : (setTag s c x b).ras = s.ras := rfl
@[simp] theorem setTag_now (c x : Nat) (b : Bool) : (setTag s c x b).now = s.now := rfl
@[simp] theorem setTag_fabric (c x : Nat) (b : Bool) : (setTag s c x b).fabric = s.fabric := rfl
@[simp] theorem setTag_haul (c x : Nat) (b : Bool) : (setTag s c x b).haul = s.haul := rfl
@[simp] theorem setTag_coll (c x : Nat) (b : Bool) : (setTag s c x b).coll = s.coll := rfl
@[simp] theorem setTag_sys (c x : Nat) (b : Bool) : (setTag s c x b).sys = s.sys := rfl
@[simp] theorem setTag_answer (c x : Nat) (b : Bool) : (setTag s c x b).answer = s.answer := rfl

@[simp] theorem setCoreMover_pending (c : Nat) (b : Bool) (m : MoverState) : (setCoreMover s c b m).pending = s.pending := rfl
@[simp] theorem setCoreMover_draws (c : Nat) (b : Bool) (m : MoverState) : (setCoreMover s c b m).draws = s.draws := rfl
@[simp] theorem setCoreMover_gallery (c : Nat) (b : Bool) (m : MoverState) : (setCoreMover s c b m).gallery = s.gallery := rfl
@[simp] theorem setCoreMover_dram (c : Nat) (b : Bool) (m : MoverState) : (setCoreMover s c b m).dram = s.dram := rfl
@[simp] theorem setCoreMover_tallies (c : Nat) (b : Bool) (m : MoverState) : (setCoreMover s c b m).tallies = s.tallies := rfl
@[simp] theorem setCoreMover_waits (c : Nat) (b : Bool) (m : MoverState) : (setCoreMover s c b m).waits = s.waits := rfl
@[simp] theorem setCoreMover_conveyors (c : Nat) (b : Bool) (m : MoverState) : (setCoreMover s c b m).conveyors = s.conveyors := rfl
@[simp] theorem setCoreMover_backoffs (c : Nat) (b : Bool) (m : MoverState) : (setCoreMover s c b m).backoffs = s.backoffs := rfl
@[simp] theorem setCoreMover_claims (c : Nat) (b : Bool) (m : MoverState) : (setCoreMover s c b m).claims = s.claims := rfl
@[simp] theorem setCoreMover_claimReq (c : Nat) (b : Bool) (m : MoverState) : (setCoreMover s c b m).claimReq = s.claimReq := rfl
@[simp] theorem setCoreMover_functions (c : Nat) (b : Bool) (m : MoverState) : (setCoreMover s c b m).functions = s.functions := rfl
@[simp] theorem setCoreMover_host (c : Nat) (b : Bool) (m : MoverState) : (setCoreMover s c b m).host = s.host := rfl
@[simp] theorem setCoreMover_hubMovers (c : Nat) (b : Bool) (m : MoverState) : (setCoreMover s c b m).hubMovers = s.hubMovers := rfl
@[simp] theorem setCoreMover_group (c : Nat) (b : Bool) (m : MoverState) : (setCoreMover s c b m).group = s.group := rfl
@[simp] theorem setCoreMover_dies (c : Nat) (b : Bool) (m : MoverState) : (setCoreMover s c b m).dies = s.dies := rfl
@[simp] theorem setCoreMover_power (c : Nat) (b : Bool) (m : MoverState) : (setCoreMover s c b m).power = s.power := rfl
@[simp] theorem setCoreMover_therm (c : Nat) (b : Bool) (m : MoverState) : (setCoreMover s c b m).therm = s.therm := rfl
@[simp] theorem setCoreMover_ras (c : Nat) (b : Bool) (m : MoverState) : (setCoreMover s c b m).ras = s.ras := rfl
@[simp] theorem setCoreMover_now (c : Nat) (b : Bool) (m : MoverState) : (setCoreMover s c b m).now = s.now := rfl
@[simp] theorem setCoreMover_fabric (c : Nat) (b : Bool) (m : MoverState) : (setCoreMover s c b m).fabric = s.fabric := rfl
@[simp] theorem setCoreMover_haul (c : Nat) (b : Bool) (m : MoverState) : (setCoreMover s c b m).haul = s.haul := rfl
@[simp] theorem setCoreMover_coll (c : Nat) (b : Bool) (m : MoverState) : (setCoreMover s c b m).coll = s.coll := rfl
@[simp] theorem setCoreMover_sys (c : Nat) (b : Bool) (m : MoverState) : (setCoreMover s c b m).sys = s.sys := rfl
@[simp] theorem setCoreMover_answer (c : Nat) (b : Bool) (m : MoverState) : (setCoreMover s c b m).answer = s.answer := rfl

@[simp] theorem modClaim_pending (k : Nat) (f : Claim → Claim) : (modClaim s k f).pending = s.pending := rfl
@[simp] theorem modClaim_draws (k : Nat) (f : Claim → Claim) : (modClaim s k f).draws = s.draws := rfl
@[simp] theorem modClaim_cores (k : Nat) (f : Claim → Claim) : (modClaim s k f).cores = s.cores := rfl
@[simp] theorem modClaim_gallery (k : Nat) (f : Claim → Claim) : (modClaim s k f).gallery = s.gallery := rfl
@[simp] theorem modClaim_dram (k : Nat) (f : Claim → Claim) : (modClaim s k f).dram = s.dram := rfl
@[simp] theorem modClaim_tallies (k : Nat) (f : Claim → Claim) : (modClaim s k f).tallies = s.tallies := rfl
@[simp] theorem modClaim_waits (k : Nat) (f : Claim → Claim) : (modClaim s k f).waits = s.waits := rfl
@[simp] theorem modClaim_conveyors (k : Nat) (f : Claim → Claim) : (modClaim s k f).conveyors = s.conveyors := rfl
@[simp] theorem modClaim_backoffs (k : Nat) (f : Claim → Claim) : (modClaim s k f).backoffs = s.backoffs := rfl
@[simp] theorem modClaim_claimReq (k : Nat) (f : Claim → Claim) : (modClaim s k f).claimReq = s.claimReq := rfl
@[simp] theorem modClaim_functions (k : Nat) (f : Claim → Claim) : (modClaim s k f).functions = s.functions := rfl
@[simp] theorem modClaim_host (k : Nat) (f : Claim → Claim) : (modClaim s k f).host = s.host := rfl
@[simp] theorem modClaim_hubMovers (k : Nat) (f : Claim → Claim) : (modClaim s k f).hubMovers = s.hubMovers := rfl
@[simp] theorem modClaim_group (k : Nat) (f : Claim → Claim) : (modClaim s k f).group = s.group := rfl
@[simp] theorem modClaim_dies (k : Nat) (f : Claim → Claim) : (modClaim s k f).dies = s.dies := rfl
@[simp] theorem modClaim_power (k : Nat) (f : Claim → Claim) : (modClaim s k f).power = s.power := rfl
@[simp] theorem modClaim_therm (k : Nat) (f : Claim → Claim) : (modClaim s k f).therm = s.therm := rfl
@[simp] theorem modClaim_ras (k : Nat) (f : Claim → Claim) : (modClaim s k f).ras = s.ras := rfl
@[simp] theorem modClaim_now (k : Nat) (f : Claim → Claim) : (modClaim s k f).now = s.now := rfl
@[simp] theorem modClaim_fabric (k : Nat) (f : Claim → Claim) : (modClaim s k f).fabric = s.fabric := rfl
@[simp] theorem modClaim_haul (k : Nat) (f : Claim → Claim) : (modClaim s k f).haul = s.haul := rfl
@[simp] theorem modClaim_coll (k : Nat) (f : Claim → Claim) : (modClaim s k f).coll = s.coll := rfl
@[simp] theorem modClaim_sys (k : Nat) (f : Claim → Claim) : (modClaim s k f).sys = s.sys := rfl
@[simp] theorem modClaim_answer (k : Nat) (f : Claim → Claim) : (modClaim s k f).answer = s.answer := rfl

@[simp] theorem modRas_pending (f : RasState → RasState) : (modRas s f).pending = s.pending := rfl
@[simp] theorem modRas_draws (f : RasState → RasState) : (modRas s f).draws = s.draws := rfl
@[simp] theorem modRas_cores (f : RasState → RasState) : (modRas s f).cores = s.cores := rfl
@[simp] theorem modRas_gallery (f : RasState → RasState) : (modRas s f).gallery = s.gallery := rfl
@[simp] theorem modRas_dram (f : RasState → RasState) : (modRas s f).dram = s.dram := rfl
@[simp] theorem modRas_tallies (f : RasState → RasState) : (modRas s f).tallies = s.tallies := rfl
@[simp] theorem modRas_waits (f : RasState → RasState) : (modRas s f).waits = s.waits := rfl
@[simp] theorem modRas_conveyors (f : RasState → RasState) : (modRas s f).conveyors = s.conveyors := rfl
@[simp] theorem modRas_backoffs (f : RasState → RasState) : (modRas s f).backoffs = s.backoffs := rfl
@[simp] theorem modRas_claims (f : RasState → RasState) : (modRas s f).claims = s.claims := rfl
@[simp] theorem modRas_claimReq (f : RasState → RasState) : (modRas s f).claimReq = s.claimReq := rfl
@[simp] theorem modRas_functions (f : RasState → RasState) : (modRas s f).functions = s.functions := rfl
@[simp] theorem modRas_host (f : RasState → RasState) : (modRas s f).host = s.host := rfl
@[simp] theorem modRas_hubMovers (f : RasState → RasState) : (modRas s f).hubMovers = s.hubMovers := rfl
@[simp] theorem modRas_group (f : RasState → RasState) : (modRas s f).group = s.group := rfl
@[simp] theorem modRas_dies (f : RasState → RasState) : (modRas s f).dies = s.dies := rfl
@[simp] theorem modRas_power (f : RasState → RasState) : (modRas s f).power = s.power := rfl
@[simp] theorem modRas_therm (f : RasState → RasState) : (modRas s f).therm = s.therm := rfl
@[simp] theorem modRas_now (f : RasState → RasState) : (modRas s f).now = s.now := rfl
@[simp] theorem modRas_fabric (f : RasState → RasState) : (modRas s f).fabric = s.fabric := rfl
@[simp] theorem modRas_haul (f : RasState → RasState) : (modRas s f).haul = s.haul := rfl
@[simp] theorem modRas_coll (f : RasState → RasState) : (modRas s f).coll = s.coll := rfl
@[simp] theorem modRas_sys (f : RasState → RasState) : (modRas s f).sys = s.sys := rfl
@[simp] theorem modRas_answer (f : RasState → RasState) : (modRas s f).answer = s.answer := rfl

@[simp] theorem modDie_pending (d : Nat) (f : DieState → DieState) : (modDie s d f).pending = s.pending := rfl
@[simp] theorem modDie_draws (d : Nat) (f : DieState → DieState) : (modDie s d f).draws = s.draws := rfl
@[simp] theorem modDie_cores (d : Nat) (f : DieState → DieState) : (modDie s d f).cores = s.cores := rfl
@[simp] theorem modDie_gallery (d : Nat) (f : DieState → DieState) : (modDie s d f).gallery = s.gallery := rfl
@[simp] theorem modDie_dram (d : Nat) (f : DieState → DieState) : (modDie s d f).dram = s.dram := rfl
@[simp] theorem modDie_tallies (d : Nat) (f : DieState → DieState) : (modDie s d f).tallies = s.tallies := rfl
@[simp] theorem modDie_waits (d : Nat) (f : DieState → DieState) : (modDie s d f).waits = s.waits := rfl
@[simp] theorem modDie_conveyors (d : Nat) (f : DieState → DieState) : (modDie s d f).conveyors = s.conveyors := rfl
@[simp] theorem modDie_backoffs (d : Nat) (f : DieState → DieState) : (modDie s d f).backoffs = s.backoffs := rfl
@[simp] theorem modDie_claims (d : Nat) (f : DieState → DieState) : (modDie s d f).claims = s.claims := rfl
@[simp] theorem modDie_claimReq (d : Nat) (f : DieState → DieState) : (modDie s d f).claimReq = s.claimReq := rfl
@[simp] theorem modDie_functions (d : Nat) (f : DieState → DieState) : (modDie s d f).functions = s.functions := rfl
@[simp] theorem modDie_host (d : Nat) (f : DieState → DieState) : (modDie s d f).host = s.host := rfl
@[simp] theorem modDie_hubMovers (d : Nat) (f : DieState → DieState) : (modDie s d f).hubMovers = s.hubMovers := rfl
@[simp] theorem modDie_group (d : Nat) (f : DieState → DieState) : (modDie s d f).group = s.group := rfl
@[simp] theorem modDie_power (d : Nat) (f : DieState → DieState) : (modDie s d f).power = s.power := rfl
@[simp] theorem modDie_therm (d : Nat) (f : DieState → DieState) : (modDie s d f).therm = s.therm := rfl
@[simp] theorem modDie_ras (d : Nat) (f : DieState → DieState) : (modDie s d f).ras = s.ras := rfl
@[simp] theorem modDie_now (d : Nat) (f : DieState → DieState) : (modDie s d f).now = s.now := rfl
@[simp] theorem modDie_fabric (d : Nat) (f : DieState → DieState) : (modDie s d f).fabric = s.fabric := rfl
@[simp] theorem modDie_haul (d : Nat) (f : DieState → DieState) : (modDie s d f).haul = s.haul := rfl
@[simp] theorem modDie_coll (d : Nat) (f : DieState → DieState) : (modDie s d f).coll = s.coll := rfl
@[simp] theorem modDie_sys (d : Nat) (f : DieState → DieState) : (modDie s d f).sys = s.sys := rfl
@[simp] theorem modDie_answer (d : Nat) (f : DieState → DieState) : (modDie s d f).answer = s.answer := rfl

@[simp] theorem modPower_pending (f : PowerState → PowerState) : (modPower s f).pending = s.pending := rfl
@[simp] theorem modPower_draws (f : PowerState → PowerState) : (modPower s f).draws = s.draws := rfl
@[simp] theorem modPower_cores (f : PowerState → PowerState) : (modPower s f).cores = s.cores := rfl
@[simp] theorem modPower_gallery (f : PowerState → PowerState) : (modPower s f).gallery = s.gallery := rfl
@[simp] theorem modPower_dram (f : PowerState → PowerState) : (modPower s f).dram = s.dram := rfl
@[simp] theorem modPower_tallies (f : PowerState → PowerState) : (modPower s f).tallies = s.tallies := rfl
@[simp] theorem modPower_waits (f : PowerState → PowerState) : (modPower s f).waits = s.waits := rfl
@[simp] theorem modPower_conveyors (f : PowerState → PowerState) : (modPower s f).conveyors = s.conveyors := rfl
@[simp] theorem modPower_backoffs (f : PowerState → PowerState) : (modPower s f).backoffs = s.backoffs := rfl
@[simp] theorem modPower_claims (f : PowerState → PowerState) : (modPower s f).claims = s.claims := rfl
@[simp] theorem modPower_claimReq (f : PowerState → PowerState) : (modPower s f).claimReq = s.claimReq := rfl
@[simp] theorem modPower_functions (f : PowerState → PowerState) : (modPower s f).functions = s.functions := rfl
@[simp] theorem modPower_host (f : PowerState → PowerState) : (modPower s f).host = s.host := rfl
@[simp] theorem modPower_hubMovers (f : PowerState → PowerState) : (modPower s f).hubMovers = s.hubMovers := rfl
@[simp] theorem modPower_group (f : PowerState → PowerState) : (modPower s f).group = s.group := rfl
@[simp] theorem modPower_dies (f : PowerState → PowerState) : (modPower s f).dies = s.dies := rfl
@[simp] theorem modPower_therm (f : PowerState → PowerState) : (modPower s f).therm = s.therm := rfl
@[simp] theorem modPower_ras (f : PowerState → PowerState) : (modPower s f).ras = s.ras := rfl
@[simp] theorem modPower_now (f : PowerState → PowerState) : (modPower s f).now = s.now := rfl
@[simp] theorem modPower_fabric (f : PowerState → PowerState) : (modPower s f).fabric = s.fabric := rfl
@[simp] theorem modPower_haul (f : PowerState → PowerState) : (modPower s f).haul = s.haul := rfl
@[simp] theorem modPower_coll (f : PowerState → PowerState) : (modPower s f).coll = s.coll := rfl
@[simp] theorem modPower_sys (f : PowerState → PowerState) : (modPower s f).sys = s.sys := rfl
@[simp] theorem modPower_answer (f : PowerState → PowerState) : (modPower s f).answer = s.answer := rfl

@[simp] theorem modSys_pending (f : ModuleState → ModuleState) : (modSys s f).pending = s.pending := rfl
@[simp] theorem modSys_draws (f : ModuleState → ModuleState) : (modSys s f).draws = s.draws := rfl
@[simp] theorem modSys_cores (f : ModuleState → ModuleState) : (modSys s f).cores = s.cores := rfl
@[simp] theorem modSys_gallery (f : ModuleState → ModuleState) : (modSys s f).gallery = s.gallery := rfl
@[simp] theorem modSys_dram (f : ModuleState → ModuleState) : (modSys s f).dram = s.dram := rfl
@[simp] theorem modSys_tallies (f : ModuleState → ModuleState) : (modSys s f).tallies = s.tallies := rfl
@[simp] theorem modSys_waits (f : ModuleState → ModuleState) : (modSys s f).waits = s.waits := rfl
@[simp] theorem modSys_conveyors (f : ModuleState → ModuleState) : (modSys s f).conveyors = s.conveyors := rfl
@[simp] theorem modSys_backoffs (f : ModuleState → ModuleState) : (modSys s f).backoffs = s.backoffs := rfl
@[simp] theorem modSys_claims (f : ModuleState → ModuleState) : (modSys s f).claims = s.claims := rfl
@[simp] theorem modSys_claimReq (f : ModuleState → ModuleState) : (modSys s f).claimReq = s.claimReq := rfl
@[simp] theorem modSys_functions (f : ModuleState → ModuleState) : (modSys s f).functions = s.functions := rfl
@[simp] theorem modSys_host (f : ModuleState → ModuleState) : (modSys s f).host = s.host := rfl
@[simp] theorem modSys_hubMovers (f : ModuleState → ModuleState) : (modSys s f).hubMovers = s.hubMovers := rfl
@[simp] theorem modSys_group (f : ModuleState → ModuleState) : (modSys s f).group = s.group := rfl
@[simp] theorem modSys_dies (f : ModuleState → ModuleState) : (modSys s f).dies = s.dies := rfl
@[simp] theorem modSys_power (f : ModuleState → ModuleState) : (modSys s f).power = s.power := rfl
@[simp] theorem modSys_therm (f : ModuleState → ModuleState) : (modSys s f).therm = s.therm := rfl
@[simp] theorem modSys_ras (f : ModuleState → ModuleState) : (modSys s f).ras = s.ras := rfl
@[simp] theorem modSys_now (f : ModuleState → ModuleState) : (modSys s f).now = s.now := rfl
@[simp] theorem modSys_fabric (f : ModuleState → ModuleState) : (modSys s f).fabric = s.fabric := rfl
@[simp] theorem modSys_haul (f : ModuleState → ModuleState) : (modSys s f).haul = s.haul := rfl
@[simp] theorem modSys_coll (f : ModuleState → ModuleState) : (modSys s f).coll = s.coll := rfl
@[simp] theorem modSys_answer (f : ModuleState → ModuleState) : (modSys s f).answer = s.answer := rfl

@[simp] theorem modFabric_pending (f : FabricState → FabricState) : (modFabric s f).pending = s.pending := rfl
@[simp] theorem modFabric_draws (f : FabricState → FabricState) : (modFabric s f).draws = s.draws := rfl
@[simp] theorem modFabric_cores (f : FabricState → FabricState) : (modFabric s f).cores = s.cores := rfl
@[simp] theorem modFabric_gallery (f : FabricState → FabricState) : (modFabric s f).gallery = s.gallery := rfl
@[simp] theorem modFabric_dram (f : FabricState → FabricState) : (modFabric s f).dram = s.dram := rfl
@[simp] theorem modFabric_tallies (f : FabricState → FabricState) : (modFabric s f).tallies = s.tallies := rfl
@[simp] theorem modFabric_waits (f : FabricState → FabricState) : (modFabric s f).waits = s.waits := rfl
@[simp] theorem modFabric_conveyors (f : FabricState → FabricState) : (modFabric s f).conveyors = s.conveyors := rfl
@[simp] theorem modFabric_backoffs (f : FabricState → FabricState) : (modFabric s f).backoffs = s.backoffs := rfl
@[simp] theorem modFabric_claims (f : FabricState → FabricState) : (modFabric s f).claims = s.claims := rfl
@[simp] theorem modFabric_claimReq (f : FabricState → FabricState) : (modFabric s f).claimReq = s.claimReq := rfl
@[simp] theorem modFabric_functions (f : FabricState → FabricState) : (modFabric s f).functions = s.functions := rfl
@[simp] theorem modFabric_host (f : FabricState → FabricState) : (modFabric s f).host = s.host := rfl
@[simp] theorem modFabric_hubMovers (f : FabricState → FabricState) : (modFabric s f).hubMovers = s.hubMovers := rfl
@[simp] theorem modFabric_group (f : FabricState → FabricState) : (modFabric s f).group = s.group := rfl
@[simp] theorem modFabric_dies (f : FabricState → FabricState) : (modFabric s f).dies = s.dies := rfl
@[simp] theorem modFabric_power (f : FabricState → FabricState) : (modFabric s f).power = s.power := rfl
@[simp] theorem modFabric_therm (f : FabricState → FabricState) : (modFabric s f).therm = s.therm := rfl
@[simp] theorem modFabric_ras (f : FabricState → FabricState) : (modFabric s f).ras = s.ras := rfl
@[simp] theorem modFabric_now (f : FabricState → FabricState) : (modFabric s f).now = s.now := rfl
@[simp] theorem modFabric_haul (f : FabricState → FabricState) : (modFabric s f).haul = s.haul := rfl
@[simp] theorem modFabric_coll (f : FabricState → FabricState) : (modFabric s f).coll = s.coll := rfl
@[simp] theorem modFabric_sys (f : FabricState → FabricState) : (modFabric s f).sys = s.sys := rfl
@[simp] theorem modFabric_answer (f : FabricState → FabricState) : (modFabric s f).answer = s.answer := rfl

@[simp] theorem modGroup_pending (f : GroupState → GroupState) : (modGroup s f).pending = s.pending := rfl
@[simp] theorem modGroup_draws (f : GroupState → GroupState) : (modGroup s f).draws = s.draws := rfl
@[simp] theorem modGroup_cores (f : GroupState → GroupState) : (modGroup s f).cores = s.cores := rfl
@[simp] theorem modGroup_gallery (f : GroupState → GroupState) : (modGroup s f).gallery = s.gallery := rfl
@[simp] theorem modGroup_dram (f : GroupState → GroupState) : (modGroup s f).dram = s.dram := rfl
@[simp] theorem modGroup_tallies (f : GroupState → GroupState) : (modGroup s f).tallies = s.tallies := rfl
@[simp] theorem modGroup_waits (f : GroupState → GroupState) : (modGroup s f).waits = s.waits := rfl
@[simp] theorem modGroup_conveyors (f : GroupState → GroupState) : (modGroup s f).conveyors = s.conveyors := rfl
@[simp] theorem modGroup_backoffs (f : GroupState → GroupState) : (modGroup s f).backoffs = s.backoffs := rfl
@[simp] theorem modGroup_claims (f : GroupState → GroupState) : (modGroup s f).claims = s.claims := rfl
@[simp] theorem modGroup_claimReq (f : GroupState → GroupState) : (modGroup s f).claimReq = s.claimReq := rfl
@[simp] theorem modGroup_functions (f : GroupState → GroupState) : (modGroup s f).functions = s.functions := rfl
@[simp] theorem modGroup_host (f : GroupState → GroupState) : (modGroup s f).host = s.host := rfl
@[simp] theorem modGroup_hubMovers (f : GroupState → GroupState) : (modGroup s f).hubMovers = s.hubMovers := rfl
@[simp] theorem modGroup_dies (f : GroupState → GroupState) : (modGroup s f).dies = s.dies := rfl
@[simp] theorem modGroup_power (f : GroupState → GroupState) : (modGroup s f).power = s.power := rfl
@[simp] theorem modGroup_therm (f : GroupState → GroupState) : (modGroup s f).therm = s.therm := rfl
@[simp] theorem modGroup_ras (f : GroupState → GroupState) : (modGroup s f).ras = s.ras := rfl
@[simp] theorem modGroup_now (f : GroupState → GroupState) : (modGroup s f).now = s.now := rfl
@[simp] theorem modGroup_fabric (f : GroupState → GroupState) : (modGroup s f).fabric = s.fabric := rfl
@[simp] theorem modGroup_haul (f : GroupState → GroupState) : (modGroup s f).haul = s.haul := rfl
@[simp] theorem modGroup_coll (f : GroupState → GroupState) : (modGroup s f).coll = s.coll := rfl
@[simp] theorem modGroup_sys (f : GroupState → GroupState) : (modGroup s f).sys = s.sys := rfl
@[simp] theorem modGroup_answer (f : GroupState → GroupState) : (modGroup s f).answer = s.answer := rfl

@[simp] theorem modColl_pending (f : CollState → CollState) : (modColl s f).pending = s.pending := rfl
@[simp] theorem modColl_draws (f : CollState → CollState) : (modColl s f).draws = s.draws := rfl
@[simp] theorem modColl_cores (f : CollState → CollState) : (modColl s f).cores = s.cores := rfl
@[simp] theorem modColl_gallery (f : CollState → CollState) : (modColl s f).gallery = s.gallery := rfl
@[simp] theorem modColl_dram (f : CollState → CollState) : (modColl s f).dram = s.dram := rfl
@[simp] theorem modColl_tallies (f : CollState → CollState) : (modColl s f).tallies = s.tallies := rfl
@[simp] theorem modColl_waits (f : CollState → CollState) : (modColl s f).waits = s.waits := rfl
@[simp] theorem modColl_conveyors (f : CollState → CollState) : (modColl s f).conveyors = s.conveyors := rfl
@[simp] theorem modColl_backoffs (f : CollState → CollState) : (modColl s f).backoffs = s.backoffs := rfl
@[simp] theorem modColl_claims (f : CollState → CollState) : (modColl s f).claims = s.claims := rfl
@[simp] theorem modColl_claimReq (f : CollState → CollState) : (modColl s f).claimReq = s.claimReq := rfl
@[simp] theorem modColl_functions (f : CollState → CollState) : (modColl s f).functions = s.functions := rfl
@[simp] theorem modColl_host (f : CollState → CollState) : (modColl s f).host = s.host := rfl
@[simp] theorem modColl_hubMovers (f : CollState → CollState) : (modColl s f).hubMovers = s.hubMovers := rfl
@[simp] theorem modColl_group (f : CollState → CollState) : (modColl s f).group = s.group := rfl
@[simp] theorem modColl_dies (f : CollState → CollState) : (modColl s f).dies = s.dies := rfl
@[simp] theorem modColl_power (f : CollState → CollState) : (modColl s f).power = s.power := rfl
@[simp] theorem modColl_therm (f : CollState → CollState) : (modColl s f).therm = s.therm := rfl
@[simp] theorem modColl_ras (f : CollState → CollState) : (modColl s f).ras = s.ras := rfl
@[simp] theorem modColl_now (f : CollState → CollState) : (modColl s f).now = s.now := rfl
@[simp] theorem modColl_fabric (f : CollState → CollState) : (modColl s f).fabric = s.fabric := rfl
@[simp] theorem modColl_haul (f : CollState → CollState) : (modColl s f).haul = s.haul := rfl
@[simp] theorem modColl_sys (f : CollState → CollState) : (modColl s f).sys = s.sys := rfl
@[simp] theorem modColl_answer (f : CollState → CollState) : (modColl s f).answer = s.answer := rfl

@[simp] theorem setConveyor_pending (n : Nat) (v : Conveyor) : (setConveyor s n v).pending = s.pending := rfl
@[simp] theorem setConveyor_draws (n : Nat) (v : Conveyor) : (setConveyor s n v).draws = s.draws := rfl
@[simp] theorem setConveyor_cores (n : Nat) (v : Conveyor) : (setConveyor s n v).cores = s.cores := rfl
@[simp] theorem setConveyor_gallery (n : Nat) (v : Conveyor) : (setConveyor s n v).gallery = s.gallery := rfl
@[simp] theorem setConveyor_dram (n : Nat) (v : Conveyor) : (setConveyor s n v).dram = s.dram := rfl
@[simp] theorem setConveyor_tallies (n : Nat) (v : Conveyor) : (setConveyor s n v).tallies = s.tallies := rfl
@[simp] theorem setConveyor_waits (n : Nat) (v : Conveyor) : (setConveyor s n v).waits = s.waits := rfl
@[simp] theorem setConveyor_backoffs (n : Nat) (v : Conveyor) : (setConveyor s n v).backoffs = s.backoffs := rfl
@[simp] theorem setConveyor_claims (n : Nat) (v : Conveyor) : (setConveyor s n v).claims = s.claims := rfl
@[simp] theorem setConveyor_claimReq (n : Nat) (v : Conveyor) : (setConveyor s n v).claimReq = s.claimReq := rfl
@[simp] theorem setConveyor_functions (n : Nat) (v : Conveyor) : (setConveyor s n v).functions = s.functions := rfl
@[simp] theorem setConveyor_host (n : Nat) (v : Conveyor) : (setConveyor s n v).host = s.host := rfl
@[simp] theorem setConveyor_hubMovers (n : Nat) (v : Conveyor) : (setConveyor s n v).hubMovers = s.hubMovers := rfl
@[simp] theorem setConveyor_group (n : Nat) (v : Conveyor) : (setConveyor s n v).group = s.group := rfl
@[simp] theorem setConveyor_dies (n : Nat) (v : Conveyor) : (setConveyor s n v).dies = s.dies := rfl
@[simp] theorem setConveyor_power (n : Nat) (v : Conveyor) : (setConveyor s n v).power = s.power := rfl
@[simp] theorem setConveyor_therm (n : Nat) (v : Conveyor) : (setConveyor s n v).therm = s.therm := rfl
@[simp] theorem setConveyor_ras (n : Nat) (v : Conveyor) : (setConveyor s n v).ras = s.ras := rfl
@[simp] theorem setConveyor_now (n : Nat) (v : Conveyor) : (setConveyor s n v).now = s.now := rfl
@[simp] theorem setConveyor_fabric (n : Nat) (v : Conveyor) : (setConveyor s n v).fabric = s.fabric := rfl
@[simp] theorem setConveyor_haul (n : Nat) (v : Conveyor) : (setConveyor s n v).haul = s.haul := rfl
@[simp] theorem setConveyor_coll (n : Nat) (v : Conveyor) : (setConveyor s n v).coll = s.coll := rfl
@[simp] theorem setConveyor_sys (n : Nat) (v : Conveyor) : (setConveyor s n v).sys = s.sys := rfl
@[simp] theorem setConveyor_answer (n : Nat) (v : Conveyor) : (setConveyor s n v).answer = s.answer := rfl

@[simp] theorem setHubMover_pending (n : Nat) (m : MoverState) : (setHubMover s n m).pending = s.pending := rfl
@[simp] theorem setHubMover_draws (n : Nat) (m : MoverState) : (setHubMover s n m).draws = s.draws := rfl
@[simp] theorem setHubMover_cores (n : Nat) (m : MoverState) : (setHubMover s n m).cores = s.cores := rfl
@[simp] theorem setHubMover_gallery (n : Nat) (m : MoverState) : (setHubMover s n m).gallery = s.gallery := rfl
@[simp] theorem setHubMover_dram (n : Nat) (m : MoverState) : (setHubMover s n m).dram = s.dram := rfl
@[simp] theorem setHubMover_tallies (n : Nat) (m : MoverState) : (setHubMover s n m).tallies = s.tallies := rfl
@[simp] theorem setHubMover_waits (n : Nat) (m : MoverState) : (setHubMover s n m).waits = s.waits := rfl
@[simp] theorem setHubMover_conveyors (n : Nat) (m : MoverState) : (setHubMover s n m).conveyors = s.conveyors := rfl
@[simp] theorem setHubMover_backoffs (n : Nat) (m : MoverState) : (setHubMover s n m).backoffs = s.backoffs := rfl
@[simp] theorem setHubMover_claims (n : Nat) (m : MoverState) : (setHubMover s n m).claims = s.claims := rfl
@[simp] theorem setHubMover_claimReq (n : Nat) (m : MoverState) : (setHubMover s n m).claimReq = s.claimReq := rfl
@[simp] theorem setHubMover_functions (n : Nat) (m : MoverState) : (setHubMover s n m).functions = s.functions := rfl
@[simp] theorem setHubMover_host (n : Nat) (m : MoverState) : (setHubMover s n m).host = s.host := rfl
@[simp] theorem setHubMover_group (n : Nat) (m : MoverState) : (setHubMover s n m).group = s.group := rfl
@[simp] theorem setHubMover_dies (n : Nat) (m : MoverState) : (setHubMover s n m).dies = s.dies := rfl
@[simp] theorem setHubMover_power (n : Nat) (m : MoverState) : (setHubMover s n m).power = s.power := rfl
@[simp] theorem setHubMover_therm (n : Nat) (m : MoverState) : (setHubMover s n m).therm = s.therm := rfl
@[simp] theorem setHubMover_ras (n : Nat) (m : MoverState) : (setHubMover s n m).ras = s.ras := rfl
@[simp] theorem setHubMover_now (n : Nat) (m : MoverState) : (setHubMover s n m).now = s.now := rfl
@[simp] theorem setHubMover_fabric (n : Nat) (m : MoverState) : (setHubMover s n m).fabric = s.fabric := rfl
@[simp] theorem setHubMover_haul (n : Nat) (m : MoverState) : (setHubMover s n m).haul = s.haul := rfl
@[simp] theorem setHubMover_coll (n : Nat) (m : MoverState) : (setHubMover s n m).coll = s.coll := rfl
@[simp] theorem setHubMover_sys (n : Nat) (m : MoverState) : (setHubMover s n m).sys = s.sys := rfl
@[simp] theorem setHubMover_answer (n : Nat) (m : MoverState) : (setHubMover s n m).answer = s.answer := rfl

@[simp] theorem setTurn_pending (n : Nat) (v : TurnCounter) : (setTurn s n v).pending = s.pending := rfl
@[simp] theorem setTurn_draws (n : Nat) (v : TurnCounter) : (setTurn s n v).draws = s.draws := rfl
@[simp] theorem setTurn_cores (n : Nat) (v : TurnCounter) : (setTurn s n v).cores = s.cores := rfl
@[simp] theorem setTurn_dram (n : Nat) (v : TurnCounter) : (setTurn s n v).dram = s.dram := rfl
@[simp] theorem setTurn_tallies (n : Nat) (v : TurnCounter) : (setTurn s n v).tallies = s.tallies := rfl
@[simp] theorem setTurn_waits (n : Nat) (v : TurnCounter) : (setTurn s n v).waits = s.waits := rfl
@[simp] theorem setTurn_conveyors (n : Nat) (v : TurnCounter) : (setTurn s n v).conveyors = s.conveyors := rfl
@[simp] theorem setTurn_backoffs (n : Nat) (v : TurnCounter) : (setTurn s n v).backoffs = s.backoffs := rfl
@[simp] theorem setTurn_claims (n : Nat) (v : TurnCounter) : (setTurn s n v).claims = s.claims := rfl
@[simp] theorem setTurn_claimReq (n : Nat) (v : TurnCounter) : (setTurn s n v).claimReq = s.claimReq := rfl
@[simp] theorem setTurn_functions (n : Nat) (v : TurnCounter) : (setTurn s n v).functions = s.functions := rfl
@[simp] theorem setTurn_host (n : Nat) (v : TurnCounter) : (setTurn s n v).host = s.host := rfl
@[simp] theorem setTurn_hubMovers (n : Nat) (v : TurnCounter) : (setTurn s n v).hubMovers = s.hubMovers := rfl
@[simp] theorem setTurn_group (n : Nat) (v : TurnCounter) : (setTurn s n v).group = s.group := rfl
@[simp] theorem setTurn_dies (n : Nat) (v : TurnCounter) : (setTurn s n v).dies = s.dies := rfl
@[simp] theorem setTurn_power (n : Nat) (v : TurnCounter) : (setTurn s n v).power = s.power := rfl
@[simp] theorem setTurn_therm (n : Nat) (v : TurnCounter) : (setTurn s n v).therm = s.therm := rfl
@[simp] theorem setTurn_ras (n : Nat) (v : TurnCounter) : (setTurn s n v).ras = s.ras := rfl
@[simp] theorem setTurn_now (n : Nat) (v : TurnCounter) : (setTurn s n v).now = s.now := rfl
@[simp] theorem setTurn_fabric (n : Nat) (v : TurnCounter) : (setTurn s n v).fabric = s.fabric := rfl
@[simp] theorem setTurn_haul (n : Nat) (v : TurnCounter) : (setTurn s n v).haul = s.haul := rfl
@[simp] theorem setTurn_coll (n : Nat) (v : TurnCounter) : (setTurn s n v).coll = s.coll := rfl
@[simp] theorem setTurn_sys (n : Nat) (v : TurnCounter) : (setTurn s n v).sys = s.sys := rfl
@[simp] theorem setTurn_answer (n : Nat) (v : TurnCounter) : (setTurn s n v).answer = s.answer := rfl

@[simp] theorem setStream_pending (n : Nat) (v : HaulStream) : (setStream s n v).pending = s.pending := rfl
@[simp] theorem setStream_draws (n : Nat) (v : HaulStream) : (setStream s n v).draws = s.draws := rfl
@[simp] theorem setStream_cores (n : Nat) (v : HaulStream) : (setStream s n v).cores = s.cores := rfl
@[simp] theorem setStream_gallery (n : Nat) (v : HaulStream) : (setStream s n v).gallery = s.gallery := rfl
@[simp] theorem setStream_dram (n : Nat) (v : HaulStream) : (setStream s n v).dram = s.dram := rfl
@[simp] theorem setStream_tallies (n : Nat) (v : HaulStream) : (setStream s n v).tallies = s.tallies := rfl
@[simp] theorem setStream_waits (n : Nat) (v : HaulStream) : (setStream s n v).waits = s.waits := rfl
@[simp] theorem setStream_conveyors (n : Nat) (v : HaulStream) : (setStream s n v).conveyors = s.conveyors := rfl
@[simp] theorem setStream_backoffs (n : Nat) (v : HaulStream) : (setStream s n v).backoffs = s.backoffs := rfl
@[simp] theorem setStream_claims (n : Nat) (v : HaulStream) : (setStream s n v).claims = s.claims := rfl
@[simp] theorem setStream_claimReq (n : Nat) (v : HaulStream) : (setStream s n v).claimReq = s.claimReq := rfl
@[simp] theorem setStream_functions (n : Nat) (v : HaulStream) : (setStream s n v).functions = s.functions := rfl
@[simp] theorem setStream_host (n : Nat) (v : HaulStream) : (setStream s n v).host = s.host := rfl
@[simp] theorem setStream_hubMovers (n : Nat) (v : HaulStream) : (setStream s n v).hubMovers = s.hubMovers := rfl
@[simp] theorem setStream_group (n : Nat) (v : HaulStream) : (setStream s n v).group = s.group := rfl
@[simp] theorem setStream_dies (n : Nat) (v : HaulStream) : (setStream s n v).dies = s.dies := rfl
@[simp] theorem setStream_power (n : Nat) (v : HaulStream) : (setStream s n v).power = s.power := rfl
@[simp] theorem setStream_therm (n : Nat) (v : HaulStream) : (setStream s n v).therm = s.therm := rfl
@[simp] theorem setStream_ras (n : Nat) (v : HaulStream) : (setStream s n v).ras = s.ras := rfl
@[simp] theorem setStream_now (n : Nat) (v : HaulStream) : (setStream s n v).now = s.now := rfl
@[simp] theorem setStream_fabric (n : Nat) (v : HaulStream) : (setStream s n v).fabric = s.fabric := rfl
@[simp] theorem setStream_coll (n : Nat) (v : HaulStream) : (setStream s n v).coll = s.coll := rfl
@[simp] theorem setStream_sys (n : Nat) (v : HaulStream) : (setStream s n v).sys = s.sys := rfl
@[simp] theorem setStream_answer (n : Nat) (v : HaulStream) : (setStream s n v).answer = s.answer := rfl

@[simp] theorem setQp_pending (n : Nat) (v : QueuePair) : (setQp s n v).pending = s.pending := rfl
@[simp] theorem setQp_draws (n : Nat) (v : QueuePair) : (setQp s n v).draws = s.draws := rfl
@[simp] theorem setQp_cores (n : Nat) (v : QueuePair) : (setQp s n v).cores = s.cores := rfl
@[simp] theorem setQp_gallery (n : Nat) (v : QueuePair) : (setQp s n v).gallery = s.gallery := rfl
@[simp] theorem setQp_dram (n : Nat) (v : QueuePair) : (setQp s n v).dram = s.dram := rfl
@[simp] theorem setQp_tallies (n : Nat) (v : QueuePair) : (setQp s n v).tallies = s.tallies := rfl
@[simp] theorem setQp_waits (n : Nat) (v : QueuePair) : (setQp s n v).waits = s.waits := rfl
@[simp] theorem setQp_conveyors (n : Nat) (v : QueuePair) : (setQp s n v).conveyors = s.conveyors := rfl
@[simp] theorem setQp_backoffs (n : Nat) (v : QueuePair) : (setQp s n v).backoffs = s.backoffs := rfl
@[simp] theorem setQp_claims (n : Nat) (v : QueuePair) : (setQp s n v).claims = s.claims := rfl
@[simp] theorem setQp_claimReq (n : Nat) (v : QueuePair) : (setQp s n v).claimReq = s.claimReq := rfl
@[simp] theorem setQp_functions (n : Nat) (v : QueuePair) : (setQp s n v).functions = s.functions := rfl
@[simp] theorem setQp_host (n : Nat) (v : QueuePair) : (setQp s n v).host = s.host := rfl
@[simp] theorem setQp_hubMovers (n : Nat) (v : QueuePair) : (setQp s n v).hubMovers = s.hubMovers := rfl
@[simp] theorem setQp_group (n : Nat) (v : QueuePair) : (setQp s n v).group = s.group := rfl
@[simp] theorem setQp_dies (n : Nat) (v : QueuePair) : (setQp s n v).dies = s.dies := rfl
@[simp] theorem setQp_power (n : Nat) (v : QueuePair) : (setQp s n v).power = s.power := rfl
@[simp] theorem setQp_therm (n : Nat) (v : QueuePair) : (setQp s n v).therm = s.therm := rfl
@[simp] theorem setQp_ras (n : Nat) (v : QueuePair) : (setQp s n v).ras = s.ras := rfl
@[simp] theorem setQp_now (n : Nat) (v : QueuePair) : (setQp s n v).now = s.now := rfl
@[simp] theorem setQp_fabric (n : Nat) (v : QueuePair) : (setQp s n v).fabric = s.fabric := rfl
@[simp] theorem setQp_coll (n : Nat) (v : QueuePair) : (setQp s n v).coll = s.coll := rfl
@[simp] theorem setQp_sys (n : Nat) (v : QueuePair) : (setQp s n v).sys = s.sys := rfl
@[simp] theorem setQp_answer (n : Nat) (v : QueuePair) : (setQp s n v).answer = s.answer := rfl

@[simp] theorem writeGal_pending (o : Nat) (b : List Byte) : (writeGal s o b).pending = s.pending := rfl
@[simp] theorem writeGal_draws (o : Nat) (b : List Byte) : (writeGal s o b).draws = s.draws := rfl
@[simp] theorem writeGal_cores (o : Nat) (b : List Byte) : (writeGal s o b).cores = s.cores := rfl
@[simp] theorem writeGal_dram (o : Nat) (b : List Byte) : (writeGal s o b).dram = s.dram := rfl
@[simp] theorem writeGal_tallies (o : Nat) (b : List Byte) : (writeGal s o b).tallies = s.tallies := rfl
@[simp] theorem writeGal_waits (o : Nat) (b : List Byte) : (writeGal s o b).waits = s.waits := rfl
@[simp] theorem writeGal_conveyors (o : Nat) (b : List Byte) : (writeGal s o b).conveyors = s.conveyors := rfl
@[simp] theorem writeGal_backoffs (o : Nat) (b : List Byte) : (writeGal s o b).backoffs = s.backoffs := rfl
@[simp] theorem writeGal_claims (o : Nat) (b : List Byte) : (writeGal s o b).claims = s.claims := rfl
@[simp] theorem writeGal_claimReq (o : Nat) (b : List Byte) : (writeGal s o b).claimReq = s.claimReq := rfl
@[simp] theorem writeGal_functions (o : Nat) (b : List Byte) : (writeGal s o b).functions = s.functions := rfl
@[simp] theorem writeGal_host (o : Nat) (b : List Byte) : (writeGal s o b).host = s.host := rfl
@[simp] theorem writeGal_hubMovers (o : Nat) (b : List Byte) : (writeGal s o b).hubMovers = s.hubMovers := rfl
@[simp] theorem writeGal_group (o : Nat) (b : List Byte) : (writeGal s o b).group = s.group := rfl
@[simp] theorem writeGal_dies (o : Nat) (b : List Byte) : (writeGal s o b).dies = s.dies := rfl
@[simp] theorem writeGal_power (o : Nat) (b : List Byte) : (writeGal s o b).power = s.power := rfl
@[simp] theorem writeGal_therm (o : Nat) (b : List Byte) : (writeGal s o b).therm = s.therm := rfl
@[simp] theorem writeGal_ras (o : Nat) (b : List Byte) : (writeGal s o b).ras = s.ras := rfl
@[simp] theorem writeGal_now (o : Nat) (b : List Byte) : (writeGal s o b).now = s.now := rfl
@[simp] theorem writeGal_fabric (o : Nat) (b : List Byte) : (writeGal s o b).fabric = s.fabric := rfl
@[simp] theorem writeGal_haul (o : Nat) (b : List Byte) : (writeGal s o b).haul = s.haul := rfl
@[simp] theorem writeGal_coll (o : Nat) (b : List Byte) : (writeGal s o b).coll = s.coll := rfl
@[simp] theorem writeGal_sys (o : Nat) (b : List Byte) : (writeGal s o b).sys = s.sys := rfl
@[simp] theorem writeGal_answer (o : Nat) (b : List Byte) : (writeGal s o b).answer = s.answer := rfl

@[simp] theorem zeroGal_pending (o n : Nat) : (zeroGal s o n).pending = s.pending := rfl
@[simp] theorem zeroGal_draws (o n : Nat) : (zeroGal s o n).draws = s.draws := rfl
@[simp] theorem zeroGal_cores (o n : Nat) : (zeroGal s o n).cores = s.cores := rfl
@[simp] theorem zeroGal_dram (o n : Nat) : (zeroGal s o n).dram = s.dram := rfl
@[simp] theorem zeroGal_tallies (o n : Nat) : (zeroGal s o n).tallies = s.tallies := rfl
@[simp] theorem zeroGal_waits (o n : Nat) : (zeroGal s o n).waits = s.waits := rfl
@[simp] theorem zeroGal_conveyors (o n : Nat) : (zeroGal s o n).conveyors = s.conveyors := rfl
@[simp] theorem zeroGal_backoffs (o n : Nat) : (zeroGal s o n).backoffs = s.backoffs := rfl
@[simp] theorem zeroGal_claims (o n : Nat) : (zeroGal s o n).claims = s.claims := rfl
@[simp] theorem zeroGal_claimReq (o n : Nat) : (zeroGal s o n).claimReq = s.claimReq := rfl
@[simp] theorem zeroGal_functions (o n : Nat) : (zeroGal s o n).functions = s.functions := rfl
@[simp] theorem zeroGal_host (o n : Nat) : (zeroGal s o n).host = s.host := rfl
@[simp] theorem zeroGal_hubMovers (o n : Nat) : (zeroGal s o n).hubMovers = s.hubMovers := rfl
@[simp] theorem zeroGal_group (o n : Nat) : (zeroGal s o n).group = s.group := rfl
@[simp] theorem zeroGal_dies (o n : Nat) : (zeroGal s o n).dies = s.dies := rfl
@[simp] theorem zeroGal_power (o n : Nat) : (zeroGal s o n).power = s.power := rfl
@[simp] theorem zeroGal_therm (o n : Nat) : (zeroGal s o n).therm = s.therm := rfl
@[simp] theorem zeroGal_ras (o n : Nat) : (zeroGal s o n).ras = s.ras := rfl
@[simp] theorem zeroGal_now (o n : Nat) : (zeroGal s o n).now = s.now := rfl
@[simp] theorem zeroGal_fabric (o n : Nat) : (zeroGal s o n).fabric = s.fabric := rfl
@[simp] theorem zeroGal_haul (o n : Nat) : (zeroGal s o n).haul = s.haul := rfl
@[simp] theorem zeroGal_coll (o n : Nat) : (zeroGal s o n).coll = s.coll := rfl
@[simp] theorem zeroGal_sys (o n : Nat) : (zeroGal s o n).sys = s.sys := rfl
@[simp] theorem zeroGal_answer (o n : Nat) : (zeroGal s o n).answer = s.answer := rfl

@[simp] theorem writeDram_pending (o : Nat) (b : List Byte) : (writeDram s o b).pending = s.pending := rfl
@[simp] theorem writeDram_draws (o : Nat) (b : List Byte) : (writeDram s o b).draws = s.draws := rfl
@[simp] theorem writeDram_cores (o : Nat) (b : List Byte) : (writeDram s o b).cores = s.cores := rfl
@[simp] theorem writeDram_gallery (o : Nat) (b : List Byte) : (writeDram s o b).gallery = s.gallery := rfl
@[simp] theorem writeDram_tallies (o : Nat) (b : List Byte) : (writeDram s o b).tallies = s.tallies := rfl
@[simp] theorem writeDram_waits (o : Nat) (b : List Byte) : (writeDram s o b).waits = s.waits := rfl
@[simp] theorem writeDram_conveyors (o : Nat) (b : List Byte) : (writeDram s o b).conveyors = s.conveyors := rfl
@[simp] theorem writeDram_backoffs (o : Nat) (b : List Byte) : (writeDram s o b).backoffs = s.backoffs := rfl
@[simp] theorem writeDram_claims (o : Nat) (b : List Byte) : (writeDram s o b).claims = s.claims := rfl
@[simp] theorem writeDram_claimReq (o : Nat) (b : List Byte) : (writeDram s o b).claimReq = s.claimReq := rfl
@[simp] theorem writeDram_functions (o : Nat) (b : List Byte) : (writeDram s o b).functions = s.functions := rfl
@[simp] theorem writeDram_host (o : Nat) (b : List Byte) : (writeDram s o b).host = s.host := rfl
@[simp] theorem writeDram_hubMovers (o : Nat) (b : List Byte) : (writeDram s o b).hubMovers = s.hubMovers := rfl
@[simp] theorem writeDram_group (o : Nat) (b : List Byte) : (writeDram s o b).group = s.group := rfl
@[simp] theorem writeDram_dies (o : Nat) (b : List Byte) : (writeDram s o b).dies = s.dies := rfl
@[simp] theorem writeDram_power (o : Nat) (b : List Byte) : (writeDram s o b).power = s.power := rfl
@[simp] theorem writeDram_therm (o : Nat) (b : List Byte) : (writeDram s o b).therm = s.therm := rfl
@[simp] theorem writeDram_ras (o : Nat) (b : List Byte) : (writeDram s o b).ras = s.ras := rfl
@[simp] theorem writeDram_now (o : Nat) (b : List Byte) : (writeDram s o b).now = s.now := rfl
@[simp] theorem writeDram_fabric (o : Nat) (b : List Byte) : (writeDram s o b).fabric = s.fabric := rfl
@[simp] theorem writeDram_haul (o : Nat) (b : List Byte) : (writeDram s o b).haul = s.haul := rfl
@[simp] theorem writeDram_coll (o : Nat) (b : List Byte) : (writeDram s o b).coll = s.coll := rfl
@[simp] theorem writeDram_sys (o : Nat) (b : List Byte) : (writeDram s o b).sys = s.sys := rfl
@[simp] theorem writeDram_answer (o : Nat) (b : List Byte) : (writeDram s o b).answer = s.answer := rfl

@[simp] theorem zeroDram_pending (o n : Nat) : (zeroDram s o n).pending = s.pending := rfl
@[simp] theorem zeroDram_draws (o n : Nat) : (zeroDram s o n).draws = s.draws := rfl
@[simp] theorem zeroDram_cores (o n : Nat) : (zeroDram s o n).cores = s.cores := rfl
@[simp] theorem zeroDram_gallery (o n : Nat) : (zeroDram s o n).gallery = s.gallery := rfl
@[simp] theorem zeroDram_tallies (o n : Nat) : (zeroDram s o n).tallies = s.tallies := rfl
@[simp] theorem zeroDram_waits (o n : Nat) : (zeroDram s o n).waits = s.waits := rfl
@[simp] theorem zeroDram_conveyors (o n : Nat) : (zeroDram s o n).conveyors = s.conveyors := rfl
@[simp] theorem zeroDram_backoffs (o n : Nat) : (zeroDram s o n).backoffs = s.backoffs := rfl
@[simp] theorem zeroDram_claims (o n : Nat) : (zeroDram s o n).claims = s.claims := rfl
@[simp] theorem zeroDram_claimReq (o n : Nat) : (zeroDram s o n).claimReq = s.claimReq := rfl
@[simp] theorem zeroDram_functions (o n : Nat) : (zeroDram s o n).functions = s.functions := rfl
@[simp] theorem zeroDram_host (o n : Nat) : (zeroDram s o n).host = s.host := rfl
@[simp] theorem zeroDram_hubMovers (o n : Nat) : (zeroDram s o n).hubMovers = s.hubMovers := rfl
@[simp] theorem zeroDram_group (o n : Nat) : (zeroDram s o n).group = s.group := rfl
@[simp] theorem zeroDram_dies (o n : Nat) : (zeroDram s o n).dies = s.dies := rfl
@[simp] theorem zeroDram_power (o n : Nat) : (zeroDram s o n).power = s.power := rfl
@[simp] theorem zeroDram_therm (o n : Nat) : (zeroDram s o n).therm = s.therm := rfl
@[simp] theorem zeroDram_ras (o n : Nat) : (zeroDram s o n).ras = s.ras := rfl
@[simp] theorem zeroDram_now (o n : Nat) : (zeroDram s o n).now = s.now := rfl
@[simp] theorem zeroDram_fabric (o n : Nat) : (zeroDram s o n).fabric = s.fabric := rfl
@[simp] theorem zeroDram_haul (o n : Nat) : (zeroDram s o n).haul = s.haul := rfl
@[simp] theorem zeroDram_coll (o n : Nat) : (zeroDram s o n).coll = s.coll := rfl
@[simp] theorem zeroDram_sys (o n : Nat) : (zeroDram s o n).sys = s.sys := rfl
@[simp] theorem zeroDram_answer (o n : Nat) : (zeroDram s o n).answer = s.answer := rfl

@[simp] theorem writeHost_pending (f o : Nat) (b : List Byte) : (writeHost s f o b).pending = s.pending := rfl
@[simp] theorem writeHost_draws (f o : Nat) (b : List Byte) : (writeHost s f o b).draws = s.draws := rfl
@[simp] theorem writeHost_cores (f o : Nat) (b : List Byte) : (writeHost s f o b).cores = s.cores := rfl
@[simp] theorem writeHost_gallery (f o : Nat) (b : List Byte) : (writeHost s f o b).gallery = s.gallery := rfl
@[simp] theorem writeHost_dram (f o : Nat) (b : List Byte) : (writeHost s f o b).dram = s.dram := rfl
@[simp] theorem writeHost_tallies (f o : Nat) (b : List Byte) : (writeHost s f o b).tallies = s.tallies := rfl
@[simp] theorem writeHost_waits (f o : Nat) (b : List Byte) : (writeHost s f o b).waits = s.waits := rfl
@[simp] theorem writeHost_conveyors (f o : Nat) (b : List Byte) : (writeHost s f o b).conveyors = s.conveyors := rfl
@[simp] theorem writeHost_backoffs (f o : Nat) (b : List Byte) : (writeHost s f o b).backoffs = s.backoffs := rfl
@[simp] theorem writeHost_claims (f o : Nat) (b : List Byte) : (writeHost s f o b).claims = s.claims := rfl
@[simp] theorem writeHost_claimReq (f o : Nat) (b : List Byte) : (writeHost s f o b).claimReq = s.claimReq := rfl
@[simp] theorem writeHost_functions (f o : Nat) (b : List Byte) : (writeHost s f o b).functions = s.functions := rfl
@[simp] theorem writeHost_hubMovers (f o : Nat) (b : List Byte) : (writeHost s f o b).hubMovers = s.hubMovers := rfl
@[simp] theorem writeHost_group (f o : Nat) (b : List Byte) : (writeHost s f o b).group = s.group := rfl
@[simp] theorem writeHost_dies (f o : Nat) (b : List Byte) : (writeHost s f o b).dies = s.dies := rfl
@[simp] theorem writeHost_power (f o : Nat) (b : List Byte) : (writeHost s f o b).power = s.power := rfl
@[simp] theorem writeHost_therm (f o : Nat) (b : List Byte) : (writeHost s f o b).therm = s.therm := rfl
@[simp] theorem writeHost_ras (f o : Nat) (b : List Byte) : (writeHost s f o b).ras = s.ras := rfl
@[simp] theorem writeHost_now (f o : Nat) (b : List Byte) : (writeHost s f o b).now = s.now := rfl
@[simp] theorem writeHost_fabric (f o : Nat) (b : List Byte) : (writeHost s f o b).fabric = s.fabric := rfl
@[simp] theorem writeHost_haul (f o : Nat) (b : List Byte) : (writeHost s f o b).haul = s.haul := rfl
@[simp] theorem writeHost_coll (f o : Nat) (b : List Byte) : (writeHost s f o b).coll = s.coll := rfl
@[simp] theorem writeHost_sys (f o : Nat) (b : List Byte) : (writeHost s f o b).sys = s.sys := rfl
@[simp] theorem writeHost_answer (f o : Nat) (b : List Byte) : (writeHost s f o b).answer = s.answer := rfl

@[simp] theorem signal_pending (k v : Nat) : (signal s k v).pending = s.pending := rfl
@[simp] theorem signal_draws (k v : Nat) : (signal s k v).draws = s.draws := rfl
@[simp] theorem signal_cores (k v : Nat) : (signal s k v).cores = s.cores := rfl
@[simp] theorem signal_gallery (k v : Nat) : (signal s k v).gallery = s.gallery := rfl
@[simp] theorem signal_dram (k v : Nat) : (signal s k v).dram = s.dram := rfl
@[simp] theorem signal_tallies (k v : Nat) : (signal s k v).tallies = s.tallies := rfl
@[simp] theorem signal_waits (k v : Nat) : (signal s k v).waits = s.waits := rfl
@[simp] theorem signal_conveyors (k v : Nat) : (signal s k v).conveyors = s.conveyors := rfl
@[simp] theorem signal_backoffs (k v : Nat) : (signal s k v).backoffs = s.backoffs := rfl
@[simp] theorem signal_claims (k v : Nat) : (signal s k v).claims = s.claims := rfl
@[simp] theorem signal_claimReq (k v : Nat) : (signal s k v).claimReq = s.claimReq := rfl
@[simp] theorem signal_functions (k v : Nat) : (signal s k v).functions = s.functions := rfl
@[simp] theorem signal_hubMovers (k v : Nat) : (signal s k v).hubMovers = s.hubMovers := rfl
@[simp] theorem signal_group (k v : Nat) : (signal s k v).group = s.group := rfl
@[simp] theorem signal_dies (k v : Nat) : (signal s k v).dies = s.dies := rfl
@[simp] theorem signal_power (k v : Nat) : (signal s k v).power = s.power := rfl
@[simp] theorem signal_therm (k v : Nat) : (signal s k v).therm = s.therm := rfl
@[simp] theorem signal_ras (k v : Nat) : (signal s k v).ras = s.ras := rfl
@[simp] theorem signal_now (k v : Nat) : (signal s k v).now = s.now := rfl
@[simp] theorem signal_fabric (k v : Nat) : (signal s k v).fabric = s.fabric := rfl
@[simp] theorem signal_haul (k v : Nat) : (signal s k v).haul = s.haul := rfl
@[simp] theorem signal_coll (k v : Nat) : (signal s k v).coll = s.coll := rfl
@[simp] theorem signal_sys (k v : Nat) : (signal s k v).sys = s.sys := rfl
@[simp] theorem signal_answer (k v : Nat) : (signal s k v).answer = s.answer := rfl

@[simp] theorem backOff_pending (r : Refused) (n : Nat) : (backOff s r n).pending = s.pending := rfl
@[simp] theorem backOff_draws (r : Refused) (n : Nat) : (backOff s r n).draws = s.draws := rfl
@[simp] theorem backOff_cores (r : Refused) (n : Nat) : (backOff s r n).cores = s.cores := rfl
@[simp] theorem backOff_gallery (r : Refused) (n : Nat) : (backOff s r n).gallery = s.gallery := rfl
@[simp] theorem backOff_dram (r : Refused) (n : Nat) : (backOff s r n).dram = s.dram := rfl
@[simp] theorem backOff_tallies (r : Refused) (n : Nat) : (backOff s r n).tallies = s.tallies := rfl
@[simp] theorem backOff_waits (r : Refused) (n : Nat) : (backOff s r n).waits = s.waits := rfl
@[simp] theorem backOff_conveyors (r : Refused) (n : Nat) : (backOff s r n).conveyors = s.conveyors := rfl
@[simp] theorem backOff_claims (r : Refused) (n : Nat) : (backOff s r n).claims = s.claims := rfl
@[simp] theorem backOff_claimReq (r : Refused) (n : Nat) : (backOff s r n).claimReq = s.claimReq := rfl
@[simp] theorem backOff_functions (r : Refused) (n : Nat) : (backOff s r n).functions = s.functions := rfl
@[simp] theorem backOff_host (r : Refused) (n : Nat) : (backOff s r n).host = s.host := rfl
@[simp] theorem backOff_hubMovers (r : Refused) (n : Nat) : (backOff s r n).hubMovers = s.hubMovers := rfl
@[simp] theorem backOff_group (r : Refused) (n : Nat) : (backOff s r n).group = s.group := rfl
@[simp] theorem backOff_dies (r : Refused) (n : Nat) : (backOff s r n).dies = s.dies := rfl
@[simp] theorem backOff_power (r : Refused) (n : Nat) : (backOff s r n).power = s.power := rfl
@[simp] theorem backOff_therm (r : Refused) (n : Nat) : (backOff s r n).therm = s.therm := rfl
@[simp] theorem backOff_ras (r : Refused) (n : Nat) : (backOff s r n).ras = s.ras := rfl
@[simp] theorem backOff_now (r : Refused) (n : Nat) : (backOff s r n).now = s.now := rfl
@[simp] theorem backOff_fabric (r : Refused) (n : Nat) : (backOff s r n).fabric = s.fabric := rfl
@[simp] theorem backOff_haul (r : Refused) (n : Nat) : (backOff s r n).haul = s.haul := rfl
@[simp] theorem backOff_coll (r : Refused) (n : Nat) : (backOff s r n).coll = s.coll := rfl
@[simp] theorem backOff_sys (r : Refused) (n : Nat) : (backOff s r n).sys = s.sys := rfl
@[simp] theorem backOff_answer (r : Refused) (n : Nat) : (backOff s r n).answer = s.answer := rfl

@[simp] theorem setLink_pending (l : Nat) (v : LinkState) : (setLink s l v).pending = s.pending := rfl
@[simp] theorem setLink_draws (l : Nat) (v : LinkState) : (setLink s l v).draws = s.draws := rfl
@[simp] theorem setLink_cores (l : Nat) (v : LinkState) : (setLink s l v).cores = s.cores := rfl
@[simp] theorem setLink_gallery (l : Nat) (v : LinkState) : (setLink s l v).gallery = s.gallery := rfl
@[simp] theorem setLink_dram (l : Nat) (v : LinkState) : (setLink s l v).dram = s.dram := rfl
@[simp] theorem setLink_tallies (l : Nat) (v : LinkState) : (setLink s l v).tallies = s.tallies := rfl
@[simp] theorem setLink_waits (l : Nat) (v : LinkState) : (setLink s l v).waits = s.waits := rfl
@[simp] theorem setLink_conveyors (l : Nat) (v : LinkState) : (setLink s l v).conveyors = s.conveyors := rfl
@[simp] theorem setLink_backoffs (l : Nat) (v : LinkState) : (setLink s l v).backoffs = s.backoffs := rfl
@[simp] theorem setLink_claims (l : Nat) (v : LinkState) : (setLink s l v).claims = s.claims := rfl
@[simp] theorem setLink_claimReq (l : Nat) (v : LinkState) : (setLink s l v).claimReq = s.claimReq := rfl
@[simp] theorem setLink_functions (l : Nat) (v : LinkState) : (setLink s l v).functions = s.functions := rfl
@[simp] theorem setLink_host (l : Nat) (v : LinkState) : (setLink s l v).host = s.host := rfl
@[simp] theorem setLink_hubMovers (l : Nat) (v : LinkState) : (setLink s l v).hubMovers = s.hubMovers := rfl
@[simp] theorem setLink_group (l : Nat) (v : LinkState) : (setLink s l v).group = s.group := rfl
@[simp] theorem setLink_dies (l : Nat) (v : LinkState) : (setLink s l v).dies = s.dies := rfl
@[simp] theorem setLink_power (l : Nat) (v : LinkState) : (setLink s l v).power = s.power := rfl
@[simp] theorem setLink_therm (l : Nat) (v : LinkState) : (setLink s l v).therm = s.therm := rfl
@[simp] theorem setLink_ras (l : Nat) (v : LinkState) : (setLink s l v).ras = s.ras := rfl
@[simp] theorem setLink_now (l : Nat) (v : LinkState) : (setLink s l v).now = s.now := rfl
@[simp] theorem setLink_haul (l : Nat) (v : LinkState) : (setLink s l v).haul = s.haul := rfl
@[simp] theorem setLink_coll (l : Nat) (v : LinkState) : (setLink s l v).coll = s.coll := rfl
@[simp] theorem setLink_sys (l : Nat) (v : LinkState) : (setLink s l v).sys = s.sys := rfl
@[simp] theorem setLink_answer (l : Nat) (v : LinkState) : (setLink s l v).answer = s.answer := rfl

@[simp] theorem setWindow_pending (w : Nat) (v : Window) : (setWindow s w v).pending = s.pending := rfl
@[simp] theorem setWindow_draws (w : Nat) (v : Window) : (setWindow s w v).draws = s.draws := rfl
@[simp] theorem setWindow_cores (w : Nat) (v : Window) : (setWindow s w v).cores = s.cores := rfl
@[simp] theorem setWindow_gallery (w : Nat) (v : Window) : (setWindow s w v).gallery = s.gallery := rfl
@[simp] theorem setWindow_dram (w : Nat) (v : Window) : (setWindow s w v).dram = s.dram := rfl
@[simp] theorem setWindow_tallies (w : Nat) (v : Window) : (setWindow s w v).tallies = s.tallies := rfl
@[simp] theorem setWindow_waits (w : Nat) (v : Window) : (setWindow s w v).waits = s.waits := rfl
@[simp] theorem setWindow_conveyors (w : Nat) (v : Window) : (setWindow s w v).conveyors = s.conveyors := rfl
@[simp] theorem setWindow_backoffs (w : Nat) (v : Window) : (setWindow s w v).backoffs = s.backoffs := rfl
@[simp] theorem setWindow_claims (w : Nat) (v : Window) : (setWindow s w v).claims = s.claims := rfl
@[simp] theorem setWindow_claimReq (w : Nat) (v : Window) : (setWindow s w v).claimReq = s.claimReq := rfl
@[simp] theorem setWindow_functions (w : Nat) (v : Window) : (setWindow s w v).functions = s.functions := rfl
@[simp] theorem setWindow_host (w : Nat) (v : Window) : (setWindow s w v).host = s.host := rfl
@[simp] theorem setWindow_hubMovers (w : Nat) (v : Window) : (setWindow s w v).hubMovers = s.hubMovers := rfl
@[simp] theorem setWindow_group (w : Nat) (v : Window) : (setWindow s w v).group = s.group := rfl
@[simp] theorem setWindow_dies (w : Nat) (v : Window) : (setWindow s w v).dies = s.dies := rfl
@[simp] theorem setWindow_power (w : Nat) (v : Window) : (setWindow s w v).power = s.power := rfl
@[simp] theorem setWindow_therm (w : Nat) (v : Window) : (setWindow s w v).therm = s.therm := rfl
@[simp] theorem setWindow_ras (w : Nat) (v : Window) : (setWindow s w v).ras = s.ras := rfl
@[simp] theorem setWindow_now (w : Nat) (v : Window) : (setWindow s w v).now = s.now := rfl
@[simp] theorem setWindow_haul (w : Nat) (v : Window) : (setWindow s w v).haul = s.haul := rfl
@[simp] theorem setWindow_coll (w : Nat) (v : Window) : (setWindow s w v).coll = s.coll := rfl
@[simp] theorem setWindow_sys (w : Nat) (v : Window) : (setWindow s w v).sys = s.sys := rfl
@[simp] theorem setWindow_answer (w : Nat) (v : Window) : (setWindow s w v).answer = s.answer := rfl

@[simp] theorem setTable_pending (t : Nat) (v : SlotTable) : (setTable s t v).pending = s.pending := rfl
@[simp] theorem setTable_draws (t : Nat) (v : SlotTable) : (setTable s t v).draws = s.draws := rfl
@[simp] theorem setTable_cores (t : Nat) (v : SlotTable) : (setTable s t v).cores = s.cores := rfl
@[simp] theorem setTable_gallery (t : Nat) (v : SlotTable) : (setTable s t v).gallery = s.gallery := rfl
@[simp] theorem setTable_dram (t : Nat) (v : SlotTable) : (setTable s t v).dram = s.dram := rfl
@[simp] theorem setTable_tallies (t : Nat) (v : SlotTable) : (setTable s t v).tallies = s.tallies := rfl
@[simp] theorem setTable_waits (t : Nat) (v : SlotTable) : (setTable s t v).waits = s.waits := rfl
@[simp] theorem setTable_conveyors (t : Nat) (v : SlotTable) : (setTable s t v).conveyors = s.conveyors := rfl
@[simp] theorem setTable_backoffs (t : Nat) (v : SlotTable) : (setTable s t v).backoffs = s.backoffs := rfl
@[simp] theorem setTable_claims (t : Nat) (v : SlotTable) : (setTable s t v).claims = s.claims := rfl
@[simp] theorem setTable_claimReq (t : Nat) (v : SlotTable) : (setTable s t v).claimReq = s.claimReq := rfl
@[simp] theorem setTable_functions (t : Nat) (v : SlotTable) : (setTable s t v).functions = s.functions := rfl
@[simp] theorem setTable_host (t : Nat) (v : SlotTable) : (setTable s t v).host = s.host := rfl
@[simp] theorem setTable_hubMovers (t : Nat) (v : SlotTable) : (setTable s t v).hubMovers = s.hubMovers := rfl
@[simp] theorem setTable_group (t : Nat) (v : SlotTable) : (setTable s t v).group = s.group := rfl
@[simp] theorem setTable_dies (t : Nat) (v : SlotTable) : (setTable s t v).dies = s.dies := rfl
@[simp] theorem setTable_power (t : Nat) (v : SlotTable) : (setTable s t v).power = s.power := rfl
@[simp] theorem setTable_therm (t : Nat) (v : SlotTable) : (setTable s t v).therm = s.therm := rfl
@[simp] theorem setTable_ras (t : Nat) (v : SlotTable) : (setTable s t v).ras = s.ras := rfl
@[simp] theorem setTable_now (t : Nat) (v : SlotTable) : (setTable s t v).now = s.now := rfl
@[simp] theorem setTable_haul (t : Nat) (v : SlotTable) : (setTable s t v).haul = s.haul := rfl
@[simp] theorem setTable_coll (t : Nat) (v : SlotTable) : (setTable s t v).coll = s.coll := rfl
@[simp] theorem setTable_sys (t : Nat) (v : SlotTable) : (setTable s t v).sys = s.sys := rfl
@[simp] theorem setTable_answer (t : Nat) (v : SlotTable) : (setTable s t v).answer = s.answer := rfl

@[simp] theorem setSlice_pending (n : Nat) (v : SlicePort) : (setSlice s n v).pending = s.pending := rfl
@[simp] theorem setSlice_draws (n : Nat) (v : SlicePort) : (setSlice s n v).draws = s.draws := rfl
@[simp] theorem setSlice_cores (n : Nat) (v : SlicePort) : (setSlice s n v).cores = s.cores := rfl
@[simp] theorem setSlice_gallery (n : Nat) (v : SlicePort) : (setSlice s n v).gallery = s.gallery := rfl
@[simp] theorem setSlice_dram (n : Nat) (v : SlicePort) : (setSlice s n v).dram = s.dram := rfl
@[simp] theorem setSlice_tallies (n : Nat) (v : SlicePort) : (setSlice s n v).tallies = s.tallies := rfl
@[simp] theorem setSlice_waits (n : Nat) (v : SlicePort) : (setSlice s n v).waits = s.waits := rfl
@[simp] theorem setSlice_conveyors (n : Nat) (v : SlicePort) : (setSlice s n v).conveyors = s.conveyors := rfl
@[simp] theorem setSlice_backoffs (n : Nat) (v : SlicePort) : (setSlice s n v).backoffs = s.backoffs := rfl
@[simp] theorem setSlice_claims (n : Nat) (v : SlicePort) : (setSlice s n v).claims = s.claims := rfl
@[simp] theorem setSlice_claimReq (n : Nat) (v : SlicePort) : (setSlice s n v).claimReq = s.claimReq := rfl
@[simp] theorem setSlice_functions (n : Nat) (v : SlicePort) : (setSlice s n v).functions = s.functions := rfl
@[simp] theorem setSlice_host (n : Nat) (v : SlicePort) : (setSlice s n v).host = s.host := rfl
@[simp] theorem setSlice_hubMovers (n : Nat) (v : SlicePort) : (setSlice s n v).hubMovers = s.hubMovers := rfl
@[simp] theorem setSlice_group (n : Nat) (v : SlicePort) : (setSlice s n v).group = s.group := rfl
@[simp] theorem setSlice_dies (n : Nat) (v : SlicePort) : (setSlice s n v).dies = s.dies := rfl
@[simp] theorem setSlice_power (n : Nat) (v : SlicePort) : (setSlice s n v).power = s.power := rfl
@[simp] theorem setSlice_therm (n : Nat) (v : SlicePort) : (setSlice s n v).therm = s.therm := rfl
@[simp] theorem setSlice_ras (n : Nat) (v : SlicePort) : (setSlice s n v).ras = s.ras := rfl
@[simp] theorem setSlice_now (n : Nat) (v : SlicePort) : (setSlice s n v).now = s.now := rfl
@[simp] theorem setSlice_haul (n : Nat) (v : SlicePort) : (setSlice s n v).haul = s.haul := rfl
@[simp] theorem setSlice_coll (n : Nat) (v : SlicePort) : (setSlice s n v).coll = s.coll := rfl
@[simp] theorem setSlice_sys (n : Nat) (v : SlicePort) : (setSlice s n v).sys = s.sys := rfl
@[simp] theorem setSlice_answer (n : Nat) (v : SlicePort) : (setSlice s n v).answer = s.answer := rfl

@[simp] theorem setSump_pending (i : Nat) (v : SumpSlot) : (setSump s i v).pending = s.pending := rfl
@[simp] theorem setSump_draws (i : Nat) (v : SumpSlot) : (setSump s i v).draws = s.draws := rfl
@[simp] theorem setSump_cores (i : Nat) (v : SumpSlot) : (setSump s i v).cores = s.cores := rfl
@[simp] theorem setSump_gallery (i : Nat) (v : SumpSlot) : (setSump s i v).gallery = s.gallery := rfl
@[simp] theorem setSump_dram (i : Nat) (v : SumpSlot) : (setSump s i v).dram = s.dram := rfl
@[simp] theorem setSump_tallies (i : Nat) (v : SumpSlot) : (setSump s i v).tallies = s.tallies := rfl
@[simp] theorem setSump_waits (i : Nat) (v : SumpSlot) : (setSump s i v).waits = s.waits := rfl
@[simp] theorem setSump_conveyors (i : Nat) (v : SumpSlot) : (setSump s i v).conveyors = s.conveyors := rfl
@[simp] theorem setSump_backoffs (i : Nat) (v : SumpSlot) : (setSump s i v).backoffs = s.backoffs := rfl
@[simp] theorem setSump_claims (i : Nat) (v : SumpSlot) : (setSump s i v).claims = s.claims := rfl
@[simp] theorem setSump_claimReq (i : Nat) (v : SumpSlot) : (setSump s i v).claimReq = s.claimReq := rfl
@[simp] theorem setSump_functions (i : Nat) (v : SumpSlot) : (setSump s i v).functions = s.functions := rfl
@[simp] theorem setSump_host (i : Nat) (v : SumpSlot) : (setSump s i v).host = s.host := rfl
@[simp] theorem setSump_hubMovers (i : Nat) (v : SumpSlot) : (setSump s i v).hubMovers = s.hubMovers := rfl
@[simp] theorem setSump_group (i : Nat) (v : SumpSlot) : (setSump s i v).group = s.group := rfl
@[simp] theorem setSump_dies (i : Nat) (v : SumpSlot) : (setSump s i v).dies = s.dies := rfl
@[simp] theorem setSump_power (i : Nat) (v : SumpSlot) : (setSump s i v).power = s.power := rfl
@[simp] theorem setSump_therm (i : Nat) (v : SumpSlot) : (setSump s i v).therm = s.therm := rfl
@[simp] theorem setSump_ras (i : Nat) (v : SumpSlot) : (setSump s i v).ras = s.ras := rfl
@[simp] theorem setSump_now (i : Nat) (v : SumpSlot) : (setSump s i v).now = s.now := rfl
@[simp] theorem setSump_haul (i : Nat) (v : SumpSlot) : (setSump s i v).haul = s.haul := rfl
@[simp] theorem setSump_coll (i : Nat) (v : SumpSlot) : (setSump s i v).coll = s.coll := rfl
@[simp] theorem setSump_sys (i : Nat) (v : SumpSlot) : (setSump s i v).sys = s.sys := rfl
@[simp] theorem setSump_answer (i : Nat) (v : SumpSlot) : (setSump s i v).answer = s.answer := rfl

@[simp] theorem modStream_pending (n : Nat) (f : HaulStream → HaulStream) : (modStream s n f).pending = s.pending := rfl
@[simp] theorem modStream_draws (n : Nat) (f : HaulStream → HaulStream) : (modStream s n f).draws = s.draws := rfl
@[simp] theorem modStream_cores (n : Nat) (f : HaulStream → HaulStream) : (modStream s n f).cores = s.cores := rfl
@[simp] theorem modStream_gallery (n : Nat) (f : HaulStream → HaulStream) : (modStream s n f).gallery = s.gallery := rfl
@[simp] theorem modStream_dram (n : Nat) (f : HaulStream → HaulStream) : (modStream s n f).dram = s.dram := rfl
@[simp] theorem modStream_tallies (n : Nat) (f : HaulStream → HaulStream) : (modStream s n f).tallies = s.tallies := rfl
@[simp] theorem modStream_waits (n : Nat) (f : HaulStream → HaulStream) : (modStream s n f).waits = s.waits := rfl
@[simp] theorem modStream_conveyors (n : Nat) (f : HaulStream → HaulStream) : (modStream s n f).conveyors = s.conveyors := rfl
@[simp] theorem modStream_backoffs (n : Nat) (f : HaulStream → HaulStream) : (modStream s n f).backoffs = s.backoffs := rfl
@[simp] theorem modStream_claims (n : Nat) (f : HaulStream → HaulStream) : (modStream s n f).claims = s.claims := rfl
@[simp] theorem modStream_claimReq (n : Nat) (f : HaulStream → HaulStream) : (modStream s n f).claimReq = s.claimReq := rfl
@[simp] theorem modStream_functions (n : Nat) (f : HaulStream → HaulStream) : (modStream s n f).functions = s.functions := rfl
@[simp] theorem modStream_host (n : Nat) (f : HaulStream → HaulStream) : (modStream s n f).host = s.host := rfl
@[simp] theorem modStream_hubMovers (n : Nat) (f : HaulStream → HaulStream) : (modStream s n f).hubMovers = s.hubMovers := rfl
@[simp] theorem modStream_group (n : Nat) (f : HaulStream → HaulStream) : (modStream s n f).group = s.group := rfl
@[simp] theorem modStream_dies (n : Nat) (f : HaulStream → HaulStream) : (modStream s n f).dies = s.dies := rfl
@[simp] theorem modStream_power (n : Nat) (f : HaulStream → HaulStream) : (modStream s n f).power = s.power := rfl
@[simp] theorem modStream_therm (n : Nat) (f : HaulStream → HaulStream) : (modStream s n f).therm = s.therm := rfl
@[simp] theorem modStream_ras (n : Nat) (f : HaulStream → HaulStream) : (modStream s n f).ras = s.ras := rfl
@[simp] theorem modStream_now (n : Nat) (f : HaulStream → HaulStream) : (modStream s n f).now = s.now := rfl
@[simp] theorem modStream_fabric (n : Nat) (f : HaulStream → HaulStream) : (modStream s n f).fabric = s.fabric := rfl
@[simp] theorem modStream_coll (n : Nat) (f : HaulStream → HaulStream) : (modStream s n f).coll = s.coll := rfl
@[simp] theorem modStream_sys (n : Nat) (f : HaulStream → HaulStream) : (modStream s n f).sys = s.sys := rfl
@[simp] theorem modStream_answer (n : Nat) (f : HaulStream → HaulStream) : (modStream s n f).answer = s.answer := rfl

@[simp] theorem modPort_pending (e : Nat) (f : EthPort → EthPort) : (modPort s e f).pending = s.pending := rfl
@[simp] theorem modPort_draws (e : Nat) (f : EthPort → EthPort) : (modPort s e f).draws = s.draws := rfl
@[simp] theorem modPort_cores (e : Nat) (f : EthPort → EthPort) : (modPort s e f).cores = s.cores := rfl
@[simp] theorem modPort_gallery (e : Nat) (f : EthPort → EthPort) : (modPort s e f).gallery = s.gallery := rfl
@[simp] theorem modPort_dram (e : Nat) (f : EthPort → EthPort) : (modPort s e f).dram = s.dram := rfl
@[simp] theorem modPort_tallies (e : Nat) (f : EthPort → EthPort) : (modPort s e f).tallies = s.tallies := rfl
@[simp] theorem modPort_waits (e : Nat) (f : EthPort → EthPort) : (modPort s e f).waits = s.waits := rfl
@[simp] theorem modPort_conveyors (e : Nat) (f : EthPort → EthPort) : (modPort s e f).conveyors = s.conveyors := rfl
@[simp] theorem modPort_backoffs (e : Nat) (f : EthPort → EthPort) : (modPort s e f).backoffs = s.backoffs := rfl
@[simp] theorem modPort_claims (e : Nat) (f : EthPort → EthPort) : (modPort s e f).claims = s.claims := rfl
@[simp] theorem modPort_claimReq (e : Nat) (f : EthPort → EthPort) : (modPort s e f).claimReq = s.claimReq := rfl
@[simp] theorem modPort_functions (e : Nat) (f : EthPort → EthPort) : (modPort s e f).functions = s.functions := rfl
@[simp] theorem modPort_host (e : Nat) (f : EthPort → EthPort) : (modPort s e f).host = s.host := rfl
@[simp] theorem modPort_hubMovers (e : Nat) (f : EthPort → EthPort) : (modPort s e f).hubMovers = s.hubMovers := rfl
@[simp] theorem modPort_group (e : Nat) (f : EthPort → EthPort) : (modPort s e f).group = s.group := rfl
@[simp] theorem modPort_dies (e : Nat) (f : EthPort → EthPort) : (modPort s e f).dies = s.dies := rfl
@[simp] theorem modPort_power (e : Nat) (f : EthPort → EthPort) : (modPort s e f).power = s.power := rfl
@[simp] theorem modPort_therm (e : Nat) (f : EthPort → EthPort) : (modPort s e f).therm = s.therm := rfl
@[simp] theorem modPort_ras (e : Nat) (f : EthPort → EthPort) : (modPort s e f).ras = s.ras := rfl
@[simp] theorem modPort_now (e : Nat) (f : EthPort → EthPort) : (modPort s e f).now = s.now := rfl
@[simp] theorem modPort_fabric (e : Nat) (f : EthPort → EthPort) : (modPort s e f).fabric = s.fabric := rfl
@[simp] theorem modPort_coll (e : Nat) (f : EthPort → EthPort) : (modPort s e f).coll = s.coll := rfl
@[simp] theorem modPort_sys (e : Nat) (f : EthPort → EthPort) : (modPort s e f).sys = s.sys := rfl
@[simp] theorem modPort_answer (e : Nat) (f : EthPort → EthPort) : (modPort s e f).answer = s.answer := rfl

@[simp] theorem modReq_pending (f : ClaimReq → ClaimReq) : (modReq s f).pending = s.pending := rfl
@[simp] theorem modReq_draws (f : ClaimReq → ClaimReq) : (modReq s f).draws = s.draws := rfl
@[simp] theorem modReq_cores (f : ClaimReq → ClaimReq) : (modReq s f).cores = s.cores := rfl
@[simp] theorem modReq_gallery (f : ClaimReq → ClaimReq) : (modReq s f).gallery = s.gallery := rfl
@[simp] theorem modReq_dram (f : ClaimReq → ClaimReq) : (modReq s f).dram = s.dram := rfl
@[simp] theorem modReq_tallies (f : ClaimReq → ClaimReq) : (modReq s f).tallies = s.tallies := rfl
@[simp] theorem modReq_waits (f : ClaimReq → ClaimReq) : (modReq s f).waits = s.waits := rfl
@[simp] theorem modReq_conveyors (f : ClaimReq → ClaimReq) : (modReq s f).conveyors = s.conveyors := rfl
@[simp] theorem modReq_backoffs (f : ClaimReq → ClaimReq) : (modReq s f).backoffs = s.backoffs := rfl
@[simp] theorem modReq_claims (f : ClaimReq → ClaimReq) : (modReq s f).claims = s.claims := rfl
@[simp] theorem modReq_functions (f : ClaimReq → ClaimReq) : (modReq s f).functions = s.functions := rfl
@[simp] theorem modReq_host (f : ClaimReq → ClaimReq) : (modReq s f).host = s.host := rfl
@[simp] theorem modReq_hubMovers (f : ClaimReq → ClaimReq) : (modReq s f).hubMovers = s.hubMovers := rfl
@[simp] theorem modReq_group (f : ClaimReq → ClaimReq) : (modReq s f).group = s.group := rfl
@[simp] theorem modReq_dies (f : ClaimReq → ClaimReq) : (modReq s f).dies = s.dies := rfl
@[simp] theorem modReq_power (f : ClaimReq → ClaimReq) : (modReq s f).power = s.power := rfl
@[simp] theorem modReq_therm (f : ClaimReq → ClaimReq) : (modReq s f).therm = s.therm := rfl
@[simp] theorem modReq_ras (f : ClaimReq → ClaimReq) : (modReq s f).ras = s.ras := rfl
@[simp] theorem modReq_now (f : ClaimReq → ClaimReq) : (modReq s f).now = s.now := rfl
@[simp] theorem modReq_fabric (f : ClaimReq → ClaimReq) : (modReq s f).fabric = s.fabric := rfl
@[simp] theorem modReq_haul (f : ClaimReq → ClaimReq) : (modReq s f).haul = s.haul := rfl
@[simp] theorem modReq_coll (f : ClaimReq → ClaimReq) : (modReq s f).coll = s.coll := rfl
@[simp] theorem modReq_sys (f : ClaimReq → ClaimReq) : (modReq s f).sys = s.sys := rfl
@[simp] theorem modReq_answer (f : ClaimReq → ClaimReq) : (modReq s f).answer = s.answer := rfl

@[simp] theorem modFlash_pending (f : FlashState → FlashState) : (modFlash s f).pending = s.pending := rfl
@[simp] theorem modFlash_draws (f : FlashState → FlashState) : (modFlash s f).draws = s.draws := rfl
@[simp] theorem modFlash_cores (f : FlashState → FlashState) : (modFlash s f).cores = s.cores := rfl
@[simp] theorem modFlash_gallery (f : FlashState → FlashState) : (modFlash s f).gallery = s.gallery := rfl
@[simp] theorem modFlash_dram (f : FlashState → FlashState) : (modFlash s f).dram = s.dram := rfl
@[simp] theorem modFlash_tallies (f : FlashState → FlashState) : (modFlash s f).tallies = s.tallies := rfl
@[simp] theorem modFlash_waits (f : FlashState → FlashState) : (modFlash s f).waits = s.waits := rfl
@[simp] theorem modFlash_conveyors (f : FlashState → FlashState) : (modFlash s f).conveyors = s.conveyors := rfl
@[simp] theorem modFlash_backoffs (f : FlashState → FlashState) : (modFlash s f).backoffs = s.backoffs := rfl
@[simp] theorem modFlash_claims (f : FlashState → FlashState) : (modFlash s f).claims = s.claims := rfl
@[simp] theorem modFlash_claimReq (f : FlashState → FlashState) : (modFlash s f).claimReq = s.claimReq := rfl
@[simp] theorem modFlash_functions (f : FlashState → FlashState) : (modFlash s f).functions = s.functions := rfl
@[simp] theorem modFlash_host (f : FlashState → FlashState) : (modFlash s f).host = s.host := rfl
@[simp] theorem modFlash_hubMovers (f : FlashState → FlashState) : (modFlash s f).hubMovers = s.hubMovers := rfl
@[simp] theorem modFlash_group (f : FlashState → FlashState) : (modFlash s f).group = s.group := rfl
@[simp] theorem modFlash_dies (f : FlashState → FlashState) : (modFlash s f).dies = s.dies := rfl
@[simp] theorem modFlash_power (f : FlashState → FlashState) : (modFlash s f).power = s.power := rfl
@[simp] theorem modFlash_therm (f : FlashState → FlashState) : (modFlash s f).therm = s.therm := rfl
@[simp] theorem modFlash_ras (f : FlashState → FlashState) : (modFlash s f).ras = s.ras := rfl
@[simp] theorem modFlash_now (f : FlashState → FlashState) : (modFlash s f).now = s.now := rfl
@[simp] theorem modFlash_fabric (f : FlashState → FlashState) : (modFlash s f).fabric = s.fabric := rfl
@[simp] theorem modFlash_haul (f : FlashState → FlashState) : (modFlash s f).haul = s.haul := rfl
@[simp] theorem modFlash_coll (f : FlashState → FlashState) : (modFlash s f).coll = s.coll := rfl
@[simp] theorem modFlash_answer (f : FlashState → FlashState) : (modFlash s f).answer = s.answer := rfl

@[simp] theorem modFirm_pending (f : FirmState → FirmState) : (modFirm s f).pending = s.pending := rfl
@[simp] theorem modFirm_draws (f : FirmState → FirmState) : (modFirm s f).draws = s.draws := rfl
@[simp] theorem modFirm_cores (f : FirmState → FirmState) : (modFirm s f).cores = s.cores := rfl
@[simp] theorem modFirm_gallery (f : FirmState → FirmState) : (modFirm s f).gallery = s.gallery := rfl
@[simp] theorem modFirm_dram (f : FirmState → FirmState) : (modFirm s f).dram = s.dram := rfl
@[simp] theorem modFirm_tallies (f : FirmState → FirmState) : (modFirm s f).tallies = s.tallies := rfl
@[simp] theorem modFirm_waits (f : FirmState → FirmState) : (modFirm s f).waits = s.waits := rfl
@[simp] theorem modFirm_conveyors (f : FirmState → FirmState) : (modFirm s f).conveyors = s.conveyors := rfl
@[simp] theorem modFirm_backoffs (f : FirmState → FirmState) : (modFirm s f).backoffs = s.backoffs := rfl
@[simp] theorem modFirm_claims (f : FirmState → FirmState) : (modFirm s f).claims = s.claims := rfl
@[simp] theorem modFirm_claimReq (f : FirmState → FirmState) : (modFirm s f).claimReq = s.claimReq := rfl
@[simp] theorem modFirm_functions (f : FirmState → FirmState) : (modFirm s f).functions = s.functions := rfl
@[simp] theorem modFirm_host (f : FirmState → FirmState) : (modFirm s f).host = s.host := rfl
@[simp] theorem modFirm_hubMovers (f : FirmState → FirmState) : (modFirm s f).hubMovers = s.hubMovers := rfl
@[simp] theorem modFirm_group (f : FirmState → FirmState) : (modFirm s f).group = s.group := rfl
@[simp] theorem modFirm_dies (f : FirmState → FirmState) : (modFirm s f).dies = s.dies := rfl
@[simp] theorem modFirm_power (f : FirmState → FirmState) : (modFirm s f).power = s.power := rfl
@[simp] theorem modFirm_therm (f : FirmState → FirmState) : (modFirm s f).therm = s.therm := rfl
@[simp] theorem modFirm_ras (f : FirmState → FirmState) : (modFirm s f).ras = s.ras := rfl
@[simp] theorem modFirm_now (f : FirmState → FirmState) : (modFirm s f).now = s.now := rfl
@[simp] theorem modFirm_fabric (f : FirmState → FirmState) : (modFirm s f).fabric = s.fabric := rfl
@[simp] theorem modFirm_haul (f : FirmState → FirmState) : (modFirm s f).haul = s.haul := rfl
@[simp] theorem modFirm_coll (f : FirmState → FirmState) : (modFirm s f).coll = s.coll := rfl
@[simp] theorem modFirm_answer (f : FirmState → FirmState) : (modFirm s f).answer = s.answer := rfl

@[simp] theorem modBoot_pending (f : BootState → BootState) : (modBoot s f).pending = s.pending := rfl
@[simp] theorem modBoot_draws (f : BootState → BootState) : (modBoot s f).draws = s.draws := rfl
@[simp] theorem modBoot_cores (f : BootState → BootState) : (modBoot s f).cores = s.cores := rfl
@[simp] theorem modBoot_gallery (f : BootState → BootState) : (modBoot s f).gallery = s.gallery := rfl
@[simp] theorem modBoot_dram (f : BootState → BootState) : (modBoot s f).dram = s.dram := rfl
@[simp] theorem modBoot_tallies (f : BootState → BootState) : (modBoot s f).tallies = s.tallies := rfl
@[simp] theorem modBoot_waits (f : BootState → BootState) : (modBoot s f).waits = s.waits := rfl
@[simp] theorem modBoot_conveyors (f : BootState → BootState) : (modBoot s f).conveyors = s.conveyors := rfl
@[simp] theorem modBoot_backoffs (f : BootState → BootState) : (modBoot s f).backoffs = s.backoffs := rfl
@[simp] theorem modBoot_claims (f : BootState → BootState) : (modBoot s f).claims = s.claims := rfl
@[simp] theorem modBoot_claimReq (f : BootState → BootState) : (modBoot s f).claimReq = s.claimReq := rfl
@[simp] theorem modBoot_functions (f : BootState → BootState) : (modBoot s f).functions = s.functions := rfl
@[simp] theorem modBoot_host (f : BootState → BootState) : (modBoot s f).host = s.host := rfl
@[simp] theorem modBoot_hubMovers (f : BootState → BootState) : (modBoot s f).hubMovers = s.hubMovers := rfl
@[simp] theorem modBoot_group (f : BootState → BootState) : (modBoot s f).group = s.group := rfl
@[simp] theorem modBoot_dies (f : BootState → BootState) : (modBoot s f).dies = s.dies := rfl
@[simp] theorem modBoot_power (f : BootState → BootState) : (modBoot s f).power = s.power := rfl
@[simp] theorem modBoot_therm (f : BootState → BootState) : (modBoot s f).therm = s.therm := rfl
@[simp] theorem modBoot_ras (f : BootState → BootState) : (modBoot s f).ras = s.ras := rfl
@[simp] theorem modBoot_now (f : BootState → BootState) : (modBoot s f).now = s.now := rfl
@[simp] theorem modBoot_fabric (f : BootState → BootState) : (modBoot s f).fabric = s.fabric := rfl
@[simp] theorem modBoot_haul (f : BootState → BootState) : (modBoot s f).haul = s.haul := rfl
@[simp] theorem modBoot_coll (f : BootState → BootState) : (modBoot s f).coll = s.coll := rfl
@[simp] theorem modBoot_answer (f : BootState → BootState) : (modBoot s f).answer = s.answer := rfl

@[simp] theorem setPage_pending (f : Nat) (p : MbxPage) : (setPage s f p).pending = s.pending := rfl
@[simp] theorem setPage_draws (f : Nat) (p : MbxPage) : (setPage s f p).draws = s.draws := rfl
@[simp] theorem setPage_cores (f : Nat) (p : MbxPage) : (setPage s f p).cores = s.cores := rfl
@[simp] theorem setPage_gallery (f : Nat) (p : MbxPage) : (setPage s f p).gallery = s.gallery := rfl
@[simp] theorem setPage_dram (f : Nat) (p : MbxPage) : (setPage s f p).dram = s.dram := rfl
@[simp] theorem setPage_tallies (f : Nat) (p : MbxPage) : (setPage s f p).tallies = s.tallies := rfl
@[simp] theorem setPage_waits (f : Nat) (p : MbxPage) : (setPage s f p).waits = s.waits := rfl
@[simp] theorem setPage_conveyors (f : Nat) (p : MbxPage) : (setPage s f p).conveyors = s.conveyors := rfl
@[simp] theorem setPage_backoffs (f : Nat) (p : MbxPage) : (setPage s f p).backoffs = s.backoffs := rfl
@[simp] theorem setPage_claims (f : Nat) (p : MbxPage) : (setPage s f p).claims = s.claims := rfl
@[simp] theorem setPage_claimReq (f : Nat) (p : MbxPage) : (setPage s f p).claimReq = s.claimReq := rfl
@[simp] theorem setPage_functions (f : Nat) (p : MbxPage) : (setPage s f p).functions = s.functions := rfl
@[simp] theorem setPage_host (f : Nat) (p : MbxPage) : (setPage s f p).host = s.host := rfl
@[simp] theorem setPage_hubMovers (f : Nat) (p : MbxPage) : (setPage s f p).hubMovers = s.hubMovers := rfl
@[simp] theorem setPage_group (f : Nat) (p : MbxPage) : (setPage s f p).group = s.group := rfl
@[simp] theorem setPage_dies (f : Nat) (p : MbxPage) : (setPage s f p).dies = s.dies := rfl
@[simp] theorem setPage_power (f : Nat) (p : MbxPage) : (setPage s f p).power = s.power := rfl
@[simp] theorem setPage_therm (f : Nat) (p : MbxPage) : (setPage s f p).therm = s.therm := rfl
@[simp] theorem setPage_ras (f : Nat) (p : MbxPage) : (setPage s f p).ras = s.ras := rfl
@[simp] theorem setPage_now (f : Nat) (p : MbxPage) : (setPage s f p).now = s.now := rfl
@[simp] theorem setPage_fabric (f : Nat) (p : MbxPage) : (setPage s f p).fabric = s.fabric := rfl
@[simp] theorem setPage_haul (f : Nat) (p : MbxPage) : (setPage s f p).haul = s.haul := rfl
@[simp] theorem setPage_coll (f : Nat) (p : MbxPage) : (setPage s f p).coll = s.coll := rfl
@[simp] theorem setPage_answer (f : Nat) (p : MbxPage) : (setPage s f p).answer = s.answer := rfl

/-! ### Reads of cores and claims -/

@[simp] theorem setCore_cores (c : Nat) (k : CoreState) : (setCore s c k).cores = tput {} s.cores c k := rfl

@[simp] theorem coreAt_setCore (c : Nat) (k : CoreState) : coreAt (setCore s c k) c = k := tget_tput_same _ _ _ _

theorem coreAt_setCore_ne (c j : Nat) (k : CoreState) (h : j ≠ c) : coreAt (setCore s c k) j = coreAt s j :=
  tget_tput_ne _ _ _ _ _ h

/-- The later of two writes of one core stands. -/
@[simp] theorem setCore_setCore (c : Nat) (k k' : CoreState) : setCore (setCore s c k) c k' = setCore s c k' := by
  simp [setCore]

@[simp] theorem coreAt_modCore (c : Nat) (f : CoreState → CoreState) : coreAt (modCore s c f) c = f (coreAt s c) :=
  coreAt_setCore s c _

theorem coreAt_modCore_ne (c j : Nat) (f : CoreState → CoreState) (h : j ≠ c) : coreAt (modCore s c f) j = coreAt s j :=
  coreAt_setCore_ne s c j _ h

/-- Two changes of one core are one. -/
@[simp] theorem modCore_modCore (c : Nat) (f g : CoreState → CoreState) :
    modCore (modCore s c f) c g = modCore s c (fun k => g (f k)) := by
  simp [modCore]

@[simp] theorem coreAt_modSeq (c : Nat) (f : SeqState → SeqState) :
    coreAt (modSeq s c f) c = { coreAt s c with seq := f (coreAt s c).seq } := coreAt_modCore s c _

theorem coreAt_modSeq_ne (c j : Nat) (f : SeqState → SeqState) (h : j ≠ c) : coreAt (modSeq s c f) j = coreAt s j :=
  coreAt_modCore_ne s c j _ h

@[simp] theorem coreAt_modBench (c : Nat) (f : BenchState → BenchState) :
    coreAt (modBench s c f) c = { coreAt s c with bench := f (coreAt s c).bench } := coreAt_modCore s c _

theorem coreAt_modBench_ne (c j : Nat) (f : BenchState → BenchState) (h : j ≠ c) : coreAt (modBench s c f) j = coreAt s j :=
  coreAt_modCore_ne s c j _ h

@[simp] theorem coreAt_modSync (c : Nat) (f : SyncState → SyncState) :
    coreAt (modSync s c f) c = { coreAt s c with sync := f (coreAt s c).sync } := coreAt_modCore s c _

theorem coreAt_modSync_ne (c j : Nat) (f : SyncState → SyncState) (h : j ≠ c) : coreAt (modSync s c f) j = coreAt s j :=
  coreAt_modCore_ne s c j _ h

@[simp] theorem coreAt_modMat (c : Nat) (f : MatState → MatState) :
    coreAt (modMat s c f) c = { coreAt s c with mat := f (coreAt s c).mat } := coreAt_modCore s c _

theorem coreAt_modMat_ne (c j : Nat) (f : MatState → MatState) (h : j ≠ c) : coreAt (modMat s c f) j = coreAt s j :=
  coreAt_modCore_ne s c j _ h

@[simp] theorem coreAt_modDrs (c : Nat) (f : DrsState → DrsState) :
    coreAt (modDrs s c f) c = { coreAt s c with drs := f (coreAt s c).drs } := coreAt_modCore s c _

theorem coreAt_modDrs_ne (c j : Nat) (f : DrsState → DrsState) (h : j ≠ c) : coreAt (modDrs s c f) j = coreAt s j :=
  coreAt_modCore_ne s c j _ h

@[simp] theorem coreAt_modAtt (c : Nat) (f : AttState → AttState) :
    coreAt (modAtt s c f) c = { coreAt s c with att := f (coreAt s c).att } := coreAt_modCore s c _

theorem coreAt_modAtt_ne (c j : Nat) (f : AttState → AttState) (h : j ≠ c) : coreAt (modAtt s c f) j = coreAt s j :=
  coreAt_modCore_ne s c j _ h

@[simp] theorem coreAt_modPwr (c : Nat) (f : CorePower → CorePower) :
    coreAt (modPwr s c f) c = { coreAt s c with pwr := f (coreAt s c).pwr } := coreAt_modCore s c _

theorem coreAt_modPwr_ne (c j : Nat) (f : CorePower → CorePower) (h : j ≠ c) : coreAt (modPwr s c f) j = coreAt s j :=
  coreAt_modCore_ne s c j _ h

@[simp] theorem claimAt_modClaim (k : Nat) (f : Claim → Claim) : claimAt (modClaim s k f) k = f (claimAt s k) :=
  tget_tput_same _ _ _ _

theorem claimAt_modClaim_ne (k j : Nat) (f : Claim → Claim) (h : j ≠ k) : claimAt (modClaim s k f) j = claimAt s j :=
  tget_tput_ne _ _ _ _ _ h

@[simp] theorem claimAt_setCore (c j : Nat) (k : CoreState) : claimAt (setCore s c k) j = claimAt s j := rfl

@[simp] theorem claimAt_modCore (c j : Nat) (f : CoreState → CoreState) : claimAt (modCore s c f) j = claimAt s j := rfl

@[simp] theorem coreAt_modClaim (k j : Nat) (f : Claim → Claim) : coreAt (modClaim s k f) j = coreAt s j := rfl

/-! ### Reads of links, windows, ports, slots, streams and queue pairs -/

@[simp] theorem linkAt_setLink (n : Nat) (v : LinkState) : linkAt (setLink s n v) n = v := tget_tput_same _ _ _ _

theorem linkAt_setLink_ne (n m : Nat) (v : LinkState) (h : m ≠ n) : linkAt (setLink s n v) m = linkAt s m :=
  tget_tput_ne _ _ _ _ _ h

@[simp] theorem windowAt_setWindow (n : Nat) (v : Window) : windowAt (setWindow s n v) n = v := tget_tput_same _ _ _ _

theorem windowAt_setWindow_ne (n m : Nat) (v : Window) (h : m ≠ n) : windowAt (setWindow s n v) m = windowAt s m :=
  tget_tput_ne _ _ _ _ _ h

@[simp] theorem tableAt_setTable (n : Nat) (v : SlotTable) : tableAt (setTable s n v) n = v := tget_tput_same _ _ _ _

theorem tableAt_setTable_ne (n m : Nat) (v : SlotTable) (h : m ≠ n) : tableAt (setTable s n v) m = tableAt s m :=
  tget_tput_ne _ _ _ _ _ h

@[simp] theorem sliceAt_setSlice (n : Nat) (v : SlicePort) : sliceAt (setSlice s n v) n = v := tget_tput_same _ _ _ _

theorem sliceAt_setSlice_ne (n m : Nat) (v : SlicePort) (h : m ≠ n) : sliceAt (setSlice s n v) m = sliceAt s m :=
  tget_tput_ne _ _ _ _ _ h

@[simp] theorem sumpAt_setSump (n : Nat) (v : SumpSlot) : sumpAt (setSump s n v) n = v := tget_tput_same _ _ _ _

theorem sumpAt_setSump_ne (n m : Nat) (v : SumpSlot) (h : m ≠ n) : sumpAt (setSump s n v) m = sumpAt s m :=
  tget_tput_ne _ _ _ _ _ h

@[simp] theorem streamAt_setStream (n : Nat) (v : HaulStream) : streamAt (setStream s n v) n = v := tget_tput_same _ _ _ _

theorem streamAt_setStream_ne (n m : Nat) (v : HaulStream) (h : m ≠ n) : streamAt (setStream s n v) m = streamAt s m :=
  tget_tput_ne _ _ _ _ _ h

@[simp] theorem qpAt_setQp (n : Nat) (v : QueuePair) : qpAt (setQp s n v) n = v := tget_tput_same _ _ _ _

theorem qpAt_setQp_ne (n m : Nat) (v : QueuePair) (h : m ≠ n) : qpAt (setQp s n v) m = qpAt s m :=
  tget_tput_ne _ _ _ _ _ h

/-! ### Reads of registers, predicates, tags and bytes -/

@[simp] theorem regAt_setReg (c r : Nat) (v : W64) : regAt (setReg s c r v) c r = v := by simp [regAt, setReg]

theorem regAt_setReg_ne (c r q : Nat) (v : W64) (h : q ≠ r) : regAt (setReg s c r v) c q = regAt s c q := by
  simp [regAt, setReg, tget_tput_ne _ _ _ _ _ h]

@[simp] theorem predAt_setPred (c p : Nat) (v : Pred) : predAt (setPred s c p v) c p = v := by simp [predAt, setPred]

theorem predAt_setPred_ne (c p q : Nat) (v : Pred) (h : q ≠ p) : predAt (setPred s c p v) c q = predAt s c q := by
  simp [predAt, setPred, tget_tput_ne _ _ _ _ _ h]

/-- A byte of a bench after a write. -/
theorem benchByte_writeBench (c o a : Nat) (b : List Byte) :
    benchByte (writeBench s c o b) c a = if o ≤ a ∧ a < o + b.length then b.getD (a - o) 0 else benchByte s c a := by
  simp [benchByte, writeBench, writtenBench, tget_tputN]

/-- A byte of the gallery after a write. -/
theorem galByte_writeGal (o a : Nat) (b : List Byte) :
    galByte (writeGal s o b) a = if o ≤ a ∧ a < o + b.length then b.getD (a - o) 0 else galByte s a := by
  simp [galByte, writeGal, tget_tputN]

/-- A byte of DRAM after a write. -/
theorem dramByte_writeDram (o a : Nat) (b : List Byte) :
    dramByte (writeDram s o b) a = if o ≤ a ∧ a < o + b.length then b.getD (a - o) 0 else dramByte s a := by
  simp [dramByte, writeDram, tget_tputN]

end Sys2Proof.Machine
end

