-- ==== Sys2Proof/Laws/Issue.lean ====
section
/-! SUPPORT. What the shared operations of the sequencer can do: an instruction that executes runs its body; one that runs
in sequence has its effect and the sequencer goes on. -/

namespace Sys2Proof.Machine

variable {s : State} {c : CoreId} {r : SeqRow} {w : W64}

/-- An engine of a claim whose task is live just acts: no fault coincides. -/
theorem coincide_live {e : Engine} (f : State → State) (h : engineLive s e = true) : coincide e f s = f s := by
  unfold engineLive taskLive at h
  unfold coincide
  cases hk : engineClaim s e with
  | none => rfl
  | some k =>
    rw [hk] at h
    cases ht : (claimAt s k).task with
    | none => simp only [ht]
    | some t =>
      simp only [ht, Option.isNone_iff_eq_none] at h
      simp only [ht, h]

/-- The sequencer of a core that can execute is such an engine. -/
theorem engineLive_of_seqCan (h : seqCan s c = true) : engineLive s (.sequencer c) = true := by
  simp only [seqCan, unitLive, Bool.and_eq_true] at h
  obtain ⟨⟨-, h⟩, -⟩ := h
  unfold engineLive engineClaim
  cases hk : coreOwner s c <;> simp_all

/-- An instruction that executes runs its body on its word. -/
theorem issue_executes (body : W64 → State → State) (h : executes s c r w = true) : issue r c body s = body w s := by
  simp only [executes, Bool.and_eq_true, Bool.not_eq_true', beq_iff_eq, Option.isNone_iff_eq_none] at h
  obtain ⟨⟨⟨⟨h1, h2⟩, h3⟩, h4⟩, h5⟩ := h
  rw [issue, coincide_live _ (engineLive_of_seqCan h1)]
  simp [issueLive, h1, h2, h3, h4, h5]

theorem executes_of_runs (h : runs s c r w = true) : executes s c r w = true := by
  simp only [runs, Bool.and_eq_true] at h
  exact h.1

theorem canFollow_of_runs (h : runs s c r w = true) : canFollow (coreAt s c).seq = true := by
  simp only [runs, Bool.and_eq_true] at h
  exact h.2

theorem issue_runs (body : W64 → State → State) (h : runs s c r w = true) : issue r c body s = body w s :=
  issue_executes body (executes_of_runs h)

/-- An instruction that can be followed has its effect, and retires. -/
theorem inSequence_runs (f : State → State) (h : runs s c r w = true) : inSequence c f s = retire (f s) c := by
  simp [inSequence, canFollow_of_runs h]

/-- The two laws together. -/
theorem issue_inSequence (f : W64 → State → State) (h : runs s c r w = true) :
    issue r c (fun w => inSequence c (f w)) s = retire (f w s) c := by
  rw [issue_runs _ h, inSequence_runs _ h]

/-! ### Retiring -/

theorem retire_eq : retire s c = setCore s c { coreAt s c with
    seq := { followed (coreAt s c).seq with
      run := .running, wait := none, retired := wrapAdd 64 (coreAt s c).seq.retired 1 } } := rfl

@[simp] theorem regAt_retire (r : Nat) : regAt (retire s c) c r = regAt s c r := by
  simp [regAt, retire_eq, followed]

@[simp] theorem predAt_retire (p : Nat) : predAt (retire s c) c p = predAt s c p := by
  simp [predAt, retire_eq, followed]

/-- What a register write and the retirement that follows it leave: only the sequencer of the core differs. -/
theorem onlySeq_retire_modSeq (f : SeqState → SeqState) : onlySeq c s (retire (modSeq s c f) c) := by
  simp [onlySeq, retire_eq, modSeq, modCore]

theorem seq_retire : (coreAt (retire s c) c).seq = { followed (coreAt s c).seq with
    run := .running, wait := none, retired := wrapAdd 64 (coreAt s c).seq.retired 1 } := by
  simp [retire_eq]

/-- A register write followed in sequence changes that register and the sequencer's advance only. -/
theorem registerOnly_setReg (rd : Nat) (v : W64) : registerOnly c rd s (retire (setReg s c rd v) c) := by
  refine ⟨by simp [onlySeq, retire_eq, setReg, modSeq, modCore], ?_, ?_, ?_⟩
  · intro r h
    rw [regAt_retire]
    exact regAt_setReg_ne s c rd r v (by simpa using h)
  · simp [sameSeqRest, retire_eq, setReg, modSeq, modCore, followed]
  · simp [wentOn, retire_eq, setReg, modSeq, modCore, followed]

end Sys2Proof.Machine
end

