-- ==== Sys2Proof/Tests/Slice0.lean ====
section
/-! SUPPORT. Tests: ill-formed commands that the check refuses, small checks of the arithmetic and the tables against the
spec's own numbers, and for every statement with hypotheses a state and operands that meet them together. -/

namespace Sys2Proof.Tests
open Sys2Proof.Machine

/-- An instruction word from (value, lowest bit) pairs of its fields. -/
def enc (fields : List (Nat × Nat)) : W64 := BitVec.ofNat 64 ((fields.map fun f => f.1 * 2 ^ f.2).foldl (· + ·) 0)

/-- A task without a fault. -/
def someTask : Machine.Task := { ring := 0, msix := false, user := 0, imageId := 0, record := 0 }

/-- A claim of quad 0 with a task, tallies 0 to 1,023, conveyors 0 to 7, turn counters 0 to 7, windows 0 to 7, hub mover 0,
gallery bank 0, DRAM region 0 and 16 sump slots. -/
def someClaim : Claim :=
  { created := true, quads := 1, task := some someTask, tallyUnits := 1, convUnits := 1, turnCount := 8, winCount := 8
    hubMovers := 1, collMovers := 1, galBanks := 1, dram := 1, sump := 16 }

/-- Core 0 runs the word `w` at index 0, with bench bytes and sequencer of its own. -/
def oneCore (w : W64) (seq : SeqState := {}) (k : CoreState := {}) : State :=
  { claims := [(0, someClaim)], dies := [(0, { present := true, mode := .run })]
    gallery := { ready := 1 }, dram := { ready := 1 }
    cores := [(0, { k with
      seq := { seq with run := .running }
      bench := { k.bench with bytes := tputN 0 k.bench.bytes instrBase (leBytes 8 w.toNat) } })] }

/-- Every refused command of a list. -/
def refused (xs : List Instr) : Bool := xs.all fun i => !i.wf

set_option maxRecDepth 4000 in
/-- An ill-formed term for each check of the memory commands. -/
theorem test_wf_memory : refused [
    .benchAccess 0 (.matrix 0) .pDress (2 ^ 23) (.read 8) .plain [] .clean, .benchAccess 0 (.matrix 0) .pDress 0 (.read 0) .plain [] .clean,
    .benchAccess 0 (.matrix 0) .pDress 0 (.read 513) .plain [] .clean, .benchAccess 0 (.matrix 0) .pDress 0 (.write []) .plain [] .clean,
    .galleryRead .haul (2 ^ 52) 8 .clean, .galleryRead .haul 0 129 .clean, .galleryWrite .haul 0 [], .galleryWrite .haul (2 ^ 52) [0],
    .accumulateInPlace ⟨.haul, 2 ^ 52, .fadd, [], none⟩ none,
    .accumulateInPlace ⟨.haul, 0, .fadd, List.replicate 129 0, none⟩ none, .transposingRead .haul (2 ^ 52) 0 0, .stridedRead .haul 0 0 [], .stridedRead .haul (2 ^ 52) 0 [(1, 1)],
    .gather .haul (2 ^ 52) 1 0 0 8, .gather .haul 0 1 (2 ^ 52) 0 8, .quantiseOnWrite .haul false [] 16 0 0 false,
    .quantiseOnWrite .haul false [] 1 (2 ^ 52) 0 false, .zeroFill .haul 0 0, .zeroFill .haul (2 ^ 52) 8, .rowReduction .haul (2 ^ 52) 1 true 0,
    .turnSet .haul 0 65536 0 false, .turnSet .haul 0 1 131072 false, .dramAccess .haul 0 0 [] .clean, .dramAccess .haul (2 ^ 52) 8 [] .clean,
    .scrubAccess (.bench 0 (2 ^ 20)) .clean, .scrubAccess (.gallery (512 * 98304)) .clean, .scrubAccess (.dram (225 * 10000000)) .clean] =
    true := by decide

set_option maxRecDepth 4000 in
/-- An ill-formed term for each check of the fabric and host commands. -/
theorem test_wf_fabric : refused [
    .taskEnd 0 (2 ^ 32), .taskAbort 0 (2 ^ 32), .atsInvalidation 0 0 0 true, .atsInvalidation 0 (2 ^ 52) 1 true,
    .flitReceive 0 (List.replicate 6 ⟨List.replicate 60 0, 0, 0⟩) false false none [], .flitReceive 0 [⟨[], 0, 0⟩] false false none [],
    .flitReceive 0 [] false false (some 4096) [], .replayRequest 0 4096, .transitPacket ⟨0, 0⟩ 0 0, .sumpContribute 0 0 0 [] none,
    .sumpAtomic 0 0 .add .fp32 [] none, .collectiveChunk 0 0 0 0 [] [] 0 none, .junctionRequest .haul (.dram 144000000000) 0 8 none,
    .junctionRequest .haul (.module 0 (2 ^ 52)) 0 8 none, .junctionRequest .haul .haul 0 4097 none, .deadlineMiss 0 0 .tag 131072 1, .doorbell 0 0 0 65536 [], .hostLimitWrite 0 65536, .bar0InvalidAccess 0 (2 ^ 26) true,
    .poweredOffAccess 0 (2 ^ 26) true, .registerWrite 0 0 3 0, .registerWrite 0 (2 ^ 26) 8 0] = true := by decide

set_option maxRecDepth 4000 in
/-- An ill-formed term for each check of the power and firmware commands. -/
theorem test_wf_power : refused [
    .powerEstimateTick ⟨[], [], 0, 0, 0⟩, .calibrationTick [], .rateCorrectionTick [], .matchReportReceive 0 9, .matchReportReceive 0 65,
    .thermalSample 0 [], .thermalSample 0 (List.replicate 24 2048), .dramThermalTick (-2049) 0, .dramThermalTick 0 2048, .hubThermalTick 2048,
    .inputPowerSample 65536 0 0 0, .inputPowerSample 0 65536 0 0, .setCap 65536 false, .setFailsafe 65536 1, .setFailsafe 300 65536,
    .setState 256, .oemUnknownCommand 8, .pldmSetRackCap 65536, .updateComponent 1 64, .requestFirmwareData false (List.replicate 257 0),
    .verifyComplete ⟨0, 64, true⟩, .fwStage 0 0 ⟨2 ^ 32, 0, true⟩ 600 true, .portConfig 0 0 [1] [0, 0, 0, 0], .reformCommit [],
    .bootZeroAndCharacterise [] [] 0] = true := by decide

/-- Commands that every check passes. -/
theorem test_wf_accepts : Instr.wf (.galleryRead .haul 0 128 .clean) = true ∧ Instr.wf (.registerWrite 0 0x300060 8 0) = true ∧
    Instr.wf (.thermalSample 0 (List.replicate 24 760)) = true ∧ Instr.wf (.endProgram 0) = true := by decide

def wAlu : W64 := enc [(0, 58), (3, 53), (1, 48), (2, 43), (9, 37)]
def wAlui : W64 := enc [(1, 58), (3, 53), (0xFFFFFFFF, 0)]
def wLi : W64 := enc [(2, 58), (31, 53), (1, 52), (7, 0)]
def wLoad : W64 := enc [(3, 58), (3, 55), (5, 48), (1, 43), (0xFFFFF8, 0)]
def wStore : W64 := enc [(3, 58), (1, 57), (2, 55), (5, 48), (1, 43), (4, 0)]

theorem witness_ScalarArithmetic :
    runs (oneCore wAlu) 0 .alu wAlu = true ∧ runs (oneCore wAlui) 0 .alui wAlui = true ∧
      runs (oneCore wLi) 0 .li wLi = true := by decide

theorem witness_ReadsAndPhase :
    runs (oneCore (enc [(7, 58), (4, 53), (3, 48), (3, 40)])) 0 .csrr (enc [(7, 58), (4, 53), (3, 48), (3, 40)]) = true ∧
    runs (oneCore (enc [(7, 58), (5, 53), (3, 48), (2, 46)]) { order := [2] }) 0 .rdloop
      (enc [(7, 58), (5, 53), (3, 48), (2, 46)]) = true ∧
    runs (oneCore (enc [(7, 58)])) 0 .nop (enc [(7, 58)]) = true ∧
    runs (oneCore (enc [(48, 58), (9, 54)])) 0 .phase (enc [(48, 58), (9, 54)]) = true ∧
    coreOwner (oneCore 0) 0 = some 0 := by decide

theorem witness_LocalLoadStore :
    runs (oneCore wLoad { regs := [(1, 16)] }) 0 .load wLoad = true ∧
    (regAt (oneCore wLoad { regs := [(1, 16)] }) 0 1 + (wLoad.extractLsb' 0 24).signExtend 64).toNat = 8 ∧
    benchGate (oneCore wLoad { regs := [(1, 16)] }) 0 8 8 true = .go ∧
    runs (oneCore wStore { regs := [(1, 8)] }) 0 .store wStore = true ∧
    benchGate (oneCore wStore { regs := [(1, 8)] }) 0 12 4 false = .go := by decide

theorem witness_BranchesAndJumps :
    executes (oneCore (enc [(4, 58), (0, 54), (5, 0)])) 0 .br (enc [(4, 58), (0, 54), (5, 0)]) = true ∧
    executes (oneCore (enc [(4, 58), (0, 54), (0xFFFFFF, 0)])) 0 .br (enc [(4, 58), (0, 54), (0xFFFFFF, 0)]) = true ∧
    executes (oneCore (enc [(4, 58), (7, 54), (5, 0)])) 0 .br (enc [(4, 58), (7, 54), (5, 0)]) = true ∧
    predReadWaits (oneCore (enc [(4, 58), (7, 54), (5, 0)])) 0 0 = false ∧
    claimRuns (oneCore 0) 0 0 = true ∧
    executes (oneCore (enc [(6, 58), (16383, 0)])) 0 .jmp (enc [(6, 58), (16383, 0)]) = true ∧
    executes (oneCore (enc [(6, 58), (1, 56)])) 0 .jmp (enc [(6, 58), (1, 56)]) = true ∧
    executes (oneCore (enc [(6, 58), (2, 56)])) 0 .jmp (enc [(6, 58), (2, 56)]) = true ∧
    executes (oneCore (enc [(6, 58), (3, 56)])) 0 .jmp (enc [(6, 58), (3, 56)]) = true := by decide

theorem witness_LoopProcedure :
    (followed { pc := 4, order := [1, 0], loops := [(0, ⟨2, 4, 3⟩), (1, ⟨3, 4, 1⟩)] }).pc = 2 ∧
    (followed { pc := 4, order := [1, 0], loops := [(0, ⟨2, 4, 1⟩), (1, ⟨3, 4, 1⟩)] }).order = [] ∧
    executes (oneCore (enc [(5, 58), (2, 56), (3, 34), (0, 0)])) 0 .loop (enc [(5, 58), (2, 56), (3, 34), (0, 0)]) = true ∧
    runs (oneCore (enc [(5, 58), (2, 56), (3, 34), (9, 0)])) 0 .loop (enc [(5, 58), (2, 56), (3, 34), (9, 0)]) = true ∧
    canFollow { ({} : SeqState) with order := [] } = true ∧ canFollow { pc := 16383 } = false ∧
    executes (oneCore (enc [(5, 58), (2, 56), (3, 34), (9, 0)])) 0 .loop (enc [(5, 58), (2, 56), (3, 34), (9, 0)]) = true := by
  decide

/-- A core whose dressing queue holds a LANE that writes predicate 7. -/
def busyLane : CoreState := { drs := { queue := [⟨0, .lane 11 7 0 0 0 0 false false 0⟩] } }

theorem witness_Predicates :
    runs (oneCore (enc [(7, 58), (2, 53), (7, 50), (1, 46)])) 0 .pcmp (enc [(7, 58), (2, 53), (7, 50), (1, 46)]) = true ∧
    predWriteWaits (oneCore (enc [(7, 58), (2, 53), (7, 50), (1, 46)])) 0 7 = false ∧
    runs (oneCore (enc [(7, 58), (3, 53), (7, 50), (1, 47), (2, 44), (3, 42)])) 0 .plogic
      (enc [(7, 58), (3, 53), (7, 50), (1, 47), (2, 44), (3, 42)]) = true ∧
    predWriteWaits (oneCore (enc [(7, 58), (2, 53), (7, 50), (1, 46)]) {} busyLane) 0 7 = true ∧
    executes (oneCore (enc [(7, 58), (2, 53), (7, 50), (1, 46)]) {} busyLane) 0 .pcmp
      (enc [(7, 58), (2, 53), (7, 50), (1, 46)]) = true := by decide

/-- A core whose matrix queue holds an SLOAD. -/
def busyMatrix : CoreState := { mat := { queue := [⟨0, .sload 0 3 0 false⟩] } }

theorem witness_UnitWaits :
    runs (oneCore (enc [(36, 58), (32, 52)])) 0 .fence (enc [(36, 58), (32, 52)]) = true ∧
    unitsDone (oneCore 0) 0 63 = true ∧
    unitsDone (oneCore (enc [(36, 58), (32, 52)]) {} busyMatrix) 0 32 = false ∧
    runs (oneCore (enc [(36, 58), (32, 52)]) {} busyMatrix) 0 .fence (enc [(36, 58), (32, 52)]) = true ∧
    runs (oneCore (enc [(49, 58), (77, 42)])) 0 .brk (enc [(49, 58), (77, 42)]) = true ∧
    holdPending (oneCore 0) 0 = false ∧ (coreAt (oneCore 0) 0).drs.holdBytes = 0 ∧
    holdPending { oneCore (enc [(49, 58), (77, 42)]) with claims := [(0, { someClaim with holdReq := true })] } 0 = true ∧
    runs { oneCore (enc [(49, 58), (77, 42)]) with claims := [(0, { someClaim with holdReq := true })] } 0 .brk
      (enc [(49, 58), (77, 42)]) = true ∧
    executes (oneCore (enc [(7, 58), (1, 53)]) {} busyMatrix) 0 .endp (enc [(7, 58), (1, 53)]) = true ∧
    executes (oneCore (enc [(7, 58), (1, 53)])) 0 .endp (enc [(7, 58), (1, 53)]) = true := by decide

def wTag (op slot n : Nat) : W64 := enc [(32, 58), (op, 57), (slot, 44), (n, 30)]
def wTally (op n rs imm : Nat) : W64 := enc [(33, 58), (op, 56), (n, 39), (rs, 34), (imm, 0)]
def wTwait (n imm : Nat) : W64 := enc [(34, 58), (n, 41), (imm, 0)]
def wConv (op n rs depth : Nat) : W64 := enc [(35, 58), (op, 56), (n, 47), (rs, 42), (depth, 32)]

theorem witness_TagRanges :
    runs (oneCore (wTag 0 8191 1)) 0 .tagFill (wTag 0 8191 1) = true ∧
    runs (oneCore (wTag 1 0 8192)) 0 .tagDrain (wTag 1 0 8192) = true ∧
    executes (oneCore (wTag 0 8191 2)) 0 .tagFill (wTag 0 8191 2) = true ∧
    executes (oneCore (wTag 1 8191 2)) 0 .tagDrain (wTag 1 8191 2) = true ∧
    claimRuns (oneCore (wTag 1 8191 2)) 0 0 = true := by decide

theorem witness_Tallies :
    coreOwnsTally (oneCore 0) 0 1023 = true ∧
    runs (oneCore (wTally 0 1023 1 5)) 0 .tallyAdd (wTally 0 1023 1 5) = true ∧
    runs (oneCore (wTally 1 1023 1 5)) 0 .tallyAddFetch (wTally 1 1023 1 5) = true ∧
    runs (oneCore (wTally 2 1023 1 5)) 0 .tallySet (wTally 2 1023 1 5) = true ∧
    runs (oneCore (wTally 3 1023 1 5)) 0 .tallyRead (wTally 3 1023 1 5) = true := by decide

theorem witness_Tallies2 :
    runs (oneCore (wTwait 7 0)) 0 .twait (wTwait 7 0) = true ∧ coreOwnsTally (oneCore (wTwait 7 0)) 0 7 = true ∧
    reached (tallyAt (oneCore (wTwait 7 0)) 7) 0 = true ∧ reached (tallyAt (oneCore (wTwait 7 1)) 7) 1 = false ∧
    runs { oneCore (wTwait 7 1) with waits := copies 256 ⟨7, 1, .closing 0, 0⟩ } 0 .twait (wTwait 7 1) = true ∧
    executes (oneCore (wTwait 1024 0)) 0 .twait (wTwait 1024 0) = true ∧
    coreOwnsTally (oneCore (wTwait 1024 0)) 0 1024 = false ∧ claimRuns (oneCore (wTwait 1024 0)) 0 0 = true := by decide

theorem witness_ConveyorOperations :
    coreOwnsConveyor (oneCore 0) 0 7 = true ∧
    runs { oneCore (wConv 0 7 4 0) with conveyors := [(7, { pop := some ⟨.seq 1, 2, 0⟩ })] } 0 .push (wConv 0 7 4 0) = true ∧
    runs { oneCore (wConv 0 7 4 0) with conveyors := [(7, { depth := 1, handles := [{}], push := some ⟨.seq 1, {}, 0⟩ })] } 0
      .push (wConv 0 7 4 0) = true ∧
    runs { oneCore (wConv 1 7 4 0) with conveyors := [(7, { depth := 1, handles := [{}], push := some ⟨.seq 1, {}, 0⟩ })] } 0
      .pop (wConv 1 7 4 0) = true ∧
    runs { oneCore (wConv 1 7 4 0) with conveyors := [(7, { pop := some ⟨.seq 1, 2, 0⟩ })] } 0 .pop (wConv 1 7 4 0) = true ∧
    runs (oneCore (wConv 2 7 0 32)) 0 .reset (wConv 2 7 0 32) = true := by decide

def wMma : W64 := enc [(8, 58), (15, 54), (256, 45), (64, 38), (64, 30), (0, 22), (1, 20), (3, 16), (3, 12)]
def wMmaR : W64 := enc [(9, 58), (15, 54), (1, 45), (64, 38), (64, 30), (3, 16), (3, 12), (4, 6)]
def wSload : W64 := enc [(10, 58), (3, 42)]
def wSwap : W64 := enc [(11, 58)]
def wFill : W64 := enc [(14, 58), (4, 53), (2, 24), (3, 10)]
def wAttend : W64 := enc [(15, 58), (5, 41)]
def wDrain (rows : Nat) : W64 := enc [(12, 58), (15, 54), (rows, 37), (3, 21)]
def wPass (rows : Nat) : W64 := enc [(16, 58), (3, 42), (rows, 26), (2, 21)]
def wDot : W64 := enc [(17, 58), (4, 50), (8, 46), (64, 30), (3, 26), (3, 22), (1, 16), (30, 11)]
def wConvert : W64 := enc [(18, 58), (2, 54), (3, 50), (100, 24), (30, 19)]
def wWide (op : Nat) : W64 := enc [(op, 58), (9, 52), (4, 47), (1, 33)]
def wLane : W64 := enc [(21, 58), (2, 52), (1, 46), (2, 40), (3, 34), (1, 23), (6, 18)]
def wCatt : W64 := enc [(13, 58), (5, 42), (2, 38)]
def wMove (n : Nat) : W64 := enc [(24, 58), (1, 57), (7, 40), (n, 24)]
def wMoveh (h n : Nat) : W64 := enc [(25, 58), (h, 54), (7, 37), (n, 21)]

/-- A core with both chains attached; and one whose matrix and dressing queues are full. -/
def attached : SeqState := { prologue := some ⟨1, 0⟩, epilogue := some ⟨2, 0⟩ }
def fullQueues : CoreState :=
  { mat := { queue := copies 8 ⟨0, .sload 0 3 0 false⟩ }, drs := { queue := copies 16 ⟨0, .wst 0 0⟩ } }

theorem witness_QueueIssue :
    runs (oneCore wMma attached) 0 .mma wMma = true ∧ runs (oneCore wMmaR attached) 0 .mmaR wMmaR = true ∧
    runs (oneCore wSload) 0 .sload wSload = true ∧ runs (oneCore wSwap attached) 0 .swap wSwap = true ∧
    runs (oneCore wFill) 0 .fill wFill = true ∧ runs (oneCore wAttend) 0 .attend wAttend = true ∧
    executes (oneCore wMma {} fullQueues) 0 .mma wMma = true ∧
    executes (oneCore wMmaR {} fullQueues) 0 .mmaR wMmaR = true ∧
    executes (oneCore wSload {} fullQueues) 0 .sload wSload = true ∧
    executes (oneCore wSwap {} fullQueues) 0 .swap wSwap = true ∧
    executes (oneCore wFill {} fullQueues) 0 .fill wFill = true ∧
    executes (oneCore wAttend {} fullQueues) 0 .attend wAttend = true := by decide

theorem witness_QueueIssue2 :
    runs (oneCore (wDrain 256)) 0 .drain (wDrain 256) = true ∧ runs (oneCore (wDrain 0)) 0 .drain (wDrain 0) = true ∧
    runs (oneCore (wPass 9)) 0 .pass (wPass 9) = true ∧ runs (oneCore (wPass 0)) 0 .pass (wPass 0) = true ∧
    runs (oneCore wDot) 0 .dot wDot = true ∧ runs (oneCore wConvert) 0 .conv wConvert = true ∧
    runs (oneCore (wWide 19)) 0 .wld (wWide 19) = true ∧ runs (oneCore (wWide 20)) 0 .wst (wWide 20) = true ∧
    runs (oneCore wLane) 0 .lane wLane = true ∧ executes (oneCore wDot {} fullQueues) 0 .dot wDot = true ∧
    executes (oneCore wConvert {} fullQueues) 0 .conv wConvert = true ∧
    executes (oneCore wLane {} fullQueues) 0 .lane wLane = true := by decide

theorem witness_ChainAttach : runs (oneCore wCatt) 0 .catt wCatt = true ∧
    runs (oneCore wCatt attached { bench := { bytes := [(647, 0x40)] } }) 0 .catt wCatt = true ∧
    fieldOf (benchWord (oneCore wCatt attached { bench := { bytes := [(647, 0x40)] } }) 0 640 0) 63 62 = 1 := by decide

theorem witness_MoverLists :
    runs (oneCore (wMove 0)) 0 .move (wMove 0) = true ∧ runs (oneCore (wMove 65535)) 0 .move (wMove 65535) = true ∧
    runs (oneCore (wMoveh 0 4)) 0 .moveh (wMoveh 0 4) = true ∧ runs (oneCore (wMoveh 0 0)) 0 .moveh (wMoveh 0 0) = true ∧
    coreOwner (oneCore 0) 0 = some 0 ∧ (claimAt (oneCore 0) 0).hubMovers.testBit 0 = true ∧
    executes (oneCore (wMoveh 15 4)) 0 .moveh (wMoveh 15 4) = true ∧ claimRuns (oneCore (wMoveh 15 4)) 0 0 = true ∧
    (claimAt (oneCore 0) 0).hubMovers.testBit 15 = false := by decide

theorem witness_IllegalWords :
    seqCan (oneCore (enc [(63, 58)])) 0 = true ∧ rowOf (enc [(63, 58)]) = none ∧ claimRuns (oneCore (enc [(63, 58)])) 0 0 = true ∧
    anyPoison 8 (coreAt (oneCore (enc [(63, 58)])) 0).bench.poison instrBase 8 = false ∧
    instrAt (oneCore (enc [(63, 58)])) 0 0 = enc [(63, 58)] ∧
    rowOf (enc [(11, 58), (1, 0)]) = some .swap ∧ illegalReason .swap (enc [(11, 58), (1, 0)]) = some 3 ∧
    rowOf (enc [(35, 58), (31, 42)]) = some .push ∧ illegalReason .push (enc [(35, 58), (31, 42)]) = some 5 ∧
    rowOf (enc [(17, 58), (200, 50), (1, 46)]) = some .dot ∧ illegalReason .dot (enc [(17, 58), (200, 50), (1, 46)]) = some 4 ∧
    rowOf (enc [(4, 58), (9, 54)]) = some .br ∧ illegalReason .br (enc [(4, 58), (9, 54)]) = some 2 := by decide

/-- Window 0 of claim 0: an export of `place` for rank 0 and claim 0, with every permission, tallies 0 to 15 and conveyors 0
to 7. -/
def someExport (place : Nat) : Window :=
  { kind := 1, w0 := enc [(7, 56), (1, 46)], w1 := BitVec.ofNat 64 place, w2 := enc [(4096, 16)], w3 := 1
    w4 := enc [(16, 29), (8, 10)] }

def withWindow (place : Nat) (s : State) : State := { s with fabric := { s.fabric with windows := [(0, someExport place)] } }

/-- A module of rank 0 in a group of 16, whose link 0 to rank 1 is up. -/
def inGroup (s : State) : State :=
  { s with group := { s.group with stage := .formed, rank := 0, members := 16 }
           fabric := { s.fabric with links := [(0, { mode := .up8 })] } }

def wRtally (rank : Nat) : W64 := enc [(41, 58), (rank, 44), (5, 27), (1, 26), (3, 21)]
def wRpush (rank : Nat) : W64 := enc [(42, 58), (rank, 44), (7, 35), (3, 30)]
def wPost (rank : Nat) : W64 := enc [(40, 58), (rank, 44), (3, 39), (1, 23)]
def wWfence : W64 := enc [(43, 58)]
def wCstep : W64 := enc [(44, 58), (64, 41)]
def fullNet : CoreState := { net := { queue := copies 8 (.wfence 0 0) } }

theorem witness_NetInstructions :
    runs (withWindow (2 ^ 60) (oneCore (wRtally 0))) 0 .rtally (wRtally 0) = true ∧
    reach (withWindow (2 ^ 60) (oneCore (wRtally 0))) (.netPort 0) 0 0 0 0 (.tallyAdd 5 0) = .own 0 ∧
    runs (inGroup (oneCore (wRtally 1))) 0 .rtally (wRtally 1) = true ∧
    reach (inGroup (oneCore (wRtally 1))) (.netPort 0) 0 1 0 0 (.tallyAdd 5 0) = .away ∧
    runs (withWindow (2 ^ 60) (oneCore (wRpush 0))) 0 .rpush (wRpush 0) = true ∧
    reach (withWindow (2 ^ 60) (oneCore (wRpush 0))) (.netPort 0) 0 0 0 0 (.convPush 7 0 0) = .own 0 ∧
    reach (inGroup (oneCore (wRpush 1))) (.netPort 0) 0 1 0 0 (.convPush 7 0 0) = .away ∧
    runs (withWindow (2 ^ 60) (oneCore (wPost 0))) 0 .post (wPost 0) = true ∧
    benchGate (withWindow (2 ^ 60) (oneCore (wPost 0))) 0 0 64 true = .go ∧
    targetGate (withWindow (2 ^ 60) (oneCore (wPost 0))) 0 ⟨1, 0, 0⟩ 64 false = .go ∧
    targetGate (withWindow 0 (oneCore (wPost 0))) 0 ⟨0, 0, 0⟩ 64 false = .go ∧
    winPlace (someExport (2 ^ 60)) 0 = ⟨1, 0, 0⟩ ∧ winPlace (someExport 0) 0 = ⟨0, 0, 0⟩ ∧
    runs (oneCore wWfence) 0 .wfence wWfence = true ∧ engineOut (oneCore wWfence) (.netPort 0) = false ∧
    coreOwner (oneCore wWfence) 0 = some 0 := by decide

theorem witness_NetInstructions_post :
    reach (withWindow (2 ^ 60) (oneCore (wPost 0))) (.netPort 0) 0 0 0 0 (.write (copies 64 0) .plain none) = .own 0 ∧
    reach (inGroup (oneCore (wPost 1))) (.netPort 0) 0 1 0 0 (.write (copies 64 0) .plain none) = .away := by decide

theorem witness_NetInstructions_stall :
    executes (oneCore (wPost 0) {} fullNet) 0 .post (wPost 0) = true ∧
    executes (oneCore (wRtally 0) {} fullNet) 0 .rtally (wRtally 0) = true ∧
    executes (oneCore (wRpush 0) {} fullNet) 0 .rpush (wRpush 0) = true ∧
    executes (oneCore wWfence {} fullNet) 0 .wfence wWfence = true ∧
    executes (oneCore wCstep {} fullNet) 0 .cstep wCstep = true := by decide

/-- An INT8 MMA of one row and one column over K = 2, and its slice of array 0 and tile. -/
def intOp : MmaOp :=
  { mask := 1, m := 1, n := 1, k := 2, base := 255, acc := true, swap := false, sfmt := 5, wfmt := 5, sat := false, source := 0 }
def intSlice : Slice := ⟨0, [255, 3], []⟩
def intTile : Tile := { fmt := 5, rows := [7] ++ copies 63 0 ++ [5] }

/-- Core 0 with a matrix unit of its own. -/
def oneMatrix (m : MatState) : State := oneCore 0 {} { mat := m }

theorem witness_TilesAndMmaStarts :
    unitLive (oneMatrix { queue := [⟨0, .sload 0 5 0 false⟩] }) 0 = true ∧ sloadFault 0 5 0 false = none ∧
    unitLive (oneMatrix { queue := [⟨0, .sload 0 5 0 false⟩], shadow := .ready }) 0 = true ∧
    unitLive (oneMatrix { queue := [⟨0, .mma intOp⟩], activeValid := true }) 0 = true ∧
    mmaFault { activeValid := true } intOp = none ∧
    mmaFault { shadow := .ready } { intOp with m := 0, swap := true } = none ∧
    mmaFault { activeValid := true } { intOp with m := 0 } = none ∧
    mmaFault { activeValid := true } { intOp with k := 0 } = none ∧
    mmaFault { activeValid := true } { intOp with k := 0, acc := false } = none ∧
    rowsFree (oneMatrix { queue := [⟨0, .mma { intOp with k := 0, acc := false }⟩], activeValid := true }) 0 0
      { intOp with k := 0, acc := false } = true := by decide

theorem witness_TilesAndMmaStarts2 :
    unitLive (oneMatrix { queue := [⟨0, .mma { intOp with m := 2 }⟩], activeValid := true }) 0 = true ∧
    claimRuns (oneMatrix { queue := [⟨0, .mma { intOp with m := 2 }⟩], activeValid := true }) 0 0 = true ∧
    mmaFault { activeValid := true } { intOp with m := 2 } = some .mmaRange ∧
    mmaFault { activeValid := true } { intOp with wfmt := 1 } = some .mmaFormat ∧
    mmaFault { activeValid := true, fenced := 1 } intOp = some .arrFenced ∧ mmaFault {} intOp = some .arrNoTile := by decide

theorem witness_TilesAndMmaStarts3 :
    badChain (oneMatrix {}) 0 ⟨0, 0⟩ = none ∧ badChain (oneCore 0 {} { bench := { bytes := [(647, 0x80)] } }) 0 ⟨5, 0⟩ = some (⟨5, 0⟩, 3) ∧
    (checkOf [.fin false 3 0, .fin true 1 (-2)]).2 = true ∧ (checkOf [.fin false 3 0, .fin true 1 (-2)]).1.mag = 11 := by decide

theorem witness_SlicesEnter :
    unitLive (oneMatrix { run := some ⟨0, intOp, 0⟩ }) 0 = true ∧
    prologuePending (oneMatrix { run := some ⟨0, intOp, 0⟩ }) 0 0 0 = false ∧
    drainHold (oneMatrix { run := some ⟨0, intOp, 0⟩ }) 0 0 255 = false ∧
    drainHold (oneCore 0 {} { mat := { run := some ⟨3, intOp, 0⟩ }
                              drs := { queue := [⟨1, .drain ⟨0, 0⟩ ⟨1, 1, 64, 255⟩ false true⟩] } }) 0 3 255 = true ∧
    beatsRun (oneMatrix {}) 0 = true := by decide

/-- The same tile with its check column. -/
def checkedTile : Tile := withChecks 2 intTile

theorem witness_RowsLand :
    rowFails ⟨0, intOp, 0, [intSlice], checkedTile⟩ [] (fun _ _ => 0) = [] ∧
    (rowFails ⟨0, intOp, 0, [intSlice], checkedTile⟩ [⟨0, false, 0, .sum 5 1 0⟩] (fun _ _ => 0)).map
      (fun x => (x.array, x.reason)) = [(0, 1)] ∧ claimRuns (oneMatrix {}) 0 0 = true := by decide +kernel

theorem witness_RowsLand2 :
    stateWf (oneMatrix { flight := [⟨0, intOp, 0, [intSlice], intTile⟩] }) = true ∧
    unitLive (oneMatrix { flight := [⟨0, intOp, 0, [intSlice], intTile⟩] }) 0 = true ∧
    tileMatches intOp intTile = true := by decide

theorem test_int8_row : (columnResult intOp intSlice intTile 1000 0).acc = 1008 := by decide

theorem witness_IntegerRows : intOp.sfmt = 5 ∧ intOp.wfmt = 5 ∧ intTile.packed = false ∧ tileMatches intOp intTile = true ∧ intOp.n ≤ 64 ∧
    intSlice.array < 4 ∧ intOp.base + 0 < 256 := by decide

/-- A fill of 64 B from bench offset 0 into activation chute 1; its descriptor lies at offset 128. -/
def someFill : FillOp := { mode := 0, target := 1, coff := 3, dh := 2, m := 0, reg := 0 }
def fillCore (d : Byte) : CoreState :=
  { mat := { queue := [⟨0, .fill someFill⟩] }
    bench := { bytes := [(0, 9), (142, d), (151, 0), (148, 1), (167, 0x0C)] } }

theorem witness_FillsChutes :
    unitLive (oneCore 0 {} (fillCore 63)) 0 = true ∧ benchGate (oneCore 0 {} (fillCore 63)) 0 128 64 true = .go ∧
    ((walkPlan (oneCore 0 {} (fillCore 63)) 0 someFill (benchWords (oneCore 0 {} (fillCore 63)) 0 128 8)).map
      fun p => (p.mark, p.areas.length, fillWaits {} p,
        gates (fun o n => benchGate (oneCore 0 {} (fillCore 63)) 0 o n true) (p.reads ++ p.scaleReads),
        sealBroken (oneCore 0 {} (fillCore 63)) 0 (p.reads ++ p.scaleReads))) = some (0, 1, false, .go, false) := by decide

theorem witness_FillsChutes_bad :
    walkPlan (oneCore 0 {} { fillCore 63 with bench := { bytes := [(184, 1)] } }) 0 someFill
      (benchWords (oneCore 0 {} { fillCore 63 with bench := { bytes := [(184, 1)] } }) 0 128 8) = none ∧
    claimRuns (oneCore 0 {} { fillCore 63 with bench := { bytes := [(184, 1)] } }) 0 0 = true := by decide

/-- Core 0 with a dressing queue of one item. -/
def oneDressing (i : DrsItem) (k : CoreState := {}) : State := oneCore 0 {} { k with drs := { queue := [⟨0, i⟩] } }

/-- A bench with a chain descriptor at handle 1 (offset 128): no stage, FP32 output to offset 4096, row stride 1024. -/
def chainBench : BenchState := { bytes := [(129, 4), (137, 0x10)] }

theorem witness_DressingItems :
    unitLive (oneDressing (.wld 63 512)) 0 = true ∧ coreOwner (oneDressing (.wld 63 512)) 0 = some 0 ∧
    benchGate (oneDressing (.wld 63 512)) 0 512 512 true = .go ∧ benchGate (oneDressing (.wst 0 0)) 0 0 512 false = .go ∧
    unitLive (oneDressing (.lane 0 1 2 3 4 5 true false 0)) 0 = true ∧
    unitLive (oneDressing (.lane 12 1 2 3 4 5 true false 0)) 0 = true ∧
    benchGate (oneDressing (.conv 1 0 true 7 0 0)) 0 0 (fmtBytes 1 7) true = .go ∧
    benchGate (oneDressing (.conv 1 0 true 7 0 0)) 0 0 (fmtBytes 0 7) false = .go ∧ fmtBits 0 * 7 % 8 = 0 ∧
    pairAllowed 5 5 = true ∧ benchGate (oneDressing (.dot 1 1 64 5 5 0 0 0 0)) 0 0 (fmtBytes 5 64) true = .go := by decide

theorem witness_Drains :
    unitLive (oneDressing (.drain ⟨1, 0⟩ ⟨1, 1, 2, 255⟩ false true) { bench := chainBench }) 0 = true ∧
    claimRuns (oneDressing (.drain ⟨1, 0⟩ ⟨1, 2, 2, 255⟩ false true) { bench := chainBench }) 0 0 = true ∧
    benchGate (oneDressing (.drain ⟨1, 0⟩ ⟨1, 1, 2, 255⟩ false true) { bench := chainBench }) 0 128 128 true = .go ∧
    rowsComplete (oneDressing (.drain ⟨1, 0⟩ ⟨1, 1, 2, 255⟩ false true) { bench := chainBench }) 0 0 1 255 1 = true := by decide

theorem witness_Drains_chain :
    let s := oneDressing (.drain ⟨1, 0⟩ ⟨1, 1, 2, 255⟩ false true) { bench := chainBench }
    let d := chainOf (benchWords s 0 128 16)
    let x : TileCtx := ⟨0, d, 4, nextTile s 0 1 d, 2, 1⟩
    chainFault 0 d 0 0 4 1 = none ∧ d.stages = [] ∧ d.outFmt = 0 ∧ d.outNone = false ∧ d.rowStride = 1024 ∧
      d.outTagged = false ∧ accessOut s (.dressing 0) = false ∧ rowIndices 1 1 = [0] ∧
      gates (fun o n => benchGate s 0 o n false) (elemOut x 0 ++ scaleOut [] x 0) = .go := by decide

/-- A chain with one stage, a marker of the variant, on tally 5 with target 3. -/
def markerWords (variant : Nat) : List W64 :=
  [enc [(1, 58)], 0, enc [(14, 60), (variant, 56), (5 * 2 ^ 15 + 3, 0)]]
def markerStage (variant : Nat) : Stage := ⟨14, variant, 0, 0, 0, 5 * 2 ^ 15 + 3⟩
def closingItem (variant : Nat) : DrsItem := .closing ⟨1, 0⟩ (markerWords variant) [] [] 0 [] false

theorem witness_ClosingPasses :
    markerOf (chainOf (markerWords 0)) = some (markerStage 0) ∧ markerOf (chainOf (markerWords 1)) = some (markerStage 1) ∧
    unitLive (oneDressing (closingItem 0)) 0 = true ∧ ownsTally (oneDressing (closingItem 1)) 0 5 = true ∧
    reached (tallyAt { oneDressing (closingItem 1) with tallies := [(5, 3)] } 5) 3 = true ∧
    reached (tallyAt (oneDressing (closingItem 1)) 5) 3 = false ∧ claimRuns (oneDressing (closingItem 1)) 0 0 = true ∧
    (runUnits 0 0 (closingJob 0 ⟨1, 0⟩ (markerStage 0) (chainOf (markerWords 0)) [] false) [] [] []
      (beginPart 0 1 0 (markerWords 0) [] 0 (oneDressing (closingItem 0)))).1 = true ∧
    ownsTally { oneDressing (closingItem 1) with claims := [(0, { someClaim with tallyUnits := 0 })] } 0 5 = false := by decide

/-- An attention descriptor of no keys: all formats E4M3, group 1, no output; the closing names tally 5. -/
def attWords (last : Nat) : List W64 :=
  [enc [(last, 62), (3, 52), (3, 48), (3, 44), (1, 40)], 0, 0, 0, 0, 0, enc [(5, 25)], enc [(1, 61), (512, 39)]]

/-- Core 0 with an attention call at the head of both queues, its descriptor at handle 64. -/
def oneAttend (words : List W64) : State :=
  oneCore 0 {} { mat := { queue := [⟨0, .attend ⟨64, 0⟩⟩] }, drs := { queue := [⟨0, .attend ⟨64, 0⟩⟩] }
                 bench := { bytes := tputN 0 [] 4096 (bytesOf words) } }

theorem witness_AttentionCalls :
    unitLive (oneAttend (attWords 1)) 0 = true ∧ benchGate (oneAttend (attWords 1)) 0 4096 64 true = .go ∧
    benchWords (oneAttend (attWords 1)) 0 4096 8 = attWords 1 ∧
    attFault 0 (attWords 1) (chainOf (benchWords (oneAttend (attWords 1)) 0 0 16)) = none ∧ runTileList (attOf (attWords 1)) = [] ∧
    claimRuns (oneAttend (attWords 1)) 0 0 = true ∧
    attFault 0 [enc [(3, 58)], 0, 0, 0, 0, 0, 0, 0] (chainOf []) = some 1 := by decide

theorem witness_AttentionClosings :
    unitLive (oneCore 0 {} { att := { call := some ⟨0, ⟨64, 0⟩, attWords 1, 0, []⟩ } }) 0 = true ∧
    ownsTally (oneCore 0 {} { att := { call := some ⟨0, ⟨64, 0⟩, attWords 1, 0, []⟩ } }) 0 5 = true ∧
    ((attOf (attWords 1)).last && (attOf (attWords 1)).outEn) = false ∧ (attOf (attWords 1)).tally = 5 ∧
    (attOf (attWords 0)).last = false := by decide

/-- Core 0 with slot 0 full and a read of it that waits. -/
def heldCore (op : HeldOp) (full isWrite : Bool) : State :=
  oneCore 0 {} { bench := { tags := if full then [(0, true)] else []
                            held := [{ eng := .dressing 0, port := .pDress, offset := 0, op := op, mark := .pass, isWrite := isWrite }] } }

theorem witness_BenchAccesses :
    portServes 0 (.dressing 0) .pDress true = true ∧ portServes 0 (.matrix 0) .pArray false = true ∧
    portServes 0 (.matrix 0) .pArray true = false ∧ accessWaits (oneCore 0) 0 (.dressing 0) .pDress 448 64 true .pass = false ∧
    accessWaits (oneCore 0) 0 (.dressing 0) .pDress 448 64 false .pass = true ∧
    accessWaits (heldCore (.access (.read 64)) false false) 0 (.dressing 0) .pDress 0 64 false .plain = true ∧ engineClaim (oneCore 0) (.dressing 0) = some 0 ∧
    taskLive (oneCore 0) 0 = true ∧ coreOwner (oneCore 0) 0 = some 0 ∧ benchGate (oneCore 0) 0 448 64 true = .go ∧
    benchGate (oneCore 0) 0 448 64 false = .go ∧
    waitRegisters (oneCore 0) 0 .pDress (.dressing 0) = true ∧ portNo .pDress < portNo .pNet ∧
    benchBank 0x7FFFF = benchBank 0 ∧ (coreAt (oneCore 0) 0).bench.fault.fault = false ∧
    (∀ x ∈ unitsIn 1024 0 64, tagFull (heldCore .item true false) 0 x = true) ∧
    (∀ x ∈ unitsIn 1024 0 64, tagFull (oneCore 0) 0 x = false) := by decide

theorem witness_BenchAccesses2 :
    (coreAt (heldCore (.access (.read 64)) true false) 0).bench.held[0]?.isSome = true ∧
    (∀ y ∈ unitsIn 1024 0 64, tagFull (heldCore (.access (.read 64)) true false) 0 y = true) ∧
    (∀ y ∈ unitsIn 1024 0 64, tagFull (heldCore (.access (.write [1])) false true) 0 y = false) ∧
    benchGate (heldCore (.load 3 8) true false) 0 0 8 true = .go ∧ benchGate (heldCore (.store [1]) false true) 0 0 1 false = .go ∧
    beatsRun (heldCore (.load 3 8) true false) 0 = true ∧
    heldBehind [] { eng := .dressing 0, port := .pDress, offset := 0, op := .item, mark := .pass, isWrite := false } = false := by
  decide

theorem witness_GalleryAndDram :
    engineRuns (oneCore 0) (.coreMover 0 false) 0 = true ∧ reachesDram (.coreMover 0 false) = true ∧
    parkedFor (oneCore 0) (.coreMover 0 false) (bankDest 0) = false ∧
    parkedFor (oneCore 0) (.coreMover 0 false) (.dram 3) = false ∧
    spotFor (oneCore 0) (.coreMover 0 false) true 0 (BitVec.ofNat 64 (3 * 2 ^ 60 + 64)) 4
      (.write (leBytes 4 (reduceRow (oneCore 0) 0 1 false).toNat) .plain none) = .host 0 64 ∧
    galGate (oneCore 0) (some 0) 0 128 true = .go ∧
    galGate (oneCore 0) (some 0) 786420 12 false = .go ∧ galBank 0 = galBank (0 + 786432 - 1) ∧
    galGate (oneCore 0) (some 0) 0 786432 false = .go ∧ dramGate (oneCore 0) (some 0) 639999936 64 true = .go ∧
    dramGate (oneCore 0) (some 0) 3 5 false = .go ∧ galBank 0 = galBank (0 + 4 * 196608 - 1) ∧
    galBank 786428 ≠ galBank (786428 + 4 * 2 - 1) ∧ quantTarget 9 = true ∧ quantFits true 64 9 = true ∧ quantTarget 3 = true ∧
    quantFits false 4 3 = true := by decide

theorem witness_ShapedReads :
    engineRuns (oneCore 0) (.netPort 0) 0 = true ∧ parkedFor (oneCore 0) (.netPort 0) (bankDest 0) = false ∧
    walkFits 1 [(3, 2), (2, 64)] = true ∧ inOneBank (elemRanges (transRowBytes 0) (transRows 0 64)) = true ∧
    gates (fun a n => galGate (oneCore 0) (some 0) a n true) (elemRanges (transRowBytes 3) (transRows 4096 (-64))) = .go ∧
    gates (fun a n => galGate (oneCore 0) (some 0) a n true) (elemRanges 2 (walkFrom [(3, 2), (2, 64)] 0)) = .go ∧
    gatherFits 128 = true ∧ gatherFits 64 = false ∧ galGate (oneCore 0) (some 0) 0 8 true = .go ∧
    gatherGate (oneCore 0) 0 (gatherRows (oneCore 0) 0 2 128 128) 128 = .go := by decide

/-- An add of two INT32 elements in the turn of contributor 0 of counter 3, or without a turn. -/
def someAcc (turn : Option TurnRef) : AccReq := ⟨.netPort 0, 128, .iadd, leBytes 4 5 ++ leBytes 4 0xFFFFFFFF, turn⟩

/-- Core 0's claim with turn counter 3 of two contributors. -/
def withTurn (x : TurnCounter) : State :=
  { oneCore 0 with gallery := { ready := 1, turns := [(3, { x with count := 2, tally := 5, tallyEn := true })] } }

theorem witness_AccumulatesInTurn :
    engineRuns (withTurn {}) (.netPort 0) 0 = true ∧ galGate (withTurn {}) (some 0) 128 (max 1 8) true = .go ∧ parkedFor (withTurn {}) (.netPort 0) (bankDest 128) = false ∧
    turnOwner (withTurn {}) 3 = some 0 ∧ ownsTally (withTurn {}) 0 5 = true ∧ isFin (num32 (word32 (leBytes 4 5))) = true ∧
    (someAcc none).data.length % 4 = 0 ∧ 3 / 64 = galSlice 128 ∧ (turnAt (withTurn {}) 3).owner = none ∧
    (turnAt (withTurn { next := 1 }) 3).next + 1 = (turnAt (withTurn { next := 1 }) 3).count ∧
    (turnAt (withTurn { hold := some (.request (someAcc (some ⟨3, 0, true⟩)) (some 0)) }) 3).hold = some (.request (someAcc (some ⟨3, 0, true⟩)) (some 0)) ∧
    ownsTurn (withTurn {}) 0 3 = true ∧ (turnAt (withTurn { owner := some (.netPort 0) }) 3).owner ≠ none ∧
    galGate (withTurn { hold := some (.request (someAcc (some ⟨3, 0, true⟩)) (some 0)) }) (some 0) 128 8 true = .go := by decide

/-- The bound function 0 and a claim without a task. -/
def idleClaim : State := { oneCore 0 with claims := [(0, { someClaim with task := none })] }

theorem witness_MemoryPower :
    actsFor (oneCore 0) 0 0 = true ∧ coreOwner (oneCore 0) 0 = some 0 ∧ dieInReach (oneCore 0) 0 = true ∧
    taskOn (oneCore 0) 0 = true ∧ taskOn idleClaim 0 = false ∧ (boundClaim idleClaim 0).isSome = true ∧
    bankOwner idleClaim 0 = some 0 ∧ regionOwner idleClaim 0 = some 0 ∧ (claimAt idleClaim 0).task = none ∧
    inSet (coreAt (oneCore 0 {} { bench := { ready := 1 } }) 0).bench.ready 15 = false ∧
    inSet idleClaim.gallery.ready 511 = false ∧ inSet idleClaim.gallery.off 511 = false ∧
    inSet idleClaim.dram.ready 224 = false ∧ inSet idleClaim.dram.off 224 = false ∧
    inSet { idleClaim.dram with zeroing := 2 }.zeroing 1 = true := by decide

/-- A block descriptor: a copy of 8 bytes within gallery bank 0. -/
def copyWords (op credit : Nat) : List W64 :=
  [BitVec.ofNat 64 (2 ^ 60), BitVec.ofNat 64 (2 ^ 60 + 1024), enc [(7, 48)], 0, 0, 0,
    enc [(1, 60), (op, 44), (credit, 37)], 0]

/-- Hub mover 0 of claim 0 with a list of one block, its descriptor at handle 1 of core 0. -/
def oneMover (words : List W64) (v : MoverState := {}) : State :=
  { oneCore 0 {} { bench := { bytes := tputN 0 [] 64 (bytesOf words) } } with
      hubMovers := [(0, { v with lists := [{ core := 0, handle := 1, count := 1, params := { creditEn := true, creditBase := 7 } }] })] }

theorem witness_MoverBlocks :
    let s := oneMover (copyWords 0 0)
    engineClaim s (.hubMover 0) = some 0 ∧ moverRuns s (.hub 0) = true ∧ (moverAt s (.hub 0)).prog = none ∧
    writingBlock (moverAt s (.hub 0)) = none ∧
    benchGate s 0 64 64 true = .go ∧ benchWords (oneMover (copyWords 0 1)) 0 64 8 = copyWords 0 1 ∧
    blockReason (blockOf (copyWords 0 0)) {} = none ∧ blockReason (blockOf (copyWords 9 0)) {} = some 1 ∧
    blockReason (blockOf (copyWords 0 1)) { creditEn := true } = none ∧ runCount (blockOf (copyWords 0 0)) = 1 ∧
    ownsTally (oneMover (copyWords 0 1)) 0 0 = true ∧ reached (tallyAt (oneMover (copyWords 0 1)) 0) 8 = false ∧
    (blockOf (copyWords 0 0)).src = galPlace 0 ∧ (blockOf (copyWords 0 0)).dst = galPlace 1024 ∧
    galGate s (some 0) 0 8 true = .go ∧ galGate s (some 0) 1024 8 false = .go ∧ (coreAt s 0).net.queue = [] ∧
    fieldOf (wordAt (copyWords 0 0) 6) 63 60 = 1 := by decide

/-- Hub mover 0 with one outstanding block of completion `cmpl`. -/
def oneOut (dst : Nat) (cmpl arg : Nat) : State :=
  oneMover [] { out := [{ core := 0, handle := 1, block := 0, op := 0, dst := BitVec.ofNat 64 dst, todo := [], bytes := 128
                          cmpl := cmpl, arg := arg, ranges := [(0, 3072, 128)], cls := 2, last := true }] }

theorem witness_MoverCompletions :
    moverRuns (oneOut 0 0 0) (.hub 0) = true ∧ ownsTally (oneOut 0 1 (5 * 2 ^ 15 + 1)) 0 5 = true ∧
    ownsTally (oneOut 0 1 (2000 * 2 ^ 15)) 0 2000 = false ∧ ownsConveyor (oneOut 0 2 (7 * 2 ^ 23)) 0 7 = true ∧
    (conveyorAt { oneOut 0 2 (7 * 2 ^ 23) with conveyors := [(7, { depth := 4 })] } 7).handles.length < 4 ∧
    (conveyorAt { oneOut 0 2 (7 * 2 ^ 23) with conveyors := [(7, { depth := 0 })] } 7).depth ≤ 0 ∧
    windowOut (oneOut 0 1 0) (.hubMover 0) 1 0 = false ∧ pushOut (oneOut 0 1 0) (.hubMover 0) = false ∧
    (placeOf (BitVec.ofNat 64 (4 * 2 ^ 60))).space = 4 ∧ (openBlocks (moverAt (oneOut 0 0 0) (.hub 0)))[0]? = some (2, 0) ∧
    (claimAt { oneOut 0 0 0 with claims := [(0, { someClaim with rtMode := true })] } 0).rtMode = true := by decide

theorem witness_MoverCompletions_away :
    let s := inGroup { oneOut (4 * 2 ^ 60) 1 (5 * 2 ^ 15 + 1) with
      fabric := { windows := [(0, { kind := 2, w5 := enc [(1, 50)] })] } }
    reach s (.hubMover 0) 0 (fieldOf (windowAt s 0).w5 55 50) (fieldOf (windowAt s 0).w5 63 56) 0 (.tallyAdd 5 1) = .away := by
  decide

/-- Port 0's table with pending requests; slot 1's owner is claim 0. -/
def onePort (rs : List PortReq) : State :=
  { oneCore 0 with fabric := { tables := [(0, { slots := [.firmware, .claim 0], next := 1, pending := rs })]
                               links := [(0, {})] } }

/-- A request of claim 0's net port that waits at entry `i`. -/
def oneReq (i : Nat) : PortReq := { owner := .claim 0, eng := .netPort 0, input := 0, bytes := 64, entry := i }

theorem witness_JunctionGrants :
    ownerLive (onePort []) (portOwner (onePort []) (.netPort 0) false) = true ∧
    portOwner (onePort []) (.netPort 0) false = .claim 0 ∧ pendingAt (onePort []) (.table 0) = [] ∧
    (pathOf (onePort []) (.netPort 0) (.dram 0) none)[0]? = some (.table 20, 12) ∧ portCarries (onePort []) (.table 20) = true ∧
    portCarries (onePort []) (.table 13) = false ∧
    freeEntry (pendingAt (onePort [oneReq 0]) (.table 0)) (.claim 0) = some 8 ∧
    freeEntry (pendingAt (onePort ((upFrom 0 16).map oneReq)) (.table 0)) (.claim 0) = none ∧
    readyRequests (onePort [oneReq 0]) [oneReq 0] = [oneReq 0] ∧ portFlows (onePort []) 0 = true ∧
    ceilingLets (onePort []) 0 = true := by decide

/-- Claim 0's requests for bank 0 at two ports of the slice of die 0. -/
def twoSlices : State :=
  { oneCore 0 with fabric := { slices := [(0, { pending := [oneReq 0] }), (3, { pending := [oneReq 0] })] } }

theorem witness_JunctionGrants_slices :
    portCarries twoSlices (.slice 0 3) = true ∧ sliceHead twoSlices 0 3 = some (oneReq 0) ∧
    sliceHead twoSlices 0 0 = some (oneReq 0) := by decide

theorem witness_JunctionGrants_waits :
    reached (tallyAt { oneCore 0 with tallies := [(5, 3)] } 5) 3 = true ∧ reached (tallyAt (oneCore 0) 5) 3 = false ∧
    ([⟨.wait ⟨5, 3, .seq 0, 0⟩, 2⟩] : List Backoff)[0]? = some ⟨.wait ⟨5, 3, .seq 0, 0⟩, 2⟩ := by decide

/-- Link 0, and its pair's other link. -/
def twoLinks (v w : LinkState) : State := { oneCore 0 with fabric := { links := [(0, v), (1, w)] } }
def upLink : LinkState := { mode := .up8, sent := [⟨7, 0, 1, 0⟩, ⟨8, 0, 1, 15⟩], rxSeq := 4095 }

theorem witness_LinkFlits :
    linkUp (linkAt (twoLinks upLink {}) 0) = true ∧ (linkAt (twoLinks upLink {}) 0).rxSeq < 4096 ∧
    (linkAt (twoLinks upLink {}) 0).sent = [⟨7, 0, 1, 0⟩] ++ ⟨8, 0, 1, 15⟩ :: [] ∧
    (linkAt (twoLinks upLink {}) 0).lanes = [] ∧ (linkAt (twoLinks { upLink with mode := .retraining } {}) 0).mode = .retraining ∧
    (linkAt (twoLinks upLink {}) 0).owed.length = 4 ∧ (twoLinks upLink {}).fabric.replies = [] ∧
    linkUp (linkAt (twoLinks upLink upLink) 1) = true ∧
    engineRuns (twoLinks upLink {}) (.hubMover 0) 0 = true := by decide

/-- A flit of three bytes with the CRC of a sequence number. -/
def someFlit (seq : Nat) : Flit := ⟨[1, 2, 3], crc32c [1, 2, 3, BitVec.ofNat 8 seq, BitVec.ofNat 8 (seq / 256)], 0⟩

theorem witness_LinkFlits_crc :
    flitCrc (someFlit 4095).body 4095 = (someFlit 4095).crc ∧ flitCrc (someFlit 0).body (4095 + 1) = (someFlit 0).crc ∧
    flitCrc (someFlit 5).body 4095 ≠ (someFlit 5).crc := by decide +kernel

theorem witness_LinkFlits_transit :
    linkFor (inGroup (oneCore 0)) 0 0 1 = some (0, 0) ∧ linkUp (linkAt (inGroup (oneCore 0)) 0) = true ∧
    (1 : Rank).val ≠ programRank (inGroup (oneCore 0)) ∧ linkFor (inGroup (oneCore 0)) 0 0 4 = none := by decide

/-- A module whose window 0 exports `place`, and an access to it by rank 0. -/
def inward (off : Nat) (op : RemoteOp) : RemoteAccess := { fromRank := 0, fromClaim := 0, window := 0, offset := off, op := op, link := 0 }

theorem witness_WindowAccesses :
    windowOwner (withWindow (2 ^ 60) (oneCore 0)) 0 = some 0 ∧ windowOwner (oneCore 0) 200 = none ∧
    (windowAt (withWindow 0 (oneCore 0)) 0).kind = 1 ∧ (claimAt (oneCore 0) 0).fenced = false ∧
    (someExport 0).w3.getLsbD 0 = true ∧ (someExport 0).w3.getLsbD 1 = false ∧ (someExport 0).w0.getLsbD 46 = true ∧
    (someExport 0).w0.getLsbD 47 = false ∧ winAllows (someExport 0) (.read 64) = true ∧
    winReaches (someExport 0) 4032 (.read 64) = true ∧ winReaches (someExport 0) 4033 (.read 64) = false ∧
    winReaches (someExport 0) 0 (.tallyAdd 15 1) = true ∧ winReaches (someExport 0) 0 (.tallyAdd 16 1) = false ∧
    winReaches (someExport 0) 0 (.convPush 7 1 1) = true ∧ winReaches (someExport 0) 0 (.convPush 8 1 1) = false ∧
    winOff (oneCore 0) (someExport 0) 0 (.read 64) = false ∧
    winOff (oneCore 0 {} { bench := { off := 1 } }) (someExport 0) 0 (.read 64) = true := by decide

theorem witness_WindowAccesses_gates :
    targetGate (withWindow (2 ^ 60) (oneCore 0)) 0 ⟨1, 0, 0⟩ 64 true = .go ∧
    targetGate (withWindow 0 (oneCore 0)) 0 ⟨0, 0, 0⟩ 64 false = .go ∧
    galGate (withWindow (2 ^ 60) (oneCore 0)) (some 0) 0 64 true = .go ∧
    refusalOf (withWindow (2 ^ 60) (oneCore 0)) 0 0 0 0 (.read 64) = none ∧
    accessWaits (withWindow 0 (oneCore 0)) 0 (.remote 0 0) .pNet 0 64 true .pass = false ∧
    accessBehind (withWindow 0 (oneCore 0)) 0 (.remote 0 0) .pNet 0 64 false .plain = false ∧
    accessWaits (heldCore .item true false) 0 (.remote 0 0) .pNet 0 64 true .pass = true ∧
    waitRegisters (heldCore .item true false) 0 .pNet (.remote 0 0) = true ∧
    absorbed (oneCore 0) 0 8 = false := by decide

theorem witness_WindowDescriptors :
    actsFor (oneCore 0) 0 0 = true ∧ actsFor (oneCore 0) 1 0 = false ∧
    exportFits (oneCore 0) 0 { someExport (2 ^ 60) with w2 := enc [(1024, 16)] } = true ∧
    exportFits (oneCore 0) 0 { someExport (2 ^ 60) with w2 := enc [(1000, 16)] } = false ∧
    engineRuns (oneCore 0) (.netPort 0) 0 = true ∧ (coreAt (oneCore 0) 0).net.fault.fault = false := by decide

/-- Claim 0 with a sump slot: reduction slot 512 or barrier slot 0. -/
def oneSump (i : Nat) (v : SumpSlot) : State :=
  { oneCore 0 with fabric := { sump := [(i, { v with acquired := if i < 512 then none else some 0 })] } }

theorem witness_SumpSlots :
    taskLive (oneSump 512 {}) 0 = true ∧ sumpMine (oneSump 512 {}) 0 512 = true ∧ sumpMine (oneSump 512 {}) 1 512 = false ∧
    sumpMine (oneSump 0 {}) 0 0 = true ∧ sumpMine (oneSump 0 {}) 0 64 = false ∧ sumpInUse (oneSump 512 {}) 0 < someClaim.sump ∧
    (sumpAt (oneSump 512 {}) 513).acquired = none ∧ modeFits (.reduction 64 .fp32 .add) = true ∧
    (sumpAt (oneSump 0 { mode := .barrier 2, count := 1 }) 0).count + 1 = 2 ∧
    (sumpAt (oneSump 512 { mode := .reduction 2 .int32 .add, written := 1 }) 512).mode = .reduction 2 .int32 .add ∧
    inSet 1 0 = true ∧ inSet 1 1 = false ∧ (sumpAt (oneSump 512 { mode := .atomic }) 512).mode = .atomic ∧
    combineParts { mode := .reduction 2 .int32 .add, written := 3 } 1 .int32 .add none ≠ none ∧
    combineUpset .int32 .add 1 [1, 0, 0, 0] [2, 0, 0, 0] (some ⟨1, 0, 4⟩) = none ∧
    isFin (num32 (BitVec.ofNat 32 (leNat ([1, 0, 0, 0] : List Byte)))) = true ∧
    (claimAt { oneSump 0 {} with claims := [(0, { someClaim with sump := 0 })] } 0).sump ≤ 0 := by decide

/-- A collective descriptor of operation `op` on the group descriptor at handle 66, record in the gallery; and the group
descriptor: axis X, depth 2, one core. -/
def collWords (op : Nat) : List W64 :=
  [enc [(op, 60), (3, 56), (66, 37)], 0, 0, 0, 0, BitVec.ofNat 64 (2 ^ 60), 0, 0, enc [(4, 61), (2, 44), (1, 29)], 0, 0, 0, 0, 0, 0, 0]

/-- Core 0 with a CSTEP of the descriptor at handle 64, or with a call in progress. -/
def wStep : W64 := enc [(44, 58), (64, 41)]
def collCore (op : Nat) (calls : List CollCall := []) : State :=
  let put (i o : Nat) (m : List Host.Cell) : List Host.Cell := tputN 0 m o (leBytes 8 (wordAt (collWords op) i).toNat)
  oneCore wStep {} { bench := { bytes := put 0 4096 (put 5 4136 (put 8 4224 [])) }, net := { calls := calls } }

theorem witness_CollectiveCalls :
    coreOwner (collCore 0) 0 = some 0 ∧ runs (collCore 0) 0 .cstep wStep = true ∧ nextCollMover (collCore 0) 0 = some 0 ∧
    callsOfClaim (collCore 0) 0 < 8 ∧ gates (fun o n => benchGate (collCore 0) 0 o n true) (callReads (collCore 0) 0 64) = .go ∧
    callStuck (collCore 0) 0 0 64 = false ∧ (coreAt (collCore 0) 0).net.due = [] ∧ fieldOf wStep 57 41 = 64 ∧
    10 < fieldOf (wordAt (benchWords (collCore 11) 0 4096 8) 0) 63 60 ∧
    engineClaim (collCore 0) (.collMover (Fin.ofNat 16 0)) = some 0 ∧ callOp (callOf (collCore 0) 0 0 64) = 0 := by decide

theorem witness_CollectiveCalls_start :
    let v0 := callOf (collCore 0) 0 0 64
    let v := { v0 with algo := chooseAlgo v0 }
    callReason (collCore 0) 0 0 v (streamCount (callOp v) v.algo false (collDims (collCore 0) v.group v.ranks)) = none ∧
    talliesOwned (collCore 0) 0 (plannedCall (collCore 0) v) = true := by decide

/-- A call that expects one chunk of 4 bytes from member 1, or none. -/
def someCall (rs : List CollRecv) : CollCall :=
  { words := (collWords 0).take 8, group := (collWords 0).drop 8, mover := 0, core := 0, ranks := [0], me := 0, algo := 0
    recvs := [rs], got := [0] }

theorem witness_CollectiveCalls_chunk :
    (callsAt (collCore 0 [someCall [⟨1, [(0, 4)], .copy, false, false⟩]]) 0)[0]? = some (someCall [⟨1, [(0, 4)], .copy, false, false⟩]) ∧
    paramsDiffer (someCall []) 1 (callParams (someCall [])) = none ∧ paramsDiffer (someCall []) 1 [] = some 1 ∧
    applyChunk (someCall []) .copy [(0, 4)] [1, 2, 3, 4] none [] = some [1, 2, 3, 4] ∧
    applyChunk (someCall []) .ownFirst [(0, 4)] [0, 0, 0, 0] (some ⟨0, 0, 1⟩) [] = none ∧
    stockGate (collCore 0) (someCall []) 0 4 = .go ∧ inputReady (someCall []) [(0, 4)] = true ∧
    callFinished (someCall []) = true ∧ callBehind (collCore 0 [someCall []]) 0 (someCall []) = false ∧
    collGate (collCore 0) 0 (wordAt (someCall []).words 5) (recordBytes (someCall [])) false = .go := by decide

/-- Queue pair 0 of claim 0: hop limits in range. -/
def withQp (v : QueuePair) : State :=
  { oneCore 0 with claims := [(0, { someClaim with qpCount := 1, streamCount := 1 })]
                   haul := { qps := [(0, v)], ports := [(0, { up := true })] } }
def sentOne : SentPkt := { pkt := { psn := 9, opcode := 11, va := 0, rkey := 0, data := [], imm := none } }

theorem witness_QueuePairs :
    (qpAt (withQp { state := 1 }) 0).state = 1 ∧ (qpAt (withQp { state := 1 }) 0).tries < qpRetry (qpAt (withQp { state := 1 }) 0) ∧
    qpRetry (qpAt (withQp { state := 1 }) 0) ≤ (qpAt (withQp { state := 1, tries := 7 }) 0).tries ∧
    qpRnrRetry (qpAt (withQp { state := 1 }) 0) = 7 ∧ qpRnrRetry { w4 := 0 } ≤ 0 ∧
    qpSends (withQp { state := 1 }) 0 = true ∧ qpSends (withQp { state := 1, rnrWait := true }) 0 = false ∧
    qpSends (setQp (withQp { state := 1, rnrWait := true }) 0 { state := 1 }) 0 = true ∧
    (portAt (withQp {}) 0).up = true ∧ (withQp {}).haul.cutGap ≤ 50 ∧ recvOfQp (withQp {}) 0 = none ∧
    qpOwner (withQp {}) 0 = some 0 ∧ actsFor (withQp {}) 0 0 = true ∧ actsFor (withQp {}) 1 0 = false ∧
    qpFits (qpAt (withQp {}) 0) = true ∧ qpFits { w4 := 0 } = false := by decide

/-- Stream 0 of claim 0: 16 tokens a page, 1 head of 64 E4M3 elements, one layer, two pages, 4 buffers of one frame. -/
def someStream (v : HaulStream) : HaulStream :=
  { v with state := 1, w0 := enc [(3, 50), (4, 30)], w1 := BitVec.ofNat 64 (2 ^ 60), w2 := enc [(4, 48)]
           w3 := enc [(32, 32), (2, 0)], w4 := BitVec.ofNat 64 (2 ^ 60 + 65536), w5 := BitVec.ofNat 64 (2 * 2 ^ 60)
           w6 := enc [(1, 32)], w7 := BitVec.ofNat 64 (2 ^ 60 + 131072) }

/-- Claim 0 with that stream, queue pair 0 ready, and a piece that core 0 has handed. -/
def withStream (v : HaulStream) (q : QueuePair := { state := 1, w5 := 0xFFFF000000000000 }) : State :=
  { oneCore 0 {} { drs := { hands := [⟨0, false, 0, 3, 0, 3, false, copies 64 0, []⟩] } } with
      claims := [(0, { someClaim with qpCount := 1, streamCount := 1 })]
      haul := { qps := [(0, q)], ports := [(0, { up := true })], streams := [(0, someStream v)] } }
def oneRecv (x : HaulRecv := {}) : HaulRecv :=
  { x with pageTable := BitVec.ofNat 64 (2 ^ 60 + 200000), pageCount := 2 }
def somePiece : HandPiece := ⟨0, false, 0, 3, 0, 3, false, copies 64 0, []⟩
def bound : HaulStream := { buffers := [(0, some { layer := 0, page := 0 })], recvs := [oneRecv { queue := [0] }] }

theorem witness_HaulHands :
    coreOwner (withStream bound) 0 = some 0 ∧ handReason (withStream bound) 0 somePiece = none ∧
    streamNo (withStream bound) 0 0 = some 0 ∧ handReason (withStream { bound with task := some 7 }) 0 somePiece = some 3 ∧
    somePiece.token < tokensOf (someStream bound) ∧ bufferOf (someStream bound) 0 0 = some 0 ∧
    pageCovered (someStream bound) 0 = true ∧ recvCount (someStream bound) = 1 ∧ framePieces (someStream bound) 0 = 32 ∧
    freeBuffer (someStream { buffers := (upFrom 0 4).map fun f => (f, some { layer := 9, page := f }) }) = none := by decide

theorem witness_HaulHands_gate :
    pieceGate (withStream bound) 0 (bufferAt (someStream bound) 0) (pieceWrites (someStream bound) somePiece) = .go := by decide

theorem witness_HaulHands_bind :
    bufferOf (someStream {}) 0 0 = none ∧ freeBuffer (someStream {}) = some 0 ∧
    galGate (withStream {}) (some 0) (bufferAt (someStream {}) 0) (frameBytes (someStream {})) false = .go := by decide
theorem witness_HaulHands_flips :
    crc32c (flipped [(0, 1)] (somePiece.data ++ somePiece.scales)) ≠ crc32c (somePiece.data ++ somePiece.scales) := by
  decide +kernel

theorem witness_QueuePairs_failed :
    recvOfQp (withStream { bound with task := some 0 }) 0 = some (0, 0, 0) ∧ taskLive (withStream bound) 0 = true ∧
    handsNow (withStream { bound with task := some (taskNo (withStream bound) 0) }) 0 0 = true ∧
    policyOf (someStream bound) = 0 := by decide
def copying : State := { withStream bound with haul := { (withStream bound).haul with movers := [(0, [⟨0, 0, 0⟩])] } }
def spilled : HaulRecv := oneRecv { spill := [⟨0, 0, 0⟩] }
theorem witness_HaulFrames_copy :
    (copying.haul.movers.any fun m => m.2.any fun y => y = ⟨0, 0, 0⟩) = true ∧
    tableGate copying 0 spilled 0 = .go ∧ spilled.spill[spilled.spillSent]? = some ⟨0, 0, 0⟩ ∧
    dramGate copying (some 0) (spillAt (someStream bound) 0 0) 2048 true = .go := by decide

theorem witness_HaulFrames :
    streamOwner (withStream bound) 0 = some 0 ∧ (streamAt (withStream bound) 0).state = 1 ∧
    qpSends (withStream bound) 0 = true ∧ frameBytes (someStream bound) = 2048 ∧
    galGate (withStream bound) (some 0) (bufferAt (someStream bound) 0) (frameBytes (someStream bound)) true = .go ∧
    qpOut (qpAt (withStream bound) 0) + 2048 ≤ qpWindow (qpAt (withStream bound) 0) ∧
    recvOfQp (withStream bound) 0 = some (0, 0, 0) ∧ freeSlot (someStream bound) (oneRecv { toSpill := [0] }) = some 0 ∧
    dramGate (withStream bound) (some 0) (spillAt (someStream bound) 0 0) 2048 false = .go ∧
    freeSlot { someStream bound with w6 := 0 } (oneRecv { toSpill := [0] }) = none := by decide

theorem witness_HaulStreams :
    streamOwner (withStream bound) 0 = some 0 ∧ actsFor (withStream bound) 0 0 = true ∧ actsFor (withStream bound) 1 0 = false ∧
    openReason { withStream bound with haul := {}, gallery := { ready := 1, bytes := [(65551, 16)] } } 0 { someStream bound with state := 0 } = none ∧
    openReason { withStream bound with haul := {}, gallery := { ready := 1, bytes := [(65551, 16)] } } 0 { someStream bound with w2 := 0 } = some 1 := by decide

/-- A task record at host address 0 of ring 3: kind `kind`, image 9, argument 5, record place at host address 4096. -/
def recordWordsOf (kind : Nat) : List W64 :=
  [enc [(kind, 60), (7, 32)], BitVec.ofNat 64 (3 * 2 ^ 60 + 65536), 9, 0, 5, BitVec.ofNat 64 (3 * 2 ^ 60 + 4096), 0, 0]

/-- Claim 0, idle, with that record in ring 3 and an image resident that starts core 0 at index 2. -/
def readyClaim (kind : Nat) (q : Claim := {}) : State :=
  { oneCore 0 with
    host := { bytes := [(4, 7), (7, BitVec.ofNat 8 (16 * kind)), (10, 1), (15, 0x30), (16, 9), (32, 5), (41, 16), (47, 0x30)] }
    claims := [(0, { q with created := true, quads := 1, rings := [(3, { enable := true, sizeLog := 4, tail := 1, base := BitVec.ofNat 64 (3 * 2 ^ 60) })]
                            image := some ⟨9, 0, 0, 0, false, [(2, true), (0, false)]⟩ })] }

set_option maxRecDepth 4000 in
theorem witness_TaskStarts :
    canStart (readyClaim 1) 0 = true ∧ nextRing (claimAt (readyClaim 1) 0) = some 3 ∧ hostFn (readyClaim 1) 0 = some 0 ∧
    recordBad (recordWordsOf 1) = false ∧ recordBad (recordWordsOf 2) = true ∧ argBad 0 (recordWordsOf 1) = false ∧
    argBad 1 (recordWordsOf 1) = true ∧ rangeBad (readyClaim 1) 0 (recordWordsOf 1) = false ∧
    fieldOf (wordAt (recordWordsOf 0) 0) 63 60 = 0 ∧ actsFor (readyClaim 1) 0 0 = true := by decide

theorem witness_TaskStarts_image : (coresMap (readyClaim 1) 0)[0]? = some 0 ∧
    hostRead (readyClaim 1) 0 (BitVec.ofNat 64 (3 * 2 ^ 60 + 65536)) 0 = some [] := by decide

set_option maxRecDepth 4000 in
theorem witness_TaskStarts_record : ∃ bs, hostRead (readyClaim 1) 0 (BitVec.ofNat 64 (3 * 2 ^ 60)) 64 = some bs ∧
    wordsOf 8 bs = recordWordsOf 1 := ⟨_, rfl, by decide⟩

/-- The image cannot be read: its place is no host place. -/
theorem witness_TaskStarts_unreadable : hostRead (readyClaim 1) 0 0 64 = none := by decide

/-- Core 0's claim with a task whose cores have ended. -/
def endedTask (fault : Option TaskFault) : State :=
  { oneCore 0 with
    cores := (upFrom 0 4).map fun c => (c, { seq := { run := .ended } })
    claims := [(0, { someClaim with task := some { someTask with record := BitVec.ofNat 64 (3 * 2 ^ 60), fault := fault } })] }

theorem witness_TaskEnds :
    taskQuiet (endedTask none) 0 = true ∧ taskQuiet (oneCore 0) 0 = false ∧ hostFn (endedTask none) 0 = some 0 ∧
    actsFor (endedTask none) 0 0 = true ∧ (placeOf (BitVec.ofNat 64 (3 * 2 ^ 60))).space = 3 ∧
    (claimAt (endedTask (some { info := { name := .hostCancel }, engine := 10 })) 0).task.isSome = true := by decide

/-- Claim 0 whose cores are held at breaks or have ended. -/
def standing : State :=
  { oneCore 0 with cores := (0, { seq := { run := .held } }) :: (upFrom 1 3).map fun c => (c, { seq := { run := .ended } })
                   claims := [(0, { someClaim with holdReq := true, rtMode := true })] }

theorem witness_HoldsAndDeadlines :
    actsFor standing 0 0 = true ∧ actsFor standing 1 0 = false ∧ taskLive standing 0 = true ∧
    (claimAt standing 0).holdReq = true ∧ (coreAt standing 0).seq.run = .held ∧
    (∀ j ∈ coresOf 1, (coreAt standing j).seq.run = .held ∨ (coreAt standing j).seq.run = .ended) ∧
    (coreAt (oneCore 0) 0).seq.run = .running ∧ (claimAt standing 0).wdSkip = false ∧
    unitLive { standing with dies := [(0, { present := true, mode := .run })] } 0 = true ∧
    blockedOn (oneCore 0 {} { drs := { closeWait := true } }) 0 = some (2, 3, 0) ∧ blockedOn standing 0 = none ∧
    twf ({} : CoreState) standing.cores = true ∧
    waitsOf { standing with waits := [⟨7, 1, .closing 0, 4⟩] } (syncEngine 0 2) = [⟨1, 7, 4⟩] := by decide

/-- Function 0 is a control function; die 0 is up. -/
def controlled (s : State) : State :=
  { s with functions := [(0, { present := true, control := true })], dies := [(0, { present := true, mode := .run })] }

theorem witness_ClaimLifetimes :
    isControl (controlled (oneCore 0)) 0 = true ∧ isControl (oneCore 0) 0 = false ∧
    coreStopped (controlled (oneCore 0)) 0 = false ∧ (claimAt (oneCore 0) 0).created = true ∧
    (claimAt (oneCore 0) 1).created = false ∧ hasTask (oneCore 0) 0 = true ∧
    boundClaim (oneCore 0) 0 = some 0 ∧
    coreStopped { controlled {} with sys := { boot := { stopped := 1 } } } 0 = true := by decide

theorem witness_ClaimLifetimes_refused :
    claimRefusal (controlled (oneCore 0)) (requestOf (storeCtrl 0 {})) = some (2, 7) := by decide

theorem witness_ClaimLifetimes_lanes :
    meshLanes (oneCore 0) 0 (.row 0 0) = [(0, 512)] ∧ meshLanes (oneCore 0) 0 (.row 1 0) = [] := by decide

/-- Die 0 up at 0.75 V, on the way to `goal`, with a clamp; claim 0 holds quad 0. -/
def poweredDie (q : DieState) (held : Bool := false) : State :=
  { oneCore 0 with
    dies := [(0, { q with present := true, mode := .run, vSet := 1500 })]
    claims := [(0, { someClaim with held := held })], functions := [(0, { present := true, control := true })] }

theorem witness_PowerStates_droop :
    dieRuns (dieAt (poweredDie {}) 0) = true ∧ (dieAt (poweredDie { vGoal := 1550 }) 0).vSet ≠ (dieAt (poweredDie { vGoal := 1550 }) 0).vGoal ∧
    (dieAt (poweredDie { droopClamp := 30, droopHold := true }) 0).droopHold = true ∧
    (dieAt (poweredDie { droopClamp := 30 }) 0).droopClamp ≠ 0 := by decide

theorem witness_PowerStates_cores :
    coreOwner (poweredDie {}) 0 = some 0 ∧ actsFor (poweredDie {}) 0 0 = true ∧ dieInReach (poweredDie {}) 0 = true ∧
    (claimAt (poweredDie {} true) 0).held = true ∧ (claimAt (poweredDie {}) 0).held = false ∧
    (∃ j ∈ coresOfDie 0, j ≠ 0 ∧ (coreAt (poweredDie {}) j).pwr.state = 0) := by decide

theorem witness_PowerStates_retention :
    let s := { poweredDie {} true with cores := (upFrom 1 15).map fun c => (c, { pwr := { state := 1, request := 1, want := 1 } }) }
    coreOwner s 0 = some 0 ∧ actsFor s 0 0 = true ∧ (claimAt s 0).held = true ∧ dieRuns (dieAt s 0) = true ∧
    ∀ j ∈ coresOfDie 0, j ≠ 0 → (coreAt s j).pwr.state ≠ 0 := by decide

theorem witness_PowerStates_dies :
    isControl (poweredDie {}) 0 = true ∧ (dieAt (poweredDie {}) 0).present = true ∧ (dieAt (poweredDie {}) 0).mode = .run ∧
    (usesDie (poweredDie {}) 0 0 = true ∧ hasTask (poweredDie {}) 0 = true) ∧
    (∀ k ∈ claimNos, usesDie { poweredDie {} with claims := [] } k 0 = false ∨ hasTask { poweredDie {} with claims := [] } k = false) ∧
    dieInReach { poweredDie {} with dies := [(0, { present := true, mode := .keep })] } 0 = false := by decide

theorem witness_PowerStates_module :
    anyTask (poweredDie {}) = true ∧ anyTask { poweredDie {} with claims := [] } = false ∧ (poweredDie {}).power.state ≠ 4 ∧
    (dieAt { poweredDie {} with dies := [(0, { control := true })], power := { state := 4 } } 0).control = true ∧
    inSet (poweredDie {}).ras.diesFailed 0 = false := by decide

/-- The module ready, with a running die 0 at 0.75 V whose rates are known. -/
def readyModule (q : DieState := {}) (p : PowerState := {}) : State :=
  { poweredDie { q with control := true, natural := 35, rates := [20, 21, 22, 23, 24, 25, 26, 27, 28, 29, 30, 31, 32, 33, 34, 35, 36] } with
    power := p, sys := { boot := { main := true, stage := 6, aux := true } } }

theorem witness_PowerTicks :
    moduleReady (readyModule) = true ∧ coreStopped (readyModule) 1 = false ∧ (readyModule).sys.boot.main = true ∧
    dieRuns (dieAt (readyModule) 0) = true ∧ (dieAt (readyModule) 0).rates.getD (stepOf 1500) 0 = 36 ∧
    (readyModule {} { vrPin := true }).power.vrPin = true ∧ (dieAt (readyModule) 0).natural ≠ 0 ∧
    (dieAt (readyModule) 0).control = true ∧ meanOf (readyModule {} { estTicks := 4 }) 200 = 50 := by decide

/-- A calibration that would be off by more is limited to 1 %. -/
theorem test_calibration_limit : calibrated 4096 100 90 = 4055 ∧ calibrated 4096 100 200 = 4136 := by decide

/-- A forecast of nothing. -/
def noForecast (links : Nat) : Forecast := ⟨links, 0, 0, [], 800, 64, 100, 0⟩

theorem witness_GovernorAndMatching :
    95 * (readyModule).power.effCap / 100 = 712 ∧ moduleFloor (readyModule) (noForecast 0) ≤ 712 ∧
    712 < moduleFloor (readyModule) (noForecast 800) ∧ (readyModule).power.state ≠ 4 ∧ (readyModule).power.belowFloor = false ∧
    liveClaims (readyModule) = [0] ∧ shedPending (readyModule) = false ∧ 712 < (noForecast 0).predicted ∧
    (dieAt (readyModule) 0).forced = false ∧ inSet (readyModule).power.iccDies 0 = false := by decide

theorem witness_GovernorAndMatching_split :
    (split (readyModule) (noForecast 0) 700).map (fun x => x.claim) = [0] := by decide

/-- Rank 0 of a group of two that matches die 0. -/
def matching : State :=
  { readyModule { fwTarget := 40 } { excursion := 10, reports := [(1, 30)] } with
    group := { stage := .formed, members := 2, rank := 0 }, claims := [(0, { someClaim with group := true, matchOn := true })] }

theorem witness_GovernorAndMatching_group :
    grouped matching = true ∧ otherMembers matching = [1] ∧ achievable matching = some 40 ∧ matchedDies matching = [0] ∧ lowestLive matching = some 0 ∧
    matching.sys.boot.main = true ∧ coreStopped matching 1 = false ∧ 10 ≤ matching.power.excursion := by decide

/-- 24 sensors that read the same. -/
def sensors (n : Int) : List Int := (upFrom 0 24).map fun _ => n

theorem witness_TemperaturesAndFailures_sample :
    (readyModule).sys.boot.main = true ∧ 3 ≤ (readyModule).sys.boot.stage ∧ (sensors 0).length = 24 ∧
    coreStopped (readyModule) 1 = false ∧ coreStopped (readyModule) 3 = false ∧ (readyModule).sys.boot.recovery = false ∧
    (readyModule).sys.boot.hubOff = false ∧ (readyModule).claimReq.waiting = 0 ∧ (readyModule).therm.onset = 760 := by decide

theorem witness_TemperaturesAndFailures_die :
    (dieAt (readyModule) 0).present = true ∧ (dieAt (readyModule) 0).vSet ≠ 0 ∧ usesDie (readyModule) 0 0 = true ∧
    (readyModule).dram.ready ≠ 0 ∧ inSet (readyModule).ras.stacksFailed 0 = false ∧
    ((claimAt (readyModule) 0).task.map fun y => y.fault) = some none ∧ (claimAt (readyModule) 0).dram ≠ 0 := by decide

theorem witness_TemperaturesAndFailures_scrub :
    mayScrub (readyModule) (.bench 4 0) = true ∧ mayScrub (readyModule) (.gallery 0) = true ∧ mayScrub (readyModule) (.dram 0) = true ∧
    16 ≤ (((0, 0) :: (upFrom 1 40).map fun u => (u, 0)).filter fun x : Nat × Nat => dramStack (64 * x.1) = 0).length ∧
    { readyModule with group := { forming := true } }.group.forming = true := by decide

theorem witness_RegisterAccesses :
    (functionAt (readyModule) 0).present = true ∧ accessFits 0x300060 8 = true ∧ accessFits 1 8 = false ∧
    barRegAt 0x300060 = some .thmCtrl ∧ barRegAt 0x200010 = some (.gov .classCtrl) ∧ barRegAt 0x200040 = some (.gov (.claim 0)) ∧
    barRegAt 0x800000 = some .errSummary ∧ barRegAt 0x110100 = some (.claim 0 (.phase 0)) ∧
    barRegAt 0x110800 = some (.claim 0 (.ringBase 0)) ∧ barRegAt 0x10FFF8 = none ∧ isControl (readyModule) 0 = true := by decide

theorem witness_RegisterAccesses_core :
    barRegAt 0x1000000 = some (.core 0 .seqStatus) ∧ barRegAt 0x1003108 = some (.core 0 (.rtDeadline 1)) ∧
    barRegAt 0x1004000 = some (.core 0 .arrCtrl) ∧ barRegAt 0x1004060 = some (.core 0 .arithFlags) ∧
    coreOwner (readyModule) 0 = some 0 ∧ actsFor (readyModule) 0 0 = true ∧ actsFor (readyModule) 1 0 = false ∧
    dieInReach (readyModule) 0 = true ∧ dieInReach (oneCore 0) 0 = true ∧
    dieInReach { readyModule with dies := [] } 0 = false ∧ taskOn (readyModule) 0 = true ∧
    taskOn { readyModule with claims := [(0, { someClaim with task := none })] } 0 = false ∧ coreAllowed (readyModule) 0 0 false = true := by decide

theorem witness_RegisterAccesses_mailbox : (0x90000C : Nat) % 8 = 4 ∧ barRegAt (0x90000C / 8 * 8) = some (.mbxData 0 0) := by decide

theorem witness_SidebandAndCaps :
    (readyModule).sys.boot.aux = true ∧ State.reset.sys.boot.aux = false ∧ (readyModule).sys.boot.recovery = false ∧
    300 ≤ 500 ∧ 500 ≤ envelope (readyModule) ∧ (readyModule).sys.boot.standby = false ∧ moduleReady (readyModule) = true ∧
    anyTask (readyModule) = true ∧ anyTask { readyModule with claims := [] } = false ∧ (readyModule).power.state ≠ 4 ∧
    (readyModule {} { state := 4 }).power.state = 4 ∧ isControl (readyModule) 0 = true ∧
    (readyModule {} { hostAuth := true }).power.hostAuth = true ∧ (readyModule {} { failsafeTimeout := 9 }).power.failsafeTimeout ≠ 0 := by
  decide

theorem witness_SidebandAndCaps_sensor :
    ({ readyModule with sys := { (readyModule).sys with sensors := [5] } } : State).sys.sensors[0]? = some 5 ∧
    (readyModule).sys.sensors[0]? = none := by decide

/-- A module with aux good, and an update in state `st`. -/
def updatingIn (st : PldmState) : State :=
  { readyModule with sys := { (readyModule).sys with pldm := { state := st, received := 1, verified := true } } }

theorem witness_FirmwareUpdates :
    (updatingIn .learn).sys.boot.aux = true ∧ (∀ st, (updatingIn st).sys.pldm.state = st) ∧ (updatingIn .ready).sys.pldm.verified = true ∧
    (updatingIn .download).sys.pldm.received ≠ 0 ∧ (updatingIn .ready).sys.boot.recovery = false ∧
    (updatingIn .ready).sys.ident.secFloor = 0 ∧ (functionAt (readyModule) 0).present = true ∧ isControl (readyModule) 0 = true ∧
    (pageAt (readyModule) 0).busy = false ∧ coreStopped (readyModule) 0 = false ∧ (readyModule).sys.firm.staged = false := by
  refine ⟨rfl, fun st => rfl, ?_⟩; decide

/-- A ready module whose firmware has staged an image. -/
def stagedModule (staged : Bool) (stopped : Nat) : State :=
  { readyModule { tripped := true } with
    sys := { (readyModule).sys with firm := { staged := staged }, boot := { (readyModule).sys.boot with stopped := stopped } } }

theorem witness_MailboxCommands :
    (functionAt (stagedModule true 0) 0).present = true ∧ (pageAt (stagedModule true 0) 0).busy = false ∧
    coreStopped (stagedModule true 1) 0 = true ∧ coreStopped (stagedModule true 0) 0 = false ∧ isControl (stagedModule true 0) 0 = true ∧
    isControl { stagedModule true 0 with functions := [(0, { present := true })] } 0 = false ∧
    (stagedModule true 0).sys.firm.staged = true ∧ anyTask (stagedModule true 0) = true ∧
    anyTask { stagedModule true 0 with claims := [] } = false := by decide

theorem witness_MailboxCommands_args :
    functionCount (stagedModule true 0) [1, 1, 1, 1] [0, 0, 0, 0] ≤ 8 ∧ 8 < functionCount (stagedModule true 0) [4, 4, 4, 4] [15, 0, 0, 0] ∧
    (dieAt (stagedModule true 0) 0).tripped = true ∧ (dieAt (stagedModule true 0) 0).tMax < 680 ∧
    (claimAt (stagedModule true 0) 0).created = true ∧ (∀ q ∈ (stagedModule true 0).haul.qps, q.2.state ≠ 1 ∨ qpPort q.2 ≠ 0) ∧
    entriesFit 16 = true := by decide

theorem witness_MailboxCommands_telemetry :
    boundClaim (stagedModule true 0) 1 = none ∧ moduleReady (stagedModule true 0) = true ∧ coreStopped (stagedModule true 0) 3 = false ∧
    hostMapped (stagedModule true 0) 0 4096 128 = true ∧ (placeOf (BitVec.ofNat 64 (3 * 2 ^ 60))).space = 3 := by decide

/-- A plan for 16 members with module 0 as host port module. -/
def planOf16 : W64 := enc [(30, 52)]

/-- A ready module with strap position `id`, in this group state, without claims unless some are given. -/
def groupModule (id : Nat) (g : GroupState) (claims : Table Claim := []) : State :=
  { readyModule with
    claims := claims, group := g, sys := { (readyModule).sys with boot := { (readyModule).sys.boot with modId := id } } }

theorem witness_GroupFormation_form :
    let s := groupModule 0 {}
    (functionAt s 0).present = true ∧ isControl s 0 = true ∧ (pageAt s 0).busy = false ∧ coreStopped s 0 = false ∧
    coreStopped s 2 = false ∧ mayJoin s = true ∧ planFits s planOf16 = true ∧ strapsFit s planOf16 = true ∧
    planFits s 0 = false ∧ mayJoin (groupModule 0 { stage := .formed }) = false := by decide

theorem witness_GroupFormation_plan :
    let s := groupModule 3 {}
    (0 : Nat) ≠ s.sys.boot.modId ∧ s.sys.boot.stage = 6 ∧ coreStopped s 2 = false ∧ s.group.plan ≠ some planOf16 ∧
    s.group.forming = false ∧ mayJoin s = true := by decide

theorem witness_GroupFormation_answers :
    let g : GroupState := { stage := .forming, forming := true, planWord := planOf16, answered := upFrom 0 15 }
    planMembers planOf16 = 16 ∧ g.answered.length + 1 = 16 ∧ (15 ∉ g.answered) ∧ (∀ r < 16, r = 15 ∨ r ∈ g.answered) ∧
    (∀ j < 15, j ∈ g.answered) ∧ g.bad = [] ∧ g.notReady = false := by decide

theorem witness_GroupFormation_commit :
    let s := groupModule 3 { stage := .forming, plan := some planOf16 }
    s.group.stage = .forming ∧ s.group.forming = false ∧ s.group.plan = some planOf16 := by decide

theorem witness_GroupFormation_host :
    let s := groupModule 0 { stage := .formed, members := 16, rank := 0 }
    isHostPort s 0 = true ∧ groupClaims s = [] ∧ isHostPort s 1 = false ∧ grouped s = true ∧ boundToGroup s 1 = false ∧
    groupClaims (groupModule 0 { stage := .formed, members := 16, rank := 0 } [(0, { created := true, group := true })]) ≠ [] := by
  decide

/-- A member of a group with group claim 0, whose image 9 is resident. -/
def memberOf16 (task : Option Machine.Task) : State :=
  groupModule 0 { stage := .formed, members := 16, rank := 0 }
    [(0, { created := true, group := true, quads := 1, task := task, image := some ⟨9, 0, 0, 0, false, [(2, true)]⟩ })]

set_option maxRecDepth 8000 in
theorem witness_GroupFormation_forward :
    grouped (memberOf16 none) = true ∧ isGroupClaim (memberOf16 none) 0 = true ∧ hostFn (memberOf16 none) 0 = some 0 ∧
    hostMapped (memberOf16 none) 0 4096 8 = true ∧ (memberOf16 none).group.hostLost = false ∧ argBad 0 (recordWordsOf 1) = false ∧
    rangeBad (memberOf16 none) 0 (recordWordsOf 1) = false ∧ (coresMap (memberOf16 none) 0)[0]? = some 0 ∧
    ((claimAt (memberOf16 (some { someTask with group := true })) 0).task.map fun y => (y.group, y.fault)) = some (true, none) := by
  decide

set_option maxRecDepth 20000 in
theorem witness_GroupFormation_create :
    claimRefusal (memberOf16 none) { claim := 1, fn := 0, standby := none, group := true, remote := true, quads := 2
                                     mem := 0, sync := 0, share := 0 } = none := by decide

/-- A member whose creation request for claim 1 waits for rank 5. -/
def creating16 : State :=
  { groupModule 0 { stage := .formed, members := 16, rank := 0 } with
    claimReq := { claim := 1, group := true, quads := 2, busy := true, waiting := 4, awaiting := [5] } }

set_option maxRecDepth 20000 in
theorem witness_GroupFormation_answer :
    grouped creating16 = true ∧ creating16.claimReq.waiting = 4 ∧ creating16.claimReq.claim = 1 ∧ creating16.claimReq.awaiting = [5] ∧
    claimRefusal creating16 (requestOf creating16.claimReq) = none ∧
    windowsBusy (closeWindows 0 (cancelNow 0 (memberOf16 none))) 0 = false ∧
    claimRefusal (memberOf16 none) { claim := 0, fn := 0, standby := none, group := true, remote := true, quads := 2
                                     mem := 0, sync := 0, share := 0, bases := [0] } ≠ none := by decide

/-- Rank 0 of a formed group of 16 with a group claim that runs a task. -/
def memberRuns (g : GroupState) : State :=
  groupModule 0 { g with stage := if g.coordinating then .reforming else .formed, members := 16, rank := 0 }
    [(0, { created := true, group := true, quads := 1, task := some { someTask with group := true } })]

theorem witness_GroupFailures :
    grouped (memberRuns {}) = true ∧ coreStopped (memberRuns {}) 2 = false ∧ 1 ∈ neighbours (memberRuns {}) ∧
    (memberRuns {}).group.rank < (memberRuns {}).group.members ∧ groupClaims (memberRuns {}) = [0] ∧
    (∃ r ∈ survivorsOf 16 [1], r ≠ 0) := by decide

theorem witness_GroupFailures_calls :
    callsOfClaim (memberRuns {}) 0 = 0 := by decide

theorem witness_GroupFailures_acknowledge :
    let g := (memberRuns { coordinating := true, failed := [1], acked := [0] }).group
    g.coordinating = true ∧ (2 ∈ survivorsOf g.members g.failed) ∧ (2 ∉ g.acked) ∧
    (∃ r ∈ (survivorsOf g.members g.failed).filter (fun r => r ≠ 2), r ∉ g.acked) := by decide

theorem witness_GroupFailures_last :
    let g := (memberRuns { coordinating := true, failed := [1], acked := 0 :: upFrom 3 13 }).group
    (2 ∉ g.acked) ∧ ∀ r ∈ (survivorsOf g.members g.failed).filter (fun r => r ≠ 2), r ∈ g.acked := by decide

theorem witness_GroupFailures_commit :
    let f := ((([1, 1] : List Rank).map fun r => r.val).eraseDups.filter fun r => r < 16)
    f ≠ [] ∧ (0 ∉ f) ∧ (1 ∈ f) := by decide

/-- A module with aux good (or not) at a stage of its boot, with a valid image in slot A. -/
def bootAt (aux : Bool) (stage : Nat) (b : BootState := {}) : State :=
  { readyModule { control := true } with
    sys := { flash := { imageA := some { version := 1, security := 0, genuine := true } }
             boot := { b with aux := aux, stage := stage }, links := [(0, { up := true, reset := false })] } }

theorem witness_PowerUpAndLinks_inputs :
    (bootAt false 0).sys.boot.aux = false ∧ (bootAt true 0).sys.boot.aux = true ∧ (bootRecord (bootAt false 0).sys.flash).trial = false ∧
    imageValid 0 (imageOf (bootAt false 0).sys.flash false) = true ∧ imageValid 0 (imageOf (bootAt false 0).sys.flash true) = false ∧
    imageValid 0 (imageOf State.reset.sys.flash false) = false ∧ (bootAt true 0).sys.boot.sampled = false ∧
    (bootAt true 1 { connected := true }).sys.boot.connected = true ∧ (bootAt true 1 { connected := true }).sys.boot.main = false := by
  decide

theorem witness_PowerUpAndLinks_boot : ∀ stage < 6,
    let b := (bootAt true stage { main := true }).sys.boot
    b.aux = true ∧ b.main = true ∧ b.recovery = false ∧ b.standby = false ∧ b.hubOff = false ∧ b.stage = stage := by decide

theorem witness_PowerUpAndLinks_links :
    let s := bootAt true 6 { main := true, sampled := true, sbSel := false }
    (pcieAt s 0).up = true ∧ (pcieAt s 2).up = false ∧ linkExists s 2 = true ∧ s.sys.boot.dynamic = none ∧
    (tget {} s.functions 0).present = true ∧ (tget {} s.functions 0).link = 0 ∧ actsFor s 0 0 = true ∧
    (claimAt s 0).standby = none ∧ ((claimAt s 0).task.map fun y => y.fault) = some none ∧ s.group.stage = .none ∧
    (pcieAt { s with sys := { s.sys with links := [(2, { reset := false })] } } 2).reset = false := by decide

theorem witness_PowerUpAndLinks_standby :
    let s := { bootAt true 6 { main := true } with
      functions := [(0, { present := true }), (1, { present := true, link := 2 })]
      claims := [(0, { someClaim with standby := some 1 })] }
    (claimAt s 0).standby = some 1 ∧ (tget {} s.functions 1).present = true ∧ (tget {} s.functions 1).link ≠ 0 := by decide

theorem witness_StepRunsFrontCommand : State.reset.pending = [] ∧ (∃ i : Instr, i = .endProgram 0) := ⟨rfl, _, rfl⟩

theorem witness_StateWfKept :
    stateWf (oneCore 7) = true ∧ step { oneCore 7 with pending := [.endProgram 0] } = exec (.endProgram 0) (oneCore 7) := ⟨by decide, rfl⟩

end Sys2Proof.Tests
end

/-! SUPPORT. The rows of the INT8 pair (R150): what its elements, products and chunk sums stand for, and the flags that a row's
columns set as it lands. -/

namespace Sys2Proof.Machine

/-! ### Lists and sets of units -/

theorem upFrom_eq_range' (a n : Nat) : upFrom a n = List.range' a n := by
  induction n generalizing a with
  | zero => rfl
  | succ n ih => rw [upFrom, ih, List.range'_succ]

theorem upFrom_zero (n : Nat) : upFrom 0 n = List.range n := by
  rw [upFrom_eq_range', List.range_eq_range']

/-- A sum of integers that all lie between `-b` and `b` lies between `-b` and `b` times their number. -/
theorem sum_map_bounds {α : Type} (z : α → Int) (b : Int) (ks : List α) (h : ∀ k ∈ ks, -b ≤ z k ∧ z k ≤ b) :
    -(ks.length * b) ≤ (ks.map z).sum ∧ (ks.map z).sum ≤ ks.length * b := by
  induction ks with
  | nil => rw [List.length_nil, List.map_nil, List.sum_nil]; omega
  | cons k ks ih =>
    obtain ⟨hlow, hhigh⟩ := h k List.mem_cons_self
    obtain ⟨ihlow, ihhigh⟩ := ih fun j hj => h j (List.mem_cons_of_mem k hj)
    have hlen : ((k :: ks).length : Int) * b = ks.length * b + b := by
      rw [List.length_cons, Int.natCast_add, Int.add_mul, Int.natCast_one, Int.one_mul]
    rw [hlen, List.map_cons, List.sum_cons]
    omega

/-- Adding a power of two whose bit is clear sets that bit and no other. -/
theorem testBit_add_two_pow (x i j : Nat) (hi : x.testBit i = false) :
    (x + 2 ^ i).testBit j = (x.testBit j || decide (j = i)) := by
  have hr : x % 2 ^ i < 2 ^ i := Nat.mod_lt _ (Nat.two_pow_pos i)
  have hx : x.testBit j = (2 ^ i * (x / 2 ^ i) + x % 2 ^ i).testBit j := by rw [Nat.div_add_mod]
  have hadd : x + 2 ^ i = 2 ^ i * (x / 2 ^ i + 1) + x % 2 ^ i := by
    have hdiv := Nat.div_add_mod x (2 ^ i)
    rw [Nat.mul_add, Nat.mul_one]
    omega
  have heven : x / 2 ^ i % 2 = 0 := by
    rw [Nat.testBit_eq_decide_div_mod_eq, decide_eq_false_iff_not] at hi
    omega
  rw [hadd, hx, Nat.testBit_two_pow_mul_add _ hr, Nat.testBit_two_pow_mul_add _ hr]
  by_cases hlt : j < i
  · have hne : j ≠ i := by omega
    rw [if_pos hlt, if_pos hlt, decide_eq_false hne, Bool.or_false]
  · rw [if_neg hlt, if_neg hlt]
    by_cases heq : j = i
    · have hodd : (x / 2 ^ i + 1) % 2 = 1 := by omega
      rw [heq, Nat.sub_self, Nat.testBit_zero, hodd, decide_eq_true rfl, decide_eq_true rfl, Bool.or_true]
    · obtain ⟨d, hd⟩ : ∃ d, j - i = d + 1 := ⟨j - i - 1, by omega⟩
      have hhalf : (x / 2 ^ i + 1) / 2 = x / 2 ^ i / 2 := by omega
      rw [hd, Nat.testBit_succ, Nat.testBit_succ, hhalf, decide_eq_false heq, Bool.or_false]

theorem inSet_setWith (set i j : Nat) : inSet (setWith set i) j = (inSet set j || decide (j = i)) := by
  unfold inSet setWith
  cases hi : set.testBit i with
  | true =>
    rw [if_pos rfl]
    by_cases hj : j = i
    · rw [hj, hi, Bool.true_or]
    · rw [decide_eq_false hj, Bool.or_false]
  | false =>
    rw [if_neg Bool.false_ne_true]
    exact testBit_add_two_pow set i j hi

/-! ### The exact arithmetic of integers -/

/-- A number of the array's arithmetic that stands for an integer; a zero may have either sign. -/
def StandsFor (p : Num) (z : Int) : Prop := ∃ neg mag, p = .fin neg mag 0 ∧ (dyadicOf neg mag 0).m = z

theorem signedOf_byte (b : Byte) : signedOf 8 b.toNat = b.toInt := by
  have hb : b.toNat < 256 := b.isLt
  simp only [signedOf, BitVec.toInt_eq_toNat_cond, Int.ofNat_eq_natCast]
  split <;> split <;> omega

theorem decodeElem_int8 (b : Byte) : StandsFor (decodeElem 5 b.toNat) b.toInt := by
  refine ⟨decide (b.toInt < 0), b.toInt.natAbs, by simp [decodeElem, signedOf_byte], ?_⟩
  simp only [dyadicOf, decide_eq_true_eq, Int.ofNat_eq_natCast]
  split <;> omega

/-- A product without block scales (R145) is the product of the integers. -/
theorem scaledProduct_standsFor {a w : Num} {x y : Int} (ha : StandsFor a x) (hw : StandsFor w y) :
    StandsFor (scaledProduct a w (.fin false 1 0) (.fin false 1 0)) (x * y) := by
  obtain ⟨na, ma, rfl, rfl⟩ := ha
  obtain ⟨nw, mw, rfl, rfl⟩ := hw
  refine ⟨na != nw, ma * mw, by simp [scaledProduct, mulNum], ?_⟩
  cases na <;> cases nw <;>
    simp only [dyadicOf, Bool.bne_true, Bool.bne_false, Bool.not_true, Bool.not_false, Bool.false_eq_true, if_true, if_false,
      Int.ofNat_eq_natCast, Int.natCast_mul, Int.neg_mul, Int.mul_neg, Int.neg_neg]

theorem sumExact_standsFor {α : Type} (p : α → Num) (z : α → Int) (ks : List α) (h : ∀ k ∈ ks, StandsFor (p k) (z k)) :
    sumExact (ks.map p) = ⟨(ks.map z).sum, 0⟩ := by
  induction ks with
  | nil => rfl
  | cons k ks ih =>
    obtain ⟨neg, mag, hp, hz⟩ := h k (by simp)
    have hrest := ih fun j hj => h j (by simp [hj])
    by_cases hm : mag = 0
    · have hz0 : z k = 0 := by rw [← hz]; simp [dyadicOf, hm]
      simp [hp, sumExact, hm, hrest, hz0]
    · simp [hp, sumExact, hm, hrest, addDyadic, ← hz, dyadicOf]

/-! ### One column of an INT8 row -/

/-- The product of a slice's and a tile's bytes for reduction index `k` and column `n`, as integers. -/
def int8Product (sl : Slice) (t : Tile) (n k : Nat) : Int := (sl.data.getD k 0).toInt * (t.rows.getD (64 * k + n) 0).toInt

/-- The sum of a chunk's products (R150). -/
def int8Sum (op : MmaOp) (sl : Slice) (t : Tile) (n : Nat) : Int := ((List.range (min op.k 64)).map (int8Product sl t n)).sum

theorem int8Product_bounds (sl : Slice) (t : Tile) (n k : Nat) :
    -16384 ≤ int8Product sl t n k ∧ int8Product sl t n k ≤ 16384 :=
  ⟨BitVec.le_toInt_mul_toInt, BitVec.toInt_mul_toInt_le⟩

theorem int8Sum_bounds (op : MmaOp) (sl : Slice) (t : Tile) (n : Nat) :
    -(64 * 16384) ≤ int8Sum op sl t n ∧ int8Sum op sl t n ≤ 64 * 16384 := by
  have hsum := sum_map_bounds (int8Product sl t n) 16384 (List.range (min op.k 64)) fun k _ => int8Product_bounds sl t n k
  rw [List.length_range] at hsum
  unfold int8Sum
  omega

theorem weightCode_int8 (t : Tile) (k n : Nat) (hn : n < 64) :
    weightCode t 5 false k n = (t.rows.getD (64 * k + n) 0).toNat := by
  simp [weightCode, rowBytes, isHalf, isFour, elemCode, fmtBits, List.getD_eq_getElem?_getD, hn]

theorem chunkSumInt_int8 (op : MmaOp) (sl : Slice) (t : Tile) (ks : List Nat) (n : Nat) (hs : op.sfmt = 5) (hw : op.wfmt = 5)
    (hn : n < 64) : chunkSumInt (chunkProducts op sl t ks n) = (ks.map (int8Product sl t n)).sum := by
  have hsum : sumExact (chunkProducts op sl t ks n) = ⟨(ks.map (int8Product sl t n)).sum, 0⟩ := by
    refine sumExact_standsFor _ _ ks fun k _ => ?_
    simpa [hs, hw, isPacked, isFour, scaleAt, isBlock, weightCode_int8, hn, elemCode, fmtBits, int8Product] using
      scaledProduct_standsFor (decodeElem_int8 (sl.data.getD k 0)) (decodeElem_int8 (t.rows.getD (64 * k + n) 0))
  simp [chunkSumInt, hsum]

theorem chunksOf_int8 (op : MmaOp) (hs : op.sfmt = 5) : chunksOf op = [List.range (min op.k 64)] := by
  simp [chunksOf, hs, isPacked, isFour, upFrom_zero]

/-- An INT8 pass makes one update of a column: the old value, or 0 in overwrite mode, plus the chunk's sum. -/
theorem columnResult_int8 (op : MmaOp) (sl : Slice) (t : Tile) (old : W32) (n : Nat) (hs : op.sfmt = 5) (hw : op.wfmt = 5)
    (hn : n < 64) :
    let total := (if op.acc then old.toInt else 0) + int8Sum op sl t n
    (columnResult op sl t old n).acc = BitVec.ofInt 32 total ∧
      ((columnResult op sl t old n).wrapped = true ↔ total < -(2 ^ 31) ∨ 2 ^ 31 - 1 < total) := by
  have hstart : (if op.acc then old else 0).toInt = if op.acc then old.toInt else 0 := by split <;> rfl
  simp only [columnResult, columnWith, chunksOf_int8 op hs, List.zipIdx_singleton, List.foldl_cons, List.foldl_nil,
    List.isEmpty_nil, if_true, accUpdate, hs, chunkSumInt_int8 op sl t _ n hs hw hn, hstart, ColAcc.next, Bool.false_or]
  refine ⟨rfl, ?_⟩
  rw [Bool.or_eq_true, decide_eq_true_eq, decide_eq_true_eq]
  unfold int8Sum
  omega

/-! ### A row of one array lands -/

/-- Column `n` of a row written into the accumulator with its flags, where no error strikes and the tile fits. -/
def landColumn (f : FlightRow) (sl : Slice) (m : MatState) (n : Nat) : MatState :=
  let key := accKey sl.array (f.op.base + f.row) n
  let x := columnResult f.op sl f.tile (tget 0 m.acc key) n
  { m with acc := tput 0 m.acc key x.acc, arith := accFlags sl.array x m.arith }

theorem writeRow_arith (f : FlightRow) (draws : Nat) (m : MatState) (sl : Slice) (h : tileMatches f.op f.tile = true) :
    (writeRow f [] draws m sl).arith = ((List.range f.op.n).foldl (landColumn f sl) m).arith := by
  simp only [writeRow, h, if_true, List.filter_nil, upFrom_zero]
  rfl

/-- A column's flags put its array into the int_ovf set exactly where an update wrapped. -/
theorem inSet_intOvf_accFlags (i a : Nat) (x : ColAcc) (g : ArithFlags) :
    inSet (accFlags i x g).intOvf a = true ↔ inSet g.intOvf a = true ∨ (a = i ∧ x.wrapped = true) := by
  cases hx : x.wrapped <;> simp [accFlags, hx, inSet_setWith]

theorem tget_acc_landColumn_ne (f : FlightRow) (sl : Slice) (m : MatState) {n k : Nat} (h : k ≠ n) :
    tget 0 (landColumn f sl m n).acc (accKey sl.array (f.op.base + f.row) k) =
      tget 0 m.acc (accKey sl.array (f.op.base + f.row) k) :=
  tget_tput_ne _ _ _ _ _ (by simpa [accKey] using h)

/-- As distinct columns land, each meets the accumulator word from before the row, and int_ovf gains the array where one
wraps. -/
theorem inSet_intOvf_foldl_landColumn (f : FlightRow) (sl : Slice) (a : Nat) (ns : List Nat) (hns : ns.Nodup) (m : MatState) :
    inSet (ns.foldl (landColumn f sl) m).arith.intOvf a = true ↔ inSet m.arith.intOvf a = true ∨ (a = sl.array ∧
      ∃ n ∈ ns, (columnResult f.op sl f.tile (tget 0 m.acc (accKey sl.array (f.op.base + f.row) n)) n).wrapped = true) := by
  induction ns generalizing m with
  | nil => simp
  | cons n ns ih =>
    obtain ⟨hn, hns⟩ := List.nodup_cons.mp hns
    have hkeep : ∀ k ∈ ns, tget 0 (landColumn f sl m n).acc (accKey sl.array (f.op.base + f.row) k) =
        tget 0 m.acc (accKey sl.array (f.op.base + f.row) k) :=
      fun k hk => tget_acc_landColumn_ne f sl m (by rintro rfl; exact hn hk)
    have hrest : (∃ k ∈ ns, (columnResult f.op sl f.tile
          (tget 0 (landColumn f sl m n).acc (accKey sl.array (f.op.base + f.row) k)) k).wrapped = true) ↔
        ∃ k ∈ ns, (columnResult f.op sl f.tile (tget 0 m.acc (accKey sl.array (f.op.base + f.row) k)) k).wrapped = true :=
      exists_congr fun k => and_congr_right fun hk => by rw [hkeep k hk]
    rw [List.foldl_cons, ih hns, hrest, landColumn, inSet_intOvf_accFlags, or_assoc, ← and_or_left]
    simp only [List.mem_cons, or_and_right, exists_or, exists_eq_left]

/-- Settles O19: an INT8 pass makes one exact update of each column, and distinct columns have distinct accumulator keys. -/
theorem integerRows : Obligations.IntegerRows := by
  unfold Obligations.IntegerRows
  refine ⟨fun op sl t old n => ?_, fun f draws m sl _ hfit _ _ _ a => ?_⟩
  · intro sum total hs hw _ hn
    obtain ⟨hlow, hhigh⟩ := int8Sum_bounds op sl t n
    exact ⟨hlow, hhigh, columnResult_int8 op sl t old n hs hw hn⟩
  · rw [writeRow_arith f draws m sl hfit, inSet_intOvf_foldl_landColumn f sl a _ List.nodup_range]
    simp only [List.mem_range]

end Sys2Proof.Machine

/-! SUPPORT. Scalar arithmetic (R341): the fields of a word as bit vectors, the functs of the ALU, and an instruction whose
effect is one register. -/

namespace Sys2Proof.Machine

/-! ### Fields and immediates -/

theorem fieldOf_eq_toNat (w : W64) (hi lo : Nat) : fieldOf w hi lo = (w.extractLsb' lo (hi + 1 - lo)).toNat :=
  (BitVec.extractLsb'_toNat ..).symm

theorem bitOf_eq_getLsbD (w : W64) (i : Nat) : bitOf w i = w.getLsbD i := by
  have hbit : fieldOf w i i = (w.getLsbD i).toNat := by
    rw [fieldOf, Nat.add_sub_cancel_left, Nat.pow_one, BitVec.getLsbD, Nat.toNat_testBit, Nat.shiftRight_eq_div_pow]
  cases hw : w.getLsbD i <;> simp [bitOf, hbit, hw]

/-- The low bits of a number in two's complement are the bit vector read as an integer. -/
theorem signedOf_toNat {n : Nat} (x : BitVec n) : signedOf n x.toNat = x.toInt := by
  have hx : x.toNat % 2 ^ n = x.toNat := Nat.mod_eq_of_lt x.isLt
  rw [signedOf, hx, BitVec.toInt_eq_msb_cond, BitVec.msb_eq_decide]
  simp only [decide_eq_true_eq, Int.ofNat_eq_natCast]
  split <;> split <;> omega

theorem imm32_eq_signExtend (w : W64) : imm32 w = (w.extractLsb' 0 32).signExtend 64 := by
  rw [imm32, fieldOf_eq_toNat, signedOf_toNat]
  rfl

/-- Two halves placed in a word are their concatenation. -/
theorem placed_or_placed (hi lo : W64) :
    placed (fieldOf hi 31 0) 32 ||| placed (fieldOf lo 31 0) 0 = hi.extractLsb' 0 32 ++ lo.extractLsb' 0 32 := by
  apply BitVec.eq_of_toNat_eq
  have hhi : (hi.extractLsb' 0 32).toNat < 2 ^ 32 := (hi.extractLsb' 0 32).isLt
  have hlo : (lo.extractLsb' 0 32).toNat < 2 ^ 32 := (lo.extractLsb' 0 32).isLt
  rw [fieldOf_eq_toNat, fieldOf_eq_toNat, placed, placed, BitVec.toNat_or, BitVec.toNat_append, BitVec.toNat_ofNat,
    BitVec.toNat_ofNat, Nat.shiftLeft_eq, Nat.mod_eq_of_lt (by omega), Nat.mod_eq_of_lt (by omega), Nat.pow_zero, Nat.mul_one]

/-! ### The functs of the ALU -/

/-- The upper half of the product of two words, computed with naturals and with vectors of 128 bits. -/
theorem ofNat_mul_div_eq_extractLsb' (a b : W64) :
    BitVec.ofNat 64 (a.toNat * b.toNat / 2 ^ 64) = (a.setWidth 128 * b.setWidth 128).extractLsb' 64 64 := by
  have hprod : a.toNat * b.toNat < 2 ^ 64 * 2 ^ 64 := Nat.mul_lt_mul'' a.isLt b.isLt
  apply BitVec.eq_of_toNat_eq
  rw [BitVec.toNat_ofNat, BitVec.extractLsb'_toNat, BitVec.toNat_mul, BitVec.toNat_setWidth_of_le (by decide),
    BitVec.toNat_setWidth_of_le (by decide), Nat.mod_eq_of_lt (b := 2 ^ 128) (by omega), Nat.shiftRight_eq_div_pow]

theorem ite_toInt_le {α : Type} (a b : W64) (x y : α) :
    (if a.toInt ≤ b.toInt then x else y) = if b.slt a then y else x := by
  rw [← ite_not]
  simp only [BitVec.slt_iff_toInt_lt, Int.not_le]

theorem ite_toNat_le {α : Type} (a b : W64) (x y : α) :
    (if a.toNat ≤ b.toNat then x else y) = if b.ult a then y else x := by
  rw [← ite_not]
  simp only [BitVec.ult_iff_lt, BitVec.lt_def, Nat.not_le]

theorem ite_toInt_lt {α : Type} (a b : W64) (x y : α) :
    (if a.toInt < b.toInt then x else y) = if a.slt b then x else y := by
  simp only [BitVec.slt_iff_toInt_lt]

theorem ite_toNat_lt {α : Type} (a b : W64) (x y : α) :
    (if a.toNat < b.toNat then x else y) = if a.ult b then x else y := by
  simp only [BitVec.ult_iff_lt, BitVec.lt_def]

/-! ### Instructions that write one register -/

variable {s : State} {c : CoreId} {r : SeqRow} {w : W64}

/-- An instruction that computes one register and is followed in sequence changes that register and nothing else. -/
theorem issue_setReg (rd : W64 → Nat) (v : W64 → State → W64) (h : runs s c r w = true) :
    let t := issue r c (fun w => inSequence c fun t => setReg t c (rd w) (v w t)) s
    registerOnly c (rd w) s t ∧ regAt t c (rd w) = v w s := by
  rw [issue_inSequence _ h]
  exact ⟨registerOnly_setReg _ _, by rw [regAt_retire, regAt_setReg]⟩

/-- Settles O1: each funct is the operation on bit vectors, and the three rows run in sequence and write one register. -/
theorem scalarArithmetic : Obligations.ScalarArithmetic := by
  unfold Obligations.ScalarArithmetic
  refine ⟨fun a b => ?_, fun s c w => ⟨fun h => ?_, fun h => ?_, fun h => ?_⟩⟩
  · exact ⟨rfl, rfl, rfl, rfl, rfl, rfl, rfl, rfl, rfl, ofNat_mul_div_eq_extractLsb' a b, ite_toInt_le a b a b,
      ite_toInt_le b a a b, ite_toNat_le a b a b, ite_toNat_le b a a b, ite_toInt_lt a b 1 0, ite_toNat_lt a b 1 0⟩
  · exact ⟨_, rfl, issue_setReg _ _ h⟩
  · rw [← imm32_eq_signExtend]
    exact ⟨_, rfl, issue_setReg _ _ h⟩
  · rw [← imm32_eq_signExtend, ← placed_or_placed, ← bitOf_eq_getLsbD]
    exact ⟨_, rfl, issue_setReg _ _ h⟩

end Sys2Proof.Machine

/-! SUPPORT. The loop procedure and LOOP (R343, R344): what the walk over the active loops does, what a started loop adds to
it, and what jumps and faults of the sequencer leave alone. -/

namespace Sys2Proof.Machine

/-! ### The walk over the active loops -/

/-- Loop `l` ends at index `i`. -/
def loopEndsAt (i : Nat) (ls : Table LoopCtr) (l : Nat) : Bool := (tget {} ls l).stop = i

/-- Loop `l` ends at index `i` and has passes left, so that the sequencer goes back to its start. -/
def loopGoesBack (i : Nat) (ls : Table LoopCtr) (l : Nat) : Bool := loopEndsAt i ls l && 1 < (tget {} ls l).remaining

variable {i l : Nat} {pre post order kept kept' : List Nat} {ls ls' : Table LoopCtr}

theorem loopEnd_cons_back (h : loopGoesBack i ls l = true) :
    loopEnd i (l :: post) kept ls = (kept.reverse ++ l :: post,
      tput {} ls l { tget {} ls l with remaining := (tget {} ls l).remaining - 1 }, some (tget {} ls l).start) := by
  simp only [loopGoesBack, loopEndsAt, Bool.and_eq_true, decide_eq_true_eq] at h
  obtain ⟨hstop, hmore⟩ := h
  rw [loopEnd, if_pos hstop, if_pos hmore]

/-- A loop that does not go back is left when it ends there, and kept when it does not. -/
theorem loopEnd_cons_pass (h : loopGoesBack i ls l = false) :
    loopEnd i (l :: post) kept ls = loopEnd i post (if loopEndsAt i ls l then kept else l :: kept) ls := by
  rw [loopEnd]
  by_cases hstop : (tget {} ls l).stop = i
  · have hlast : ¬ 1 < (tget {} ls l).remaining := by simpa [loopGoesBack, loopEndsAt, hstop] using h
    have hends : loopEndsAt i ls l = true := decide_eq_true hstop
    rw [if_pos hstop, if_neg hlast, if_pos hends]
  · have hends : loopEndsAt i ls l = false := decide_eq_false hstop
    rw [if_neg hstop, hends, if_neg Bool.false_ne_true]

/-- The walk passes loops that do not go back, and keeps those that do not end there. -/
theorem loopEnd_append_pass (h : ∀ x ∈ pre, loopGoesBack i ls x = false) :
    loopEnd i (pre ++ post) kept ls = loopEnd i post ((pre.filter fun x => !loopEndsAt i ls x).reverse ++ kept) ls := by
  induction pre generalizing kept with
  | nil => rfl
  | cons x pre ih =>
    obtain ⟨hx, hpre⟩ := List.forall_mem_cons.mp h
    rw [List.cons_append, loopEnd_cons_pass hx, ih hpre]
    cases hends : loopEndsAt i ls x <;> simp [hends]

/-- Where the walk goes back to depends on the counters of the active loops alone. -/
theorem loopEnd_target_congr (h : ∀ x ∈ order, tget {} ls' x = tget {} ls x) :
    (loopEnd i order kept' ls').2.2 = (loopEnd i order kept ls).2.2 := by
  induction order generalizing kept kept' with
  | nil => rfl
  | cons x order ih =>
    obtain ⟨hx, hrest⟩ := List.forall_mem_cons.mp h
    simp only [loopEnd, hx]
    split
    · split
      · rfl
      · exact ih hrest
    · exact ih hrest

theorem tget_loopEnd_of_notMem (h : l ∉ order) : tget {} (loopEnd i order kept ls).2.1 l = tget {} ls l := by
  induction order generalizing kept with
  | nil => rfl
  | cons x order ih =>
    simp only [List.mem_cons, not_or] at h
    obtain ⟨hx, hrest⟩ := h
    simp only [loopEnd]
    split
    · split
      · exact tget_tput_ne _ _ _ _ _ hx
      · exact ih hrest
    · exact ih hrest

/-- A loop kept first stays the most recently started. -/
theorem head?_loopEnd_append_singleton : (loopEnd i order (kept ++ [l]) ls).1.head? = some l := by
  induction order generalizing kept with
  | nil => simp [loopEnd]
  | cons x order ih =>
    simp only [loopEnd]
    split
    · split
      · simp
      · exact ih
    · exact ih (kept := x :: kept)

/-! ### After an instruction that is followed in sequence -/

variable {k : SeqState}

theorem followed_back (horder : k.order = pre ++ l :: post) (hpre : ∀ x ∈ pre, loopGoesBack k.pc k.loops x = false)
    (hl : loopGoesBack k.pc k.loops l = true) :
    followed k = { k with
      pc := (tget {} k.loops l).start
      loops := tput {} k.loops l { tget {} k.loops l with remaining := (tget {} k.loops l).remaining - 1 }
      order := (pre.filter fun x => !loopEndsAt k.pc k.loops x) ++ l :: post } := by
  rw [followed, horder, loopEnd_append_pass hpre, loopEnd_cons_back hl]
  simp

theorem followed_on (h : ∀ x ∈ k.order, loopGoesBack k.pc k.loops x = false) :
    followed k = { k with pc := k.pc + 1, order := k.order.filter fun x => !loopEndsAt k.pc k.loops x } := by
  have hwalk : loopEnd k.pc k.order [] k.loops = ((k.order.filter fun x => !loopEndsAt k.pc k.loops x), k.loops, none) := by
    have := loopEnd_append_pass (post := []) (kept := []) h
    rw [List.append_nil] at this
    rw [this]
    simp [loopEnd]
  rw [followed, hwalk]
  rfl

/-! ### A started loop -/

/-- Loop `l` off the list of active loops. -/
def withoutLoop (l : Nat) (k : SeqState) : SeqState := { k with order := k.order.filter fun x => x != l }

/-- Loop `l` started with counter `x`: the most recently started active loop (R344). -/
def startLoop (l : Nat) (x : LoopCtr) (k : SeqState) : SeqState :=
  { k with loops := tput {} k.loops l x, order := l :: (withoutLoop l k).order }

theorem notMem_withoutLoop : l ∉ (withoutLoop l k).order := by simp [withoutLoop]

variable {x : LoopCtr}

/-- A loop that does not end at its own LOOP is kept, and the walk goes on through the others. -/
theorem loopEnd_startLoop (hx : x.stop ≠ k.pc) :
    loopEnd k.pc (startLoop l x k).order [] (startLoop l x k).loops =
      loopEnd k.pc (withoutLoop l k).order [l] (tput {} k.loops l x) := by
  rw [startLoop, loopEnd, tget_tput_same, if_neg hx]

theorem loopEnd_target_startLoop (hx : x.stop ≠ k.pc) :
    (loopEnd k.pc (startLoop l x k).order [] (startLoop l x k).loops).2.2 =
      (loopEnd k.pc (withoutLoop l k).order [] k.loops).2.2 := by
  rw [loopEnd_startLoop hx]
  exact loopEnd_target_congr fun y hy => tget_tput_ne _ _ _ _ _ (ne_of_mem_of_not_mem hy notMem_withoutLoop)

theorem canFollow_startLoop (hx : x.stop ≠ k.pc) : canFollow (startLoop l x k) = canFollow (withoutLoop l k) :=
  congrArg (fun target : Option Nat => k.pc < lastIndex || target.isSome) (loopEnd_target_startLoop hx)

theorem pc_followed_startLoop (hx : x.stop ≠ k.pc) : (followed (startLoop l x k)).pc = (followed (withoutLoop l k)).pc :=
  congrArg (fun target : Option Nat => target.getD (k.pc + 1)) (loopEnd_target_startLoop hx)

theorem tget_loops_followed_startLoop (hx : x.stop ≠ k.pc) : tget {} (followed (startLoop l x k)).loops l = x := by
  show tget {} (loopEnd k.pc (startLoop l x k).order [] (startLoop l x k).loops).2.1 l = x
  rw [loopEnd_startLoop hx, tget_loopEnd_of_notMem notMem_withoutLoop, tget_tput_same]

theorem head?_order_followed_startLoop (hx : x.stop ≠ k.pc) : (followed (startLoop l x k)).order.head? = some l := by
  show (loopEnd k.pc (startLoop l x k).order [] (startLoop l x k).loops).1.head? = some l
  rw [loopEnd_startLoop hx]
  exact head?_loopEnd_append_singleton (kept := [])

/-! ### Faults of an engine and SEQ_PC (R343, R364, R397) -/

variable {s : State} {c : CoreId}

theorem noteFault_cores (n : Option Nat) (e : Engine) (f : FaultInfo) : (noteFault n e f s).cores = s.cores := by
  unfold noteFault
  split
  case h_1 => cases ueClass f.reason f.address <;> rfl
  all_goals rfl

theorem noteFault_claims (n : Option Nat) (e : Engine) (f : FaultInfo) : (noteFault n e f s).claims = s.claims := by
  unfold noteFault
  split
  case h_1 => cases ueClass f.reason f.address <;> rfl
  all_goals rfl

/-- Recording a fault changes no core. -/
theorem coreAt_raise (e : Engine) (f : FaultInfo) (j : Nat) : coreAt (raise e f s) j = coreAt s j := by
  unfold raise
  cases engineClaim s e with
  | none => rfl
  | some n => exact congrArg (fun cores : Table CoreState => tget {} cores j) (noteFault_cores (some n) e f)

/-- A fault of a claim whose task is live is the first of that task. -/
theorem task_raise {e : Engine} {n : Nat} (f : FaultInfo) (hclaim : engineClaim s e = some n) (hlive : taskLive s n = true) :
    ∃ y, (claimAt (raise e f s) n).task = some y ∧
      y.fault = some { info := f, engine := engineCode e, core := engineCore e, unit := engineUnit e } := by
  have hsame : claimAt (noteFault (some n) e f s) n = claimAt s n := by
    simp only [claimAt, noteFault_claims]
  unfold taskLive at hlive
  cases ht : (claimAt s n).task with
  | none => simp [ht] at hlive
  | some y =>
    simp only [ht, Option.isNone_iff_eq_none] at hlive
    simp [raise, hclaim, raiseFor, taskFaultFull, hsame, ht, hlive]

/-- A fault that the sequencer of a core with a live task raises as it stops is the first of that task. -/
theorem sequencerFaulted_raise {n : Nat} (f : FaultInfo) (h : claimRuns s c n = true) (hrun : (coreAt s c).seq.run = .faulted) :
    sequencerFaulted c n f.name f.reason (raise (.sequencer c) f s) := by
  simp only [claimRuns, Bool.and_eq_true, beq_iff_eq] at h
  obtain ⟨howner, hlive⟩ := h
  obtain ⟨y, hy, hfault⟩ := task_raise (e := .sequencer c) f howner hlive
  exact ⟨by rw [coreAt_raise, hrun], y, _, hy, hfault, rfl, rfl, rfl, rfl⟩

theorem sequencerFaulted_seqFault {n : Nat} (code reason : Nat) (name : FaultName) (h : claimRuns s c n = true) :
    sequencerFaulted c n name reason (seqFault s c code reason name) := by
  rw [seqFault, Fin.ofNat_val_eq_self]
  exact sequencerFaulted_raise { name := name, reason := reason } h (by rw [coreAt_modSeq])

theorem sequencerFaulted_seqPcFault {n : Nat} (h : claimRuns s c n = true) :
    sequencerFaulted c n .seqPc 0 (seqPcFault s c) :=
  sequencerFaulted_seqFault 2 0 .seqPc h

/-! ### Jumps -/

/-- The counters of the loops, and which are active in what order. -/
def sameLoops (a b : SeqState) : Prop := b.loops = a.loops ∧ b.order = a.order

theorem sameLoops_seqPcFault : sameLoops (coreAt s c).seq (coreAt (seqPcFault s c) c).seq := by
  simp [sameLoops, seqPcFault, seqFault, coreAt_raise]

theorem sameLoops_setReg (r : Nat) (v : W64) : sameLoops (coreAt s c).seq (coreAt (setReg s c r v) c).seq := by
  simp [sameLoops, setReg]

/-- A jump leaves the loops alone where what it does beside jumping does. -/
theorem sameLoops_jumpTo {f : State → State} (target : Int) (hf : sameLoops (coreAt s c).seq (coreAt (f s) c).seq) :
    sameLoops (coreAt s c).seq (coreAt (jumpTo c target f s) c).seq := by
  unfold jumpTo
  split
  · rw [coreAt_modSeq]
    exact hf
  · exact sameLoops_seqPcFault

theorem inProgram_ofNat (target : Nat) :
    (decide (0 ≤ Int.ofNat target) && decide (Int.ofNat target ≤ Int.ofNat lastIndex)) = decide (target ≤ 16383) := by
  have hnonneg : 0 ≤ Int.ofNat target := Int.natCast_nonneg target
  rw [decide_eq_true hnonneg, Bool.true_and]
  exact decide_eq_decide.mpr Int.ofNat_le

theorem jumpTo_of_le {target : Nat} (f : State → State) (h : target ≤ 16383) :
    jumpTo c (Int.ofNat target) f s = modSeq (f s) c fun k =>
      { k with pc := target, run := .running, wait := none, retired := wrapAdd 64 k.retired 1 } := by
  rw [jumpTo, inProgram_ofNat, decide_eq_true h, if_pos rfl]
  rfl

theorem jumpTo_of_lt {target : Nat} (f : State → State) (h : 16383 < target) :
    jumpTo c (Int.ofNat target) f s = seqPcFault s c := by
  rw [jumpTo, inProgram_ofNat, decide_eq_false (Nat.not_le_of_lt h), if_neg Bool.false_ne_true]

theorem jumped_jumpTo {target : Nat} (h : target ≤ 16383) : jumped c target [] s (jumpTo c (Int.ofNat target) id s) := by
  rw [jumpTo_of_le id h]
  simp [jumped, onlySeq, regsBut, sameSeqRest, regAt, modSeq, modCore]

variable {w : W64} {t : State}

theorem sameLoops_jmp (h : executes s c .jmp w = true) (ht : exec (.jmp c) s = .next t) :
    sameLoops (coreAt s c).seq (coreAt t c).seq := by
  change execJmp c s = .next t at ht
  simp only [execJmp, issue_executes _ h, Host.Outcome.next.injEq] at ht
  subst ht
  split
  case h_3 => exact sameLoops_jumpTo _ (sameLoops_setReg _ _)
  all_goals exact sameLoops_jumpTo _ ⟨rfl, rfl⟩

theorem sameLoops_br (h : executes s c .br w = true) (ht : exec (.br c) s = .next t)
    (htaken : condHolds (fieldOf w 57 54) (regAt s c (fieldOf w 53 49)) (regAt s c (fieldOf w 48 44))
      ((predAt s c (fieldOf w 43 41)).getLsbD 0) = true) :
    sameLoops (coreAt s c).seq (coreAt t c).seq := by
  change execBr c s = .next t at ht
  simp only [execBr, issue_executes _ h, htaken, if_true, Host.Outcome.next.injEq] at ht
  subst ht
  split
  · exact ⟨rfl, rfl⟩
  · exact sameLoops_jumpTo _ ⟨rfl, rfl⟩

/-! ### LOOP -/

/-- The count of a LOOP (R344). -/
def loopCount (s : State) (c : CoreId) (w : W64) : Nat :=
  if w.getLsbD 55 then (regAt s c (fieldOf w 54 50)).toNat % 2 ^ 32 else fieldOf w 23 0

/-- The last index of the body of a LOOP at the pc (R344). -/
def loopLast (s : State) (c : CoreId) (w : W64) : Nat := (coreAt s c).seq.pc + 1 + fieldOf w 49 34

theorem loopLast_ne_pc : loopLast s c w ≠ (coreAt s c).seq.pc := by
  unfold loopLast
  omega

/-- The sequencer with the counter that a LOOP starts. -/
def loopStarted (s : State) (c : CoreId) (w : W64) : SeqState :=
  startLoop (fieldOf w 57 56) ⟨(coreAt s c).seq.pc + 1, loopLast s c w, loopCount s c w⟩ (coreAt s c).seq

theorem exec_loop (h : executes s c .loop w = true) : exec (.loop c) s = .next (
    if loopCount s c w = 0 then jumpTo c (Int.ofNat (loopLast s c w + 1)) id s
    else if canFollow (loopStarted s c w) then retire (modSeq s c fun _ => loopStarted s c w) c else seqPcFault s c) := by
  change execLoop c s = _
  rw [execLoop, issue_executes _ h]
  simp [bitOf_eq_getLsbD, loopCount, loopLast, loopStarted, startLoop, withoutLoop, fieldOf, modSeq, modCore]

theorem exec_loop_zero (h : executes s c .loop w = true) (hn : loopCount s c w = 0) :
    exec (.loop c) s = .next (jumpTo c (Int.ofNat (loopLast s c w + 1)) id s) := by
  rw [exec_loop h, if_pos hn]

theorem exec_loop_refused (h : executes s c .loop w = true) (hn : loopCount s c w ≠ 0)
    (hfollow : canFollow (withoutLoop (fieldOf w 57 56) (coreAt s c).seq) = false) :
    exec (.loop c) s = .next (seqPcFault s c) := by
  rw [exec_loop h, if_neg hn, loopStarted, canFollow_startLoop loopLast_ne_pc, hfollow, if_neg Bool.false_ne_true]

theorem exec_loop_starts (h : executes s c .loop w = true) (hn : loopCount s c w ≠ 0)
    (hfollow : canFollow (withoutLoop (fieldOf w 57 56) (coreAt s c).seq) = true) :
    exec (.loop c) s = .next (retire (modSeq s c fun _ => loopStarted s c w) c) := by
  rw [exec_loop h, if_neg hn, loopStarted, canFollow_startLoop loopLast_ne_pc, if_pos hfollow]

theorem seq_retire_loopStarted : (coreAt (retire (modSeq s c fun _ => loopStarted s c w) c) c).seq =
    { followed (loopStarted s c w) with run := .running, wait := none, retired := wrapAdd 64 (coreAt s c).seq.retired 1 } := by
  rw [seq_retire, coreAt_modSeq]
  rfl

/-- Settles O5: the walk passes the loops that do not go back, a started loop cannot end at its own LOOP, and a jump writes no
loop counter. -/
theorem loopProcedure : Obligations.LoopProcedure := by
  unfold Obligations.LoopProcedure
  refine ⟨fun k pre post l => ⟨fun horder hpre hl => ?_, fun hnone => ?_⟩, fun s c w => ⟨?_, ?_, ?_, ?_, ?_⟩⟩
  · rw [followed_back horder hpre hl]
    exact ⟨rfl, tget_tput_same _ _ _ _, fun x hx => tget_tput_ne _ _ _ _ _ hx, rfl⟩
  · rw [followed_on hnone]
    exact ⟨rfl, rfl, rfl⟩
  · intro h hn hlast
    exact ⟨_, exec_loop_zero h hn, jumped_jumpTo hlast⟩
  · intro h hn hlast k hk
    have hbeyond : 16383 < loopLast s c w + 1 := Nat.lt_succ_of_le hlast
    refine ⟨_, exec_loop_zero h hn, ?_⟩
    rw [jumpTo_of_lt id hbeyond]
    exact sequencerFaulted_seqPcFault hk
  · intro i hi h t ht _ htaken
    simp only [List.mem_cons, List.not_mem_nil, or_false] at hi
    obtain rfl | rfl := hi
    · exact sameLoops_jmp h ht
    · exact sameLoops_br h ht (htaken rfl)
  · intro h hn hfollow k hk
    exact ⟨_, exec_loop_refused h hn hfollow, sequencerFaulted_seqPcFault hk⟩
  · intro h hn hfollow
    refine ⟨_, exec_loop_starts h hn hfollow, onlySeq_retire_modSeq _, fun r _ => ?_, ?_⟩
    · rw [regAt_retire, regAt, coreAt_modSeq]
      rfl
    · rw [seq_retire_loopStarted]
      exact ⟨⟨rfl, rfl, rfl, rfl, rfl, rfl, rfl, rfl, rfl, rfl⟩, tget_loops_followed_startLoop loopLast_ne_pc,
        head?_order_followed_startLoop loopLast_ne_pc, pc_followed_startLoop loopLast_ne_pc⟩

end Sys2Proof.Machine
